-- ==== Sys2Proof/Word.lean ====
section
/-! DEFINITION. The word types of the part: bytes, 32-bit registers, 160-bit tile words and 48-bit physical addresses. -/

namespace Sys2Proof

/-- A byte of memory. -/
abbrev Byte := BitVec 8

/-- A register, 32 bits wide (R5). -/
abbrev Word := BitVec 32

/-- A physical address of the application cores and engines (R458). -/
abbrev Addr := BitVec 48

/-- The data bits of a tile word (R4): 16 lanes of 10 bits. -/
abbrev TileData := BitVec 160

/-- A tile instruction bundle (R72). -/
abbrev Bundle := BitVec 128

end Sys2Proof
end

