-- ==== Sys2Proof/Syntax.lean ====
section
/-! DEFINITION. The commands of the part, one constructor per row of the opcode table, with their operands. Operands are what the command is given from outside: who writes or reads which value, the frame that arrives, the reading of a sensor; indices of a fixed range are Fin. -/

namespace Sys2Proof

/-- Who makes a register access: an application core (R458) or Benchmark (R464). -/
inductive Who where
  | core (c : Fin 4)
  | bmk
  deriving DecidableEq, Repr

/-- Who writes BMK_MB_CMD, and whether Benchmark is at other work then: a command that is `held` stays waiting when its row ends (R423). -/
structure MbWriter where
  who : Who
  held : Bool
  deriving DecidableEq, Repr

/-- A management-port frame's data, and whether its command is `held` as a mailbox command is (R424). -/
structure MgmtFrame where
  data : List Byte
  held : Bool
  deriving DecidableEq, Repr

/-- A 32-bit word of a tile window's memories (Table 2.9): word `k` of the WORD32 image of data word `w`, or word `k` of bundle `b`. -/
inductive TileWord where
  | data (w : Fin 8192) (k : Fin 8)
  | code (b : Fin 2048) (k : Fin 4)
  deriving DecidableEq, Repr

/-- A requester of tile memory in the background (Table 2.5). -/
inductive BgReq where
  | dma (c : Fin 2)
  | window
  | writeBack
  | scrub
  deriving DecidableEq, Repr

/-- A ring whose entries the part takes (R209, R228, R286, R313, R316, R389). -/
inductive RingRef where
  | sre (r : Fin 16)
  | bil (r : Fin 16)
  | dfl (r : Fin 4)
  | cip (p : Fin 64)
  | gret (r : Fin 4)
  | txr (r : Fin 16)
  | fab
  deriving DecidableEq, Repr

/-- A place in a memory other than tile memory and DRAM, in the bounds of Table 1.4. -/
inductive MemPlace where
  | sram (bank : Fin 16) (word : Fin 65536)
  | l2 (core : Fin 4) (bank : Fin 16) (word : Fin 8192)
  | mgmt (bank : Fin 8) (word : Fin 8192)
  deriving DecidableEq, Repr

/-- An ECC error of a memory other than tile memory and DRAM (R444): the block that detects it as its src, uncorrectable or corrected, the stored word, and the failing bit of a corrected error. -/
structure MemErr where
  src : Fin 16
  unc : Bool
  place : MemPlace
  bit : Fin 72
  deriving DecidableEq, Repr

/-- The commands of the block: one constructor per row of spec/opcode_table.json, those with operands first, each group in the order of the table. -/
inductive Instr where
  /-- REGISTER_WRITE (R5): A software write to a register that has no row of its own stores the value, or is discarded and logged if it has the wrong width or alignment. -/
  | registerWrite (who : Who) (addr : Addr) (value : Word) (aligned : Bool)
  /-- WIDE_VALUE_LOW_READ (R7): A read of the low word of a value wider than 32 bits latches its upper words and records which value they came from. -/
  | wideValueLowRead (who : Who) (addr : Addr) (aligned : Bool)
  /-- TILE_RESET (R20): A write of 1 to TILE_CTRL.reset resets the tile state to the Table 2.1 values, clears run and withdraws any waiting request. -/
  | tileReset (who : Who) (tile : Fin 96) (value : Word)
  /-- TILE_RUN (R20): A write of 1 to TILE_CTRL.run starts the tile issuing from TILE_PC; it is ignored while a fault is active and deferred during a memory fill. -/
  | tileRun (who : Who) (tile : Fin 96) (value : Word)
  /-- TILE_STOP (R113): A write of 0 to TILE_CTRL.run stops the tile after its in-flight bundles complete and withdraws any waiting bundle. -/
  | tileStop (who : Who) (tile : Fin 96) (value : Word)
  /-- MEM_INIT (R68): A write of 1 to TILE_CTRL.mem_init starts zero-filling both tile memories with valid ECC. -/
  | memInit (who : Who) (tile : Fin 96) (value : Word)
  /-- MEM_FILL_DONE (R68): After 512 tile cycles the memory fill ends; accesses held during the fill are served in order of arrival and a deferred run takes effect. -/
  | memFillDone (tile : Fin 96)
  /-- TILE_WINDOW_READ (R65): A software read of a tile data or instruction memory word through the window takes a bank slot, is ECC-checked and may latch the upper words. -/
  | tileWindowRead (who : Who) (tile : Fin 96) (word : TileWord)
  /-- TILE_WINDOW_WRITE (R66): A software write through the tile window updates a data word or bundle when its highest word is written; instruction writes are discarded while run is 1. -/
  | tileWindowWrite (who : Who) (tile : Fin 96) (word : TileWord) (value : Word)
  /-- FAULT_CLEAR (R133): A write of 1 to TILE_FAULT.active clears the fault state so that the tile can be restarted. -/
  | faultClear (who : Who) (tile : Fin 96) (value : Word)
  /-- SINGLE_STEP (R135): A write of 1 to TILE_DBG_CTRL.step issues exactly one bundle at TILE_PC and then stops the tile. -/
  | singleStep (who : Who) (tile : Fin 96) (value : Word)
  /-- LIT_BUNDLE (R74): A LIT bundle issues and writes its 32-bit literal to S15. -/
  | litBundle (tile : Fin 96) (lit : Word) (m : BitVec 36) (x : BitVec 32) (c : BitVec 24)
  /-- MAC (R82): Adds 16 lanes of 10x10 products into an accumulator, with optional negate, broadcast and clear. -/
  | mac (tile : Fin 96) (d : BitVec 5) (a : BitVec 5) (b : BitVec 5) (p : BitVec 3) (mod : BitVec 8)
  /-- MACD (R82): Adds four lanes of 20x20 double-tenth products into an accumulator. -/
  | macd (tile : Fin 96) (d : BitVec 5) (a : BitVec 5) (b : BitVec 5) (p : BitVec 3) (mod : BitVec 8)
  /-- CMAC (R83): Adds four complex products into eight accumulator lanes, with optional conjugate. -/
  | cmac (tile : Fin 96) (d : BitVec 5) (a : BitVec 5) (b : BitVec 5) (p : BitVec 3) (mod : BitVec 8)
  /-- AADD (R82): Adds an aligned vector to an accumulator. -/
  | aadd (tile : Fin 96) (d : BitVec 5) (a : BitVec 5) (b : BitVec 5) (p : BitVec 3) (mod : BitVec 8)
  /-- MUL (R84): Multiplies tenths and narrows the product, fixed or normalised. -/
  | mul (tile : Fin 96) (d : BitVec 5) (a : BitVec 5) (b : BitVec 5) (p : BitVec 3) (mod : BitVec 8)
  /-- MULD (R85): Multiplies four lanes of double-tenths and narrows them at the destination's current exponent. -/
  | muld (tile : Fin 96) (d : BitVec 5) (a : BitVec 5) (b : BitVec 5) (p : BitVec 3) (mod : BitVec 8)
  /-- ACLR (R86): Clears an accumulator, its ACCV bits, and sets its exponent. -/
  | aclr (tile : Fin 96) (d : BitVec 5) (a : BitVec 5) (b : BitVec 5) (p : BitVec 3) (mod : BitVec 8)
  /-- ALD (R86): Clears an accumulator and loads an aligned vector into it. -/
  | ald (tile : Fin 96) (d : BitVec 5) (a : BitVec 5) (b : BitVec 5) (p : BitVec 3) (mod : BitVec 8)
  /-- ALDD (R86): Clears an accumulator and loads an aligned double-tenth into it. -/
  | aldd (tile : Fin 96) (d : BitVec 5) (a : BitVec 5) (b : BitVec 5) (p : BitVec 3) (mod : BitVec 8)
  /-- AOP (R87): Moves, adds or subtracts raw accumulator lanes. -/
  | aop (tile : Fin 96) (d : BitVec 5) (a : BitVec 5) (b : BitVec 5) (p : BitVec 3) (mod : BitVec 8)
  /-- ANRM (R88): Narrows an accumulator to a tenth. -/
  | anrm (tile : Fin 96) (d : BitVec 5) (a : BitVec 5) (b : BitVec 5) (p : BitVec 3) (mod : BitVec 8)
  /-- ANRD (R88): Narrows an accumulator to a double-tenth pair. -/
  | anrd (tile : Fin 96) (d : BitVec 5) (a : BitVec 5) (b : BitVec 5) (p : BitVec 3) (mod : BitVec 8)
  /-- VADD (R90): Adds or subtracts two tenth vectors and narrows the result, fixed or normalised. -/
  | vadd (tile : Fin 96) (d : BitVec 5) (a : BitVec 5) (b : BitVec 5) (p : BitVec 3) (mod : BitVec 7)
  /-- VMAX (R90): Takes the lane-wise maximum or minimum of two vectors. -/
  | vmax (tile : Fin 96) (d : BitVec 5) (a : BitVec 5) (b : BitVec 5) (p : BitVec 3) (mod : BitVec 7)
  /-- VABS (R90): Takes the absolute value or the negation of a vector. -/
  | vabs (tile : Fin 96) (d : BitVec 5) (a : BitVec 5) (b : BitVec 5) (p : BitVec 3) (mod : BitVec 7)
  /-- VLOG (R94): Applies a bitwise AND, OR, XOR or ANDN to the data bits of two vectors. -/
  | vlog (tile : Fin 96) (d : BitVec 5) (a : BitVec 5) (b : BitVec 5) (p : BitVec 3) (mod : BitVec 7)
  /-- VREXP (R90): Re-expresses a vector at a given exponent. -/
  | vrexp (tile : Fin 96) (d : BitVec 5) (a : BitVec 5) (b : BitVec 5) (p : BitVec 3) (mod : BitVec 7)
  /-- VNORM (R90): Normalises a vector. -/
  | vnorm (tile : Fin 96) (d : BitVec 5) (a : BitVec 5) (b : BitVec 5) (p : BitVec 3) (mod : BitVec 7)
  /-- VSCL (R91): Sets a vector's exponent, or scales its values by a power of two. -/
  | vscl (tile : Fin 96) (d : BitVec 5) (a : BitVec 5) (b : BitVec 5) (p : BitVec 3) (mod : BitVec 7)
  /-- VRCP (R92): Computes lane-wise reciprocals, with the defined handling of zero lanes. -/
  | vrcp (tile : Fin 96) (d : BitVec 5) (a : BitVec 5) (b : BitVec 5) (p : BitVec 3) (mod : BitVec 7)
  /-- VCMP (R93): Compares lane values and writes a predicate. -/
  | vcmp (tile : Fin 96) (d : BitVec 5) (a : BitVec 5) (b : BitVec 5) (p : BitVec 3) (mod : BitVec 7)
  /-- PLOG (R89): Combines two predicates bitwise. -/
  | plog (tile : Fin 96) (d : BitVec 5) (a : BitVec 5) (b : BitVec 5) (p : BitVec 3) (mod : BitVec 7)
  /-- PMOVI (R89): Writes an immediate to a predicate. -/
  | pmovi (tile : Fin 96) (d : BitVec 5) (a : BitVec 5) (imm : BitVec 15)
  /-- PMOV (R89): Moves a value between a scalar and a predicate. -/
  | pmov (tile : Fin 96) (d : BitVec 5) (a : BitVec 5) (b : BitVec 5) (p : BitVec 3) (mod : BitVec 7)
  /-- VBCAST (R94): Broadcasts one lane to every lane. -/
  | vbcast (tile : Fin 96) (d : BitVec 5) (a : BitVec 5) (b : BitVec 5) (p : BitVec 3) (mod : BitVec 7)
  /-- VROT (R94): Rotates the lanes of a vector. -/
  | vrot (tile : Fin 96) (d : BitVec 5) (a : BitVec 5) (b : BitVec 5) (p : BitVec 3) (mod : BitVec 7)
  /-- VPERM (R94): Permutes lanes by the indices held in another vector. -/
  | vperm (tile : Fin 96) (d : BitVec 5) (a : BitVec 5) (b : BitVec 5) (p : BitVec 3) (mod : BitVec 7)
  /-- VSEL (R90): Selects each lane from one of two vectors under a predicate. -/
  | vsel (tile : Fin 96) (d : BitVec 5) (a : BitVec 5) (b : BitVec 5) (p : BitVec 3) (mod : BitVec 7)
  /-- VZIP (R94): Interleaves the lanes of two vectors. -/
  | vzip (tile : Fin 96) (d : BitVec 5) (a : BitVec 5) (b : BitVec 5) (p : BitVec 3) (mod : BitVec 7)
  /-- VUZP (R94): De-interleaves the lanes of two vectors. -/
  | vuzp (tile : Fin 96) (d : BitVec 5) (a : BitVec 5) (b : BitVec 5) (p : BitVec 3) (mod : BitVec 7)
  /-- VCSWP (R95): Multiplies complex lanes by +j or -j. -/
  | vcswp (tile : Fin 96) (d : BitVec 5) (a : BitVec 5) (b : BitVec 5) (p : BitVec 3) (mod : BitVec 7)
  /-- BFLY (R96): Writes a sum and a difference to a pair with exponent growth. -/
  | bfly (tile : Fin 96) (d : BitVec 5) (a : BitVec 5) (b : BitVec 5) (p : BitVec 3) (mod : BitVec 7)
  /-- CVTI (R98): Converts G.711 or linear bytes to tenths or double-tenths. -/
  | cvti (tile : Fin 96) (d : BitVec 5) (a : BitVec 5) (b : BitVec 5) (p : BitVec 3) (mod : BitVec 7)
  /-- CVTO (R99): Converts tenths or double-tenths to G.711 or linear bytes. -/
  | cvto (tile : Fin 96) (d : BitVec 5) (a : BitVec 5) (b : BitVec 5) (p : BitVec 3) (mod : BitVec 7)
  /-- SALU (R101): Performs a 32-bit scalar ALU operation. -/
  | salu (tile : Fin 96) (d : BitVec 5) (a : BitVec 5) (b : BitVec 5) (p : BitVec 3) (mod : BitVec 7)
  /-- SADDI (R89): Adds a signed immediate to a scalar. -/
  | saddi (tile : Fin 96) (d : BitVec 5) (a : BitVec 5) (imm : BitVec 15)
  /-- SANDI (R89): ANDs a scalar with a zero-extended immediate. -/
  | sandi (tile : Fin 96) (d : BitVec 5) (a : BitVec 5) (imm : BitVec 15)
  /-- SMOVI (R89): Loads a sign-extended 20-bit immediate into a scalar. -/
  | smovi (tile : Fin 96) (d : BitVec 5) (a : BitVec 5) (imm : BitVec 15)
  /-- SMOVH (R89): Writes the upper 16 bits of a scalar. -/
  | smovh (tile : Fin 96) (d : BitVec 5) (a : BitVec 5) (imm : BitVec 15)
  /-- VEXT (R89): Extracts one lane mantissa to a scalar. -/
  | vext (tile : Fin 96) (d : BitVec 5) (a : BitVec 5) (b : BitVec 5) (p : BitVec 3) (mod : BitVec 7)
  /-- VINS (R89): Inserts a scalar into one lane mantissa. -/
  | vins (tile : Fin 96) (d : BitVec 5) (a : BitVec 5) (b : BitVec 5) (p : BitVec 3) (mod : BitVec 7)
  /-- VGETE (R89): Reads a vector's exponent into a scalar. -/
  | vgete (tile : Fin 96) (d : BitVec 5) (a : BitVec 5) (b : BitVec 5) (p : BitVec 3) (mod : BitVec 7)
  /-- SATCLR (R28): Clears the SATF bits selected by a predicate. -/
  | satclr (tile : Fin 96) (d : BitVec 5) (a : BitVec 5) (b : BitVec 5) (p : BitVec 3) (mod : BitVec 7)
  /-- SATGET (R28): Reads SATF into a scalar. -/
  | satget (tile : Fin 96) (d : BitVec 5) (a : BitVec 5) (b : BitVec 5) (p : BitVec 3) (mod : BitVec 7)
  /-- VLD (R103): Loads a word and post-updates its address register. -/
  | vld (tile : Fin 96) (v : BitVec 5) (a : BitVec 3) (inc : BitVec 6)
  /-- VST (R103): Stores a full word and post-updates its address register. -/
  | vst (tile : Fin 96) (v : BitVec 5) (a : BitVec 3) (inc : BitVec 6)
  /-- VLDO (R103): Loads a word at a ring offset without updating the address register. -/
  | vldo (tile : Fin 96) (v : BitVec 5) (a : BitVec 3) (inc : BitVec 6)
  /-- VSTO (R103): Stores a word at a ring offset without updating the address register. -/
  | vsto (tile : Fin 96) (v : BitVec 5) (a : BitVec 3) (inc : BitVec 6)
  /-- VSTP (R105): Performs a predicated store with address update. -/
  | vstp (tile : Fin 96) (r : BitVec 5) (a : BitVec 3) (p : BitVec 3) (imm : BitVec 13) (x : BitVec 4)
  /-- VLDD (R107): Loads a double-tenth pair from an even address. -/
  | vldd (tile : Fin 96) (r : BitVec 5) (a : BitVec 3) (p : BitVec 3) (imm : BitVec 13) (x : BitVec 4)
  /-- VSTD (R107): Stores a double-tenth pair to an even address. -/
  | vstd (tile : Fin 96) (r : BitVec 5) (a : BitVec 3) (p : BitVec 3) (imm : BitVec 13) (x : BitVec 4)
  /-- SLD (R108): Loads a 32-bit field of a word into a scalar. -/
  | sld (tile : Fin 96) (r : BitVec 5) (a : BitVec 3) (p : BitVec 3) (imm : BitVec 13) (x : BitVec 4)
  /-- SST (R108): Stores a scalar into a 32-bit field of a word as a partial store. -/
  | sst (tile : Fin 96) (r : BitVec 5) (a : BitVec 3) (p : BitVec 3) (imm : BitVec 13) (x : BitVec 4)
  /-- VLDX (R105): Loads a word at an offset held in a scalar. -/
  | vldx (tile : Fin 96) (r : BitVec 5) (a : BitVec 3) (p : BitVec 3) (imm : BitVec 13) (x : BitVec 4)
  /-- VSTX (R105): Performs a predicated store at an offset held in a scalar. -/
  | vstx (tile : Fin 96) (r : BitVec 5) (a : BitVec 3) (p : BitVec 3) (imm : BitVec 13) (x : BitVec 4)
  /-- AINC (R105): Updates an address register by an immediate. -/
  | ainc (tile : Fin 96) (r : BitVec 5) (a : BitVec 3) (p : BitVec 3) (imm : BitVec 13) (x : BitVec 4)
  /-- AMOV (R106): Writes an address, ring base or ring length register from a scalar. -/
  | amov (tile : Fin 96) (r : BitVec 5) (a : BitVec 3) (p : BitVec 3) (imm : BitVec 13) (x : BitVec 4)
  /-- AGET (R106): Reads an address, ring base or ring length register into a scalar. -/
  | aget (tile : Fin 96) (r : BitVec 5) (a : BitVec 3) (p : BitVec 3) (imm : BitVec 13) (x : BitVec 4)
  /-- ASET (R106): Writes an address, ring base or ring length register from an immediate. -/
  | aset (tile : Fin 96) (r : BitVec 5) (a : BitVec 3) (p : BitVec 3) (imm : BitVec 13) (x : BitVec 4)
  /-- DMA_GO (R109): Submits a DMA descriptor from four scalars and returns acceptance or a refusal code. -/
  | dmaGo (tile : Fin 96) (r : BitVec 5) (a : BitVec 3) (p : BitVec 3) (imm : BitVec 13) (x : BitVec 4)
  /-- DMA_STAT (R110): Reads a channel's DMA status and optionally clears done and err. -/
  | dmaStat (tile : Fin 96) (r : BitVec 5) (a : BitVec 3) (p : BitVec 3) (imm : BitVec 13) (x : BitVec 4)
  /-- DMA_WAIT (R110): Holds the bundle until one or both DMA channels are idle. -/
  | dmaWait (tile : Fin 96) (r : BitVec 5) (a : BitVec 3) (p : BitVec 3) (imm : BitVec 13) (x : BitVec 4)
  /-- BR (R115): Branches to the target when its condition holds. -/
  | br (tile : Fin 96) (f : BitVec 18)
  /-- CALL (R115): Writes the return address to a scalar and branches. -/
  | call (tile : Fin 96) (f : BitVec 18)
  /-- RET (R115): Branches to the address held in a scalar. -/
  | ret (tile : Fin 96) (f : BitVec 18)
  /-- LOOP (R117): Sets up a zero-overhead block-repeat level. -/
  | loop (tile : Fin 96) (f : BitVec 18)
  /-- HALT (R118): Stops the tile and signals a tile-stopped event. -/
  | halt (tile : Fin 96) (f : BitVec 18)
  /-- BKPT (R118): Stops the tile as a breakpoint when bkpt_en is 1, and otherwise does nothing. -/
  | bkpt (tile : Fin 96) (f : BitVec 18)
  /-- TASK_ASK (R119): Ends any held node and asks Traverse for a node, waiting for the dispatch record. -/
  | taskAsk (tile : Fin 96) (f : BitVec 18)
  /-- TASK_END (R120): Ends the held node with a status after older stores complete. -/
  | taskEnd (tile : Fin 96) (f : BitVec 18)
  /-- DBELL (R127): Rings a TOK doorbell that adds tokens to a node port, or a HOST doorbell. -/
  | dbell (tile : Fin 96) (f : BitVec 18)
  /-- QTAKE (R122): Takes the next item of a queue, waiting until one is present. -/
  | qtake (tile : Fin 96) (f : BitVec 18)
  /-- QPEEK (R123): Reads the next item of a queue without taking it. -/
  | qpeek (tile : Fin 96) (f : BitVec 18)
  /-- QSKIP (R124): Steps the read pointer past an empty slot. -/
  | qskip (tile : Fin 96) (f : BitVec 18)
  /-- QMARK (R125): Sets the rewind mark at the read pointer. -/
  | qmark (tile : Fin 96) (f : BitVec 18)
  /-- REWIND (R125): Returns the read pointer to the rewind mark. -/
  | rewind (tile : Fin 96) (f : BitVec 18)
  /-- ANSWER_ARRIVAL (R111): An answer from Traverse or the queue engine reaches a waiting tile, and the waiting bundle issues. -/
  | answerArrival (tile : Fin 96)
  /-- REQUEST_WITHDRAWAL (R113): A withdrawal reaches Traverse or the queue engine and cancels the request unless its answer was already committed. -/
  | requestWithdrawal (tile : Fin 96)
  /-- TILE_DMA_GO (R70): A software write of 1 to TILE_DMAn_CTRL.go copies the descriptor and submits it, or refuses it under R60. -/
  | tileDmaGo (who : Who) (tile : Fin 96) (chan : Fin 2) (value : Word)
  /-- DMA_TRANSFER_DONE (R63): A DMA transfer completes; done is set, and a pending descriptor starts in the next cycle. -/
  | dmaTransferDone (tile : Fin 96) (chan : Fin 2)
  /-- DMA_ERROR_STOP (R63): An error response stops a DMA transfer with err_code MEM and discards the pending descriptor. -/
  | dmaErrorStop (tile : Fin 96) (chan : Fin 2)
  /-- BACKGROUND_AGED (R50): A waiting background request reaches its age limit and is granted ahead of tile reads. -/
  | backgroundAged (tile : Fin 96) (req : BgReq) (bank : Fin 8) (readDenied : Bool)
  /-- ECC_WRITEBACK (R53): A queued write-back of a corrected tile word is granted and written, unless it was cancelled. -/
  | eccWriteback (tile : Fin 96)
  /-- TILE_SCRUB_READ (R57): The tile scrub interval expires and the scrubber reads the next data word and the next instruction bundle. -/
  | tileScrubRead (tile : Fin 96)
  /-- SCRUB_CTRL_WRITE (R57): A write to TILE_SCRUB_CTRL restarts the scrub interval count and sets its enable and interval. -/
  | scrubCtrlWrite (who : Who) (tile : Fin 96) (value : Word)
  /-- TOKEN_ADDITION (R140): A token addition reaches Traverse and is applied to a node port, or is refused. -/
  | tokenAddition (sender : Fin 97)
  /-- ASK_ARRIVAL (R149): A tile's ask reaches Traverse and joins its cluster's asking tiles. -/
  | askArrival (tile : Fin 96)
  /-- DISPATCH (R149): Traverse selects the head READY node for the oldest asking tile of a cluster and makes the node RUNNING. -/
  | dispatch (cluster : Fin 12)
  /-- NODE_END (R151): A node end reaches Traverse and is applied by its status: DONE, REQUEUE or ERROR. -/
  | nodeEnd (tile : Fin 96)
  /-- HOST_DOORBELL_ARRIVAL (R121): A HOST DBELL reaches Traverse and sets its TRV_HDB_STAT bit. -/
  | hostDoorbellArrival (tile : Fin 96)
  /-- TIMER_FIRING (R157): A timer whose wake is not in the future fires, adds tokens and is disarmed or re-placed. -/
  | timerFiring (cluster : Fin 12)
  /-- TIMER_PLACEMENT (R156): A timer placement completes its walk of the delay list and inserts the timer, marking it late if due. -/
  | timerPlacement (cluster : Fin 12)
  /-- LOAD (R145): The Traverse LOAD command starts reading a graph descriptor and checks it. -/
  | load (who : Who) (index : BitVec 15)
  /-- UNLOAD (R147): Frees a cancelled, idle graph's entries and removes its pool. -/
  | unload (who : Who) (index : BitVec 15)
  /-- CANCEL_NODE (R161): Cancels a node by its state and returns its tokens. -/
  | cancelNode (who : Who) (index : BitVec 15)
  /-- CANCEL_GRAPH (R163): Cancels a graph, all of its nodes and all of its timers. -/
  | cancelGraph (who : Who) (index : BitVec 15)
  /-- ADD_TOK (R140): Adds tokens to a node port from software. -/
  | addTok (who : Who) (index : BitVec 15)
  /-- ARM (R159): Places a timer on its delay list with a wake tick. -/
  | arm (who : Who) (index : BitVec 15)
  /-- DISARM (R159): Removes a timer from its delay list. -/
  | disarm (who : Who) (index : BitVec 15)
  /-- RESUME (R152): Moves a HALTED node to IDLE and evaluates its readiness. -/
  | resume (who : Who) (index : BitVec 15)
  /-- RELEASE (R152): Ends the node held by a stopped tile. -/
  | release (who : Who) (index : BitVec 15)
  /-- READ_ENTRY (R165): Copies a consistent resident entry to TRV_CMD_DATA0 to TRV_CMD_DATA3. -/
  | readEntry (who : Who) (index : BitVec 15)
  /-- TRV_RESERVED_OP (R165): A write of a reserved op to TRV_CMD starts nothing and sets err with code OP. -/
  | trvReservedOp (who : Who) (op : Fin 6) (index : BitVec 15)
  /-- TRV_ENABLE (R153): A write to TRV_CTRL.enable starts or stops timer firing and dispatch; enabling fires due timers at the next boundary. -/
  | trvEnable (who : Who) (value : Word)
  /-- TICK_MULT_WRITE (R153): A write of mult while Traverse is disabled changes the tick period at once. -/
  | tickMultWrite (who : Who) (value : Word)
  /-- TRV_AUDIT_SNAPSHOT (R167): A write of 1 to TRV_AUD_SNAP latches the device-wide token sums. -/
  | trvAuditSnapshot (who : Who)
  /-- ENABLE (R189): Checks a queue record and enables the queue with cleared pointers and presence bits. -/
  | enable (who : Who) (queue : BitVec 16)
  /-- DISABLE (R176): Discards a queue's items, faults its parked QTAKEs and disables the queue. -/
  | disable (who : Who) (queue : BitVec 16)
  /-- FLUSH (R186): Flushes a queue at a packet boundary, or sets fpend. -/
  | flush (who : Who) (queue : BitVec 16)
  /-- FLUSH_NOW (R186): Flushes a queue at once. -/
  | flushNow (who : Who) (queue : BitVec 16)
  /-- PUSH (R174): Pushes an item from software. -/
  | push (who : Who) (queue : BitVec 16)
  /-- SYNC (R188): Sets the sequence and pointers of an empty placement queue. -/
  | sync (who : Who) (queue : BitVec 16)
  /-- CLRCNT (R188): Clears a queue's lost, mark_lost, late and dup counters. -/
  | clrcnt (who : Who) (queue : BitVec 16)
  /-- JQ_RESERVED_OP (R188): A write of a reserved op to JQ_CMD starts nothing and sets err with code OP. -/
  | jqReservedOp (who : Who) (op : Fin 9) (queue : BitVec 16)
  /-- EVENT_POP (R184): A read of JQ_EV_POP removes and returns the oldest watermark event. -/
  | eventPop (who : Who)
  /-- JQ_AUDIT_SNAPSHOT (R190): A write of 1 to JQ_AUD_SNAP latches the queue audit sums. -/
  | jqAuditSnapshot (who : Who)
  /-- QUEUE_RECORD_READ (R193): A read of a queue record's W0 latches W1 to W7. -/
  | queueRecordRead (who : Who) (queue : BitVec 16)
  /-- RING_ENABLE (R209): Enabling a job ring zeroes its consumer word and PROD register; disabling it clears its error. -/
  | ringEnable (who : Who) (ring : RingRef) (value : Word)
  /-- PRODUCER_WORD_WRITE (R210): A write to a ring's producer word is reported, read by the engine, and checked for overfill. -/
  | producerWordWrite (who : Who) (ring : RingRef) (value : Word)
  /-- SRE_JOB_FETCH (R211): A free sample-rate engine fetches the next job from its highest-priority ring and checks it. -/
  | sreJobFetch (engine : Fin 4)
  /-- SRE_JOB_START (R212): The job's descriptor and input arrive; flags and measurement are applied and the signal chain runs. -/
  | sreJobStart (engine : Fin 4)
  /-- SRE_JOB_COMPLETE (R212): When every write is acknowledged, the job's status is written and the consumer word advances. -/
  | sreJobComplete (engine : Fin 4)
  /-- LOAD_COEF (R215): Starts loading a coefficient bank, waiting for jobs that use the bank. -/
  | loadCoef (who : Who)
  /-- ENCODE (R223): Codes blocks of tile words into billets. -/
  | encode (ring : Fin 16)
  /-- DECODE (R227): Decodes billets into tile words and checks the CRC. -/
  | decode (ring : Fin 16)
  /-- BIL_JOB_COMPLETE (R228): A billet job's status words are written after its writes are acknowledged, and the consumer word advances. -/
  | bilJobComplete (ring : Fin 16)
  /-- DRAM_READ (R257): A read request enters a channel queue and returns an ECC-checked block. -/
  | dramRead (port : Fin 16) (src : Nat) (cls : Option (BitVec 2)) (addr : Addr)
  /-- DRAM_WRITE (R257): A write request enters a channel queue and is acknowledged. -/
  | dramWrite (port : Fin 16) (src : Nat) (cls : Option (BitVec 2)) (addr : Addr) (data : List Byte)
  /-- DRAM_COMMAND_ISSUE (R259): In each command slot the channel issues the command of the best-keyed request that timing allows. -/
  | dramCommandIssue (ch : Fin 4) (ready : List Nat)
  /-- PER_BANK_REFRESH (R262): A per-bank refresh falls due and is issued ahead of requests. -/
  | perBankRefresh (ch : Fin 4) (rank : Fin 2) (bank : Fin 16) (postpone : Bool)
  /-- MR4_READOUT (R242): Every 32 ms the controller reads MR4 on each rank and sets the refresh rate. -/
  | mr4Readout (ch : Fin 4) (rank : Fin 2) (value : BitVec 8)
  /-- RETRAIN_START (R267): A retraining falls due and starts with its start pause, forced after twice the interval. -/
  | retrainStart (ch : Fin 4)
  /-- RETRAIN_READBACK (R266): The gathering window ends and the readback pause moves the PHY delays. -/
  | retrainReadback (ch : Fin 4) (delay : Option Nat)
  /-- FREQ_REQUEST (R269): A write of DMC_FREQ.req asks for a set-point change, which is accepted or refused. -/
  | freqRequest (who : Who) (value : Word)
  /-- DMC_SCRUB_READ (R254): The DRAM scrub interval expires and one block is read and corrected if needed. -/
  | dmcScrubRead (ch : Fin 4)
  /-- SEED_GROUP (R490): Seeding reads a 512-byte group and writes its check block. -/
  | seedGroup (ch : Fin 4)
  /-- COMMAND_PATH_ERROR (R271): A command-path error is detected; it raises a record and freezes the controller. -/
  | commandPathError (kind : Fin 5) (ch : Fin 4) (port : Fin 16)
  /-- DMC_ENABLE (R274): Setting DMC_CTRL.enable starts serving requests and seeding. -/
  | dmcEnable (who : Who) (value : Word)
  /-- DMC_RNG_SEED (R264): A Benchmark write of DMC_RNG_SEED1 applies both neighbour-refresh seed words. -/
  | dmcRngSeed (who : Who) (value : Word)
  /-- UNWRAP (R282): Installs a wrapped key blob into a key slot. -/
  | unwrap (who : Who) (page : Fin 64) (kek : Fin 16) (slot : BitVec 12)
  /-- ERASE (R284): Zeroes a key slot or pair. -/
  | erase (who : Who) (page : Fin 64) (slot : BitVec 12)
  /-- EXPORT (R283): Wraps a slot's session keys under a transfer KEK. -/
  | exportKeys (who : Who) (page : Fin 64) (kek : Fin 16) (slot : BitVec 12)
  /-- CIP_RESERVED_OP (R297): A write of a reserved op to CIP_U_CMD starts nothing and sets err with code 11. -/
  | cipReservedOp (who : Who) (page : Fin 64) (op : Fin 13) (slot : BitVec 12)
  /-- CIPHER_SCHEDULE (R293): A free core takes the next command or job, and the job snapshots its key slot. -/
  | cipherSchedule (core : Fin 8)
  /-- PROTECT (R287): A ring job protects an SRTP or SRTCP packet. -/
  | protect (core : Fin 8)
  /-- UNPROTECT (R290): A ring job verifies and decrypts a packet with replay checking. -/
  | unprotect (core : Fin 8)
  /-- CIPHER_JOB_COMPLETE (R291): A cipher job ends and its status and counters are written in ring order. -/
  | cipherJobComplete (src : Option (Fin 64))
  /-- PAGE_SLOTS_WRITE (R279): A write of CIP_PAGEp_SLOTS assigns a slot range, or is refused. -/
  | pageSlotsWrite (who : Who) (page : Fin 64) (value : Word)
  /-- CIP_RNG_SEED (R294): A Benchmark write of CIP_RNG_SEED1 seeds the cipher random source. -/
  | cipRngSeed (who : Who) (value : Word)
  /-- FRAME_ARRIVAL (R300): A frame arrives on a port and is written into cells, or dropped when no cell is available. -/
  | frameArrival (port : Fin 16) (frame : List Byte) (good : Bool) (raw : BitVec 80)
  /-- SET (R311): Copies a flow entry from memory. -/
  | set (who : Who) (flow : BitVec 16)
  /-- CLEAR (R311): Zeroes a flow entry. -/
  | clear (who : Who) (flow : BitVec 16)
  /-- GET (R311): Copies a flow entry with its context to memory. -/
  | get (who : Who) (flow : BitVec 16)
  /-- FWD_ENTRY_WRITE (R305): A write of PKT_FWD_W2 applies a forwarding table entry. -/
  | fwdEntryWrite (who : Who) (value : Word)
  /-- PKT_ENABLE (R308): Setting PKT_CTRL.enable fills the granule free list. -/
  | pktEnable (who : Who) (value : Word)
  /-- GRANULE_RETURN (R313): An entry of a granule return ring returns its granule to the free list. -/
  | granuleReturn (ring : Fin 4)
  /-- TX_FETCH (R316): A transmit ring entry is fetched and its frame is built in cells. -/
  | txFetch (ring : Fin 16)
  /-- GATE_POLL (R317): Every 1 µs a gated frame re-reads its cipher status and proceeds, or drops on timeout. -/
  | gatePoll (ring : Fin 16)
  /-- LAUNCH_TIME_REACHED (R319): Network time reaches a launch-mode head frame's launch time and the frame is offered. -/
  | launchTimeReached (port : Fin 16) (cls : Fin 8)
  /-- FRAME_TRANSMIT (R321): A port starts a frame from the highest ready class, respecting due launch times. -/
  | frameTransmit (port : Fin 16) (frac : BitVec 16)
  /-- TX_COMPLETE (R316): A frame leaves the MAC or is dropped, its cells are freed and its status is written. -/
  | txComplete (port : Fin 16)
  /-- TX_LINK_TIMEOUT (R316): A port's link stays down for 10 ms with a frame at its queue head, and the frame ends with code LINK. -/
  | txLinkTimeout (port : Fin 16) (cls : Fin 8)
  /-- LINK_CHANGE (R299): A port's link comes up or goes down after auto-negotiation. -/
  | linkChange (port : Fin 16) (partner : Option (BitVec 8))
  /-- WAKE_MATCH (R323): A watched frame matches a wake pattern in M1 and starts the exit from M1. -/
  | wakeMatch (port0 : Bool) (frame : List Byte) (good : Bool)
  /-- PKT_AUDIT_SNAPSHOT (R325): A write of 1 to PKT_AUD_SNAP latches the cell and granule sums. -/
  | pktAuditSnapshot (who : Who)
  /-- NT_READ_LATCH (R332): A read of DTM_NT_FRAC latches network time with its monotonic count. -/
  | ntReadLatch (who : Who)
  /-- FFO_WRITE (R331): A software write of DTM_FFO changes the frequency offset and starts a segment. -/
  | ffoWrite (who : Who) (value : Word)
  /-- SLEW_WRITE (R333): A write of DTM_SLEW_OFS starts or replaces a slew. -/
  | slewWrite (who : Who) (value : Word)
  /-- STEP_GO (R334): A write of DTM_STEP_CTRL.go steps network time. -/
  | stepGo (who : Who)
  /-- STEP_CONFIRM (R339): A write of confirm applies the pending backward step. -/
  | stepConfirm (who : Who)
  /-- STEP_CANCEL (R339): A write of cancel clears the pending step. -/
  | stepCancel (who : Who)
  /-- SERVO_SOURCE_WRITE (R336): A write of DTM_SRV_CFG.src selects the source and puts the servo in FREE. -/
  | servoSourceWrite (who : Who) (value : Word)
  /-- SERVO_MEASUREMENT (R338): A PTP, PPS or SyncE measurement drives the servo's step, pending step or ffo. -/
  | servoMeasurement (who : Who) (lo hi : Word)
  /-- EVENT_OUT_ARM (R348): A write of DTM_EVOk_START_S_HI arms an event output. -/
  | eventOutArm (who : Who) (out : Fin 4) (value : Word)
  /-- EVENT_OUT_PULSE (R349): Network time reaches an output's instant and a pulse starts. -/
  | eventOutPulse (out : Fin 4)
  /-- EVENT_OUT_PULSE_END (R348): An output pulse ends after its width. -/
  | eventOutPulseEnd (out : Fin 5)
  /-- EVENT_IN_CAPTURE (R351): An edge on an event input is captured into its FIFO, or lost. -/
  | eventInCapture (inp : Fin 5) (rising : Bool)
  /-- CAPTURE_POP (R351): A read of DTM_EVIi_TS0 pops a capture and latches the rest. -/
  | capturePop (who : Who) (inp : Fin 5)
  /-- SYNCE_WINDOW (R352): A SyncE window ends and writes the measured offset. -/
  | synceWindow (offset : Option Word)
  /-- LINK_TIMEOUT (R366): No HELLO for 400 ms, so the link returns to NONE. -/
  | linkTimeout (link : Fin 64)
  /-- FABRIC_FRAME_SEND (R369): A credited fabric frame starts when credit allows. -/
  | fabricFrameSend (link : Fin 64) (cls : Fin 4)
  /-- CREDIT_SEND (R371): The router sends a CREDIT on a link. -/
  | creditSend (link : Fin 64)
  /-- CREDIT_WRITE_OFF (R375): A lag behind a reported sent total persists for loss_to and is written off. -/
  | creditWriteOff (link : Fin 64) (cls : Fin 4)
  /-- TRANSIT_TIMEOUT (R377): A transit frame waits transit_to for credit and is dropped. -/
  | transitTimeout (link : Fin 64) (cls : Fin 4)
  /-- NEXT_HOP_EXPIRY (R385): A next hop not refreshed for 4 s leaves its set. -/
  | nextHopExpiry (addr : BitVec 14) (link : Fin 64)
  /-- SESSION_OPEN (R390): A write of FAB_MIGs_CFG with open = 1 opens a migration session. -/
  | sessionOpen (who : Who) (sess : Fin 16) (value : BitVec 31)
  /-- SESSION_CLOSE (R390): A write with open = 0 closes a migration session. -/
  | sessionClose (who : Who) (sess : Fin 16) (value : BitVec 31)
  /-- SEGSEND (R391): Queues a byte range to be sent as MIGD frames. -/
  | segsend (who : Who) (sess : Fin 16)
  /-- QSEND (R392): Queues a queue's items to be sent as MIGQ frames. -/
  | qsend (who : Who) (sess : Fin 16)
  /-- MIGA (R394): A MIGA acknowledgement is sent or received. -/
  | miga (sess : Option (Fin 16))
  /-- MIGRATION_RETRANSMIT (R394): E does not advance for mig_rto and the session resends from E. -/
  | migrationRetransmit (sess : Fin 16)
  /-- RT_SET (R387): Installs a static route. -/
  | rtSet (who : Who)
  /-- RT_CLEAR (R387): Returns a route to learning. -/
  | rtClear (who : Who)
  /-- RT_READ (R387): Reads a route entry into FAB_RT_DATA0 and FAB_RT_DATA1. -/
  | rtRead (who : Who)
  /-- LINK_RESET (R366): Returns a link to NONE. -/
  | linkReset (who : Who) (link : Fin 64)
  /-- FAB_AUDIT_SNAPSHOT (R378): A write of 1 to FAB_AUD_SNAP latches the credit sums. -/
  | fabAuditSnapshot (who : Who)
  /-- SENSOR_SAMPLE (R401): Each ms Benchmark samples its sensors and evaluates thresholds. -/
  | sensorSample (readings : List (BitVec 16))
  /-- EXT_TEMP (R403): Each second Benchmark reads the external I2C temperature. -/
  | extTemp (reading : Option (BitVec 16))
  /-- IDENTITY (R423): Returns the identity record. -/
  | identity (who : MbWriter)
  /-- LOG_READ (R406): Copies event records to the buffer. -/
  | logRead (who : MbWriter)
  /-- UPDATE_BEGIN (R415): Opens an update session on the inactive slot. -/
  | updateBegin (who : MbWriter)
  /-- UPDATE_DATA (R415): Writes an update chunk at the next offset. -/
  | updateData (who : MbWriter)
  /-- UPDATE_END (R415): Verifies the updated slot and marks it pending or empty. -/
  | updateEnd (who : MbWriter)
  /-- UPDATE_ABORT (R415): Closes the update session and empties the slot. -/
  | updateAbort (who : MbWriter)
  /-- BOOT_CONFIRM (R412): Makes the trial slot active and raises the anti-rollback count. -/
  | bootConfirm (who : MbWriter)
  /-- KEY_REVOKE (R400): Blows a signing key record's revoke fuse. -/
  | keyRevoke (who : MbWriter)
  /-- ATTEST (R417): Returns a dual-signed quote over a nonce. -/
  | attest (who : MbWriter)
  /-- CAL_READ (R421): Copies the calibration set to the buffer. -/
  | calRead (who : MbWriter)
  /-- CAL_WRITE (R421): Overwrites the calibration set in flash. -/
  | calWrite (who : MbWriter)
  /-- KEK0_FUSE (R418): Fuses KEK 0 into OTP once. -/
  | kek0Fuse (who : MbWriter)
  /-- KEK_SET (R419): Installs a transfer KEK from a blob. -/
  | kekSet (who : MbWriter)
  /-- KEK_CLEAR (R419): Removes a transfer KEK. -/
  | kekClear (who : MbWriter)
  /-- MGMT_COMMAND_FRAME (R424): A management-port command frame is run and answered. -/
  | mgmtCommandFrame (op : BitVec 8) (arg0 arg1 : Word) (frame : MgmtFrame)
  /-- BOOT_COMPLETE (R431): The boot finishes, the application cores are released and the part enters M3. -/
  | bootComplete (delays : List (Option Nat)) (dmcSeed cipSeed : BitVec 64) (load entry : Addr) (image : List Byte)
  /-- SUPPLY_REMOVED (R483): Supplies are removed and the part goes to M0. -/
  | supplyRemoved
  /-- FULL_RESET (R432): PWR_RST.full with the key, or a Benchmark request, resets the part fully. -/
  | fullReset (who : Who) (value : Word)
  /-- WARM_RESET (R433): PWR_RST.warm with the key, or WARM_N held low, warm-resets the part. -/
  | warmReset (who : Option Who) (value : Word)
  /-- MODE_REQUEST (R428): A write of PWR_MODE_REQ.target requests a mode change, which is made or refused. -/
  | modeRequest (who : Who) (value : Word)
  /-- WAKE (R440): A wake pattern or WARM_N leaves M1 and boots to M2. -/
  | wake (pin : Bool) (ref : Nat)
  /-- CLOCK_GATE_WRITE (R436): A write to CLK_GATE asks to gate or ungate a domain. -/
  | clockGateWrite (who : Who) (j : Fin 4) (value : Word)
  /-- DOMAIN_GATED (R436): A domain whose block holds no work gates. -/
  | domainGated (domain : Fin 100)
  /-- POWER_GATE_WRITE (R437): A write to PWR_PGATE removes or restores power to a tile pair or core. -/
  | powerGateWrite (who : Who) (j : Fin 2) (value : Word)
  /-- PLL_LOSS_OF_LOCK (R435): A PLL loses lock; a sticky bit is set and a record logged. -/
  | pllLossOfLock (pll : Fin 3)
  /-- ERROR_RECORD (R447): An error record reaches the ERR block and is ordered, queued and forwarded. -/
  | errorRecord (n : Nat) (mem : List MemErr)
  /-- RECORD_POP (R446): A read of ERR_REC0 pops the oldest record. -/
  | recordPop (who : Who)
  /-- ERR_AUDIT_SNAPSHOT (R456): A write of 1 to ERR_AUD_SNAP takes a device snapshot. -/
  | errAuditSnapshot (who : Who)
  /-- HOST_DOORBELL_SET (R467): A write to TRV_HDB_SET sets host doorbells. -/
  | hostDoorbellSet (who : Who) (j : Fin 2) (value : Word)
  /-- CORE_RELEASE (R470): A write of BMK_CORE_CTRL.release starts a core. -/
  | coreRelease (who : Who) (core : Fin 4) (value : Word)
  /-- CORE_OFFLINE (R471): A write of BMK_CORE_CTRL.offline takes a core offline, or restores it. -/
  | coreOffline (who : Who) (value : Word)
  /-- NOP (R72): A bundle with format header NOP, or with every slot empty, issues in one cycle, does nothing and advances the PC. -/
  | nop (tile : Fin 96) (rest : BitVec 124)
  /-- ILLEGAL (R79): A bundle with a reserved format header, a reserved opcode or an illegal field reaches issue and raises an ILLEGAL fault without executing any slot. -/
  | illegal (tile : Fin 96) (bundle : Bundle)
  /-- MEM_I (R54): A fetch finds an uncorrectable error in instruction memory, issues nothing, stops the tile with a MEM_I fault and sends a record that freezes the part. -/
  | memI (tile : Fin 96)
  /-- PAIR_POWER_UP_DONE (R437): Power returns to a tile pair or application core up to 20 us after PWR_PGATE is cleared, and the tile memory fill of R68 then starts. -/
  | pairPowerUpDone (unit : Fin 51)
  /-- PAUSE_EXPIRY (R299): The pause interval of a received PAUSE or PFC frame that egress honours runs out, and the paused classes may transmit again. -/
  | pauseExpiry (port : Fin 16) (cls : Fin 8)
  /-- AREQ (R380): An address request is sent or relayed to the assigner. -/
  | areq (own : Bool)
  /-- ROUTE_SEND (R384): The router sends its routing table or a triggered update. -/
  | routeSend (full : Bool)
  /-- RNG_RESEED (R264): Benchmark reseeds the DRAM and cipher random sources at least once per second. -/
  | rngReseed (dmcSeed cipSeed : BitVec 64)
  /-- TICK_BOUNDARY (R153): The monotonic counter reaches the next tick boundary and TRV_TICK_NOW advances. -/
  | tickBoundary
  /-- LOAD_COMPLETE (R146): A graph load completes and the graph becomes resident with its pool, timers and ready events. -/
  | loadComplete
  /-- QUEUE_PUSH (R175): A packet-path push reaches the queue engine and places or appends the item, or discards it. -/
  | queuePush
  /-- DISPOSAL (R178): The disposal buffer drains one discarded item by POOL, RING or DROP. -/
  | disposal
  /-- QUEUE_REQUEST (R179): A tile queue operation reaches the queue engine and is performed on the queue's pointers. -/
  | queueRequest
  /-- PARKED_DELIVERY (R180): A present item at the read pointer is delivered to the oldest parked QTAKE in a following cycle. -/
  | parkedDelivery
  /-- LOAD_COEF_COMPLETE (R215): The coefficient bank is loaded and the held jobs are released. -/
  | loadCoefComplete
  /-- BIL_JOB_FETCH (R228): The billet engine fetches a job from a ring and checks it. -/
  | bilJobFetch
  /-- DFL_JOB_FETCH (R228): The deflate engine fetches a job from a ring. -/
  | dflJobFetch
  /-- COMPRESS (R237): Compresses input into an RFC 1951 stream with a flush. -/
  | compress
  /-- DECOMPRESS (R238): Decompresses an RFC 1951 stream and checks each code. -/
  | decompress
  /-- DFL_JOB_COMPLETE (R236): A deflate job ends at input, output or stream end and writes its status. -/
  | dflJobComplete
  /-- FREQ_CHANGE_BEGIN (R270): After open gathering windows close, the controller holds and drains the queues and enters self-refresh. -/
  | freqChangeBegin
  /-- FREQ_CHANGE_COMPLETE (R270): The PLL relock, retraining and release finish and freq_done is set. -/
  | freqChangeComplete
  /-- INGRESS_UNPROTECT (R292): The packet path submits an UNPROTECT job for a received packet of a bound flow. -/
  | ingressUnprotect
  /-- RTP_RECEIVE (R309): A frame of an RTP flow is placed in granules, unprotected if bound, and pushed to its queue. -/
  | rtpReceive
  /-- INGRESS_RESULT (R292): The cipher engine returns an ingress job result, and the packet is pushed or dropped. -/
  | ingressResult
  /-- LIMITER_REFILL (R304): Each ms the M3 per-port limiter bucket gains one frame. -/
  | limiterRefill
  /-- SLEW_END (R333): The slew amount is fully added and the slew ends. -/
  | slewEnd
  /-- SERVO_LOSS_TIMEOUT (R340): No measurement for loss_to, so the servo leaves ACQUIRE or LOCKED. -/
  | servoLossTimeout
  /-- PPS_OUT_PULSE (R350): PPS_OUT pulses at a whole second of network time. -/
  | ppsOutPulse
  /-- PLUMB_SECOND (R353): Each second Plumb reads temperature, learns c0 or sets ffo from the model. -/
  | plumbSecond
  /-- PLUMB_AGE_UPDATE (R354): Each learning hour after the first 24 Plumb updates the ageing term. -/
  | plumbAgeUpdate
  /-- PLUMB_ENSEMBLE (R356): An ensemble interval ends and peer frequencies correct c0. -/
  | plumbEnsemble
  /-- HELLO_SEND (R364): Every 100 ms the router sends a HELLO on each fabric port. -/
  | helloSend
  /-- HELLO (R366): A received HELLO creates or re-evaluates a link. -/
  | hello
  /-- CREDIT (R372): A received CREDIT updates returned totals. -/
  | credit
  /-- FABRIC_FRAME_RECEIVE (R374): A received credited frame is reconciled and delivered or routed. -/
  | fabricFrameReceive
  /-- AGRANT (R380): An address grant is relayed or sets the requester's address. -/
  | agrant
  /-- AREQ_PENDING_EXPIRY (R380): A relay's pending AREQ entry expires after 2 s. -/
  | areqPendingExpiry
  /-- TENTATIVE_TIMEOUT (R381): A tentative SELF address survives its wait and becomes VALID. -/
  | tentativeTimeout
  /-- ROUTE (R385): A received ROUTE frame updates routing entries. -/
  | route
  /-- TIME_SEND (R388): Every 125 ms a TIME frame is sent on TSYNC links. -/
  | timeSend
  /-- TIME (R356): A received TIME frame gives Datum a peer frequency measurement. -/
  | time
  /-- FABRIC_TX_ENTRY (R389): A fabric transmit ring entry is sent as a fabric frame. -/
  | fabricTxEntry
  /-- MIGD (R391): A received MIGD writes data into the session window. -/
  | migd
  /-- MIGQ (R393): A received MIGQ syncs the peer queue or pushes an item. -/
  | migq
  /-- MIGC (R395): A MIGC control frame is delivered to software. -/
  | migc
  /-- DATA (R389): A DATA frame is delivered to the receive ring. -/
  | data
  /-- LOG_FLASH_COPY (R405): Benchmark copies new event records to flash. -/
  | logFlashCopy
  /-- TRIAL_EXPIRY (R412): An unconfirmed trial reaches trial_to and the part resets fully. -/
  | trialExpiry
  /-- POWER_ON_RESET (R432): Release of PORST_N resets everything and starts the boot in M2. -/
  | powerOnReset
  /-- STANDBY_ENTRY (R439): An accepted M1 request powers down the part into M1. -/
  | standbyEntry
  /-- AUDIT (R456): The ERR block evaluates the audit identities and raises an AUDIT record on failure. -/
  | audit
  /-- IRQ_N_CHANGE (R466): The IRQ_N ball changes level and drives interrupt line 60. -/
  | irqNChange
  /-- EXCURSION (R2): A supply, clock, temperature or signal leaves its limits while PORST_N is high, which makes behaviour undefined and voids every guarantee until the next power-on reset. -/
  | excursion
  deriving DecidableEq, Repr

end Sys2Proof
end

