-- ==== Sys2Proof/Machine/Bits.lean ====
section
/-! DEFINITION. Bit fields, sign extension and byte order: the notation of the spec's file 00 (bit slices, sext, little-endian memory, big-endian network fields). -/

namespace Sys2Proof.Machine

/-- `v[hi:lo]` as a number. -/
def fld {w : Nat} (v : BitVec w) (hi lo : Nat) : Nat := (v.toNat >>> lo) % 2 ^ (hi + 1 - lo)

/-- The mask of bits `[hi:lo]`. -/
def fldMask (w hi lo : Nat) : BitVec w := BitVec.ofNat w ((2 ^ (hi + 1 - lo) - 1) <<< lo)

/-- `v` with bits `[hi:lo]` replaced by the low bits of `x`. -/
def setFld {w : Nat} (v : BitVec w) (hi lo x : Nat) : BitVec w :=
  (v &&& ~~~ fldMask w hi lo) ||| (BitVec.ofNat w (x <<< lo) &&& fldMask w hi lo)

/-- `v` with bit `n` set to `b`. -/
def setBit {w : Nat} (v : BitVec w) (n : Nat) (b : Bool) : BitVec w := setFld v n n b.toNat

/-- `x[hi:lo]` of a natural number. -/
def slice (x hi lo : Nat) : Nat := (x >>> lo) % 2 ^ (hi + 1 - lo)

/-- Two's-complement reading of the low `n` bits of `x` (`sext`). -/
def sext (n x : Nat) : Int :=
  let y := x % 2 ^ n
  if 2 ^ (n - 1) ≤ y then (y : Int) - (2 ^ n : Nat) else y

/-- The low `n` bits of an integer, as a number. -/
def trunc (n : Nat) (x : Int) : Nat := (x % ((2 ^ n : Nat) : Int)).toNat

/-- The signed integer held in a bit vector. -/
def sint {w : Nat} (v : BitVec w) : Int := sext w v.toNat

/-- An integer stored in `w` bits, two's complement. -/
def ofSint (w : Nat) (x : Int) : BitVec w := BitVec.ofNat w (trunc w x)

/-- Clamp `x` into `[lo, hi]`. -/
def clampInt (lo hi x : Int) : Int := if x < lo then lo else if hi < x then hi else x

/-- The XOR of the low `n` bits of `x` (R245). -/
def parity : Nat → Nat → Bool
  | 0, _ => false
  | n + 1, x => (x % 2 == 1) ^^ parity n (x / 2)

/-- The `n` low bytes of `x`, least significant first: the byte order of memory. -/
def leBytes : Nat → Nat → List Byte
  | 0, _ => []
  | n + 1, x => BitVec.ofNat 8 x :: leBytes n (x / 256)

/-- The number spelled by bytes, least significant first. -/
def leNat : List Byte → Nat
  | [] => 0
  | b :: bs => b.toNat + 256 * leNat bs

/-- The `n` low bytes of `x`, most significant first: the byte order of network formats. -/
def beBytes (n x : Nat) : List Byte := (leBytes n x).reverse

/-- The number spelled by bytes, most significant first. -/
def beNat (bs : List Byte) : Nat := leNat bs.reverse

/-- `n` bytes of a list from offset `o`, zeros past its end. -/
def sub (bs : List Byte) (o n : Nat) : List Byte :=
  let t := (bs.drop o).take n
  t ++ List.replicate (n - t.length) 0#8

/-- The big-endian field of `n` bytes at offset `o`. -/
def be (bs : List Byte) (o n : Nat) : Nat := beNat (sub bs o n)

/-- The little-endian field of `n` bytes at offset `o`. -/
def le (bs : List Byte) (o n : Nat) : Nat := leNat (sub bs o n)

/-- `bs` with the bytes at offset `o` replaced by `xs`. -/
def patch (bs : List Byte) (o : Nat) (xs : List Byte) : List Byte :=
  bs.take o ++ xs ++ bs.drop (o + xs.length)

/-- Bytewise XOR, over the length of the shorter. -/
def xorBytes (a b : List Byte) : List Byte := List.zipWith (· ^^^ ·) a b

/-- Floor division by a power of two, on integers: the spec's arithmetic `>>`. -/
def asr (x : Int) (n : Nat) : Int := x / ((2 ^ n : Nat) : Int)

/-- Apply `f` to the state for each element of a list, in order. -/
def foldS {σ α : Type} (f : σ → α → σ) : List α → σ → σ
  | [], s => s
  | a :: as, s => foldS f as (f s a)

end Sys2Proof.Machine
end

