-- ==== Sys2Proof/Machine/Ecc.lean ====
section
/-! DEFINITION. The extended Hamming code of R52, used by tile memories (R51, R52) and DRAM codewords (R248). A stored word holds `n` visible bits, then `c` check bits, then the overall parity bit. -/

namespace Sys2Proof.Machine

/-- Is `p` a power of two? -/
def isPow2 (p : Nat) : Bool := p != 0 && (p &&& (p - 1)) == 0

/-- The Hamming positions of `k` visible bits, from position `p` upward: those that are no power of two. The first argument bounds the search. -/
def dataPositions : Nat → Nat → Nat → List Nat
  | 0, _, _ => []
  | _, 0, _ => []
  | fuel + 1, k + 1, p =>
    if isPow2 p then dataPositions fuel (k + 1) (p + 1) else p :: dataPositions fuel k (p + 1)

/-- XOR of the positions whose bit is set in `d`, position list first bit first. -/
def synOf : List Nat → Nat → Nat
  | [], _ => 0
  | p :: ps, d => (if d % 2 = 1 then p else 0) ^^^ synOf ps (d / 2)

/-- The check bits of visible bits `d`. -/
def hamCheck (n c d : Nat) : Nat := synOf (dataPositions (n + c) n 3) d

/-- The stored word of visible bits `d`: check bits above them, overall parity on top. -/
def eccEncode (n c d : Nat) : Nat :=
  let body := d % 2 ^ n + hamCheck n c d * 2 ^ n
  body + (parity (n + c) body).toNat * 2 ^ (n + c)

/-- What a check of a stored word finds. -/
inductive EccResult where
  /-- No error; the visible bits. -/
  | good (d : Nat)
  /-- A single-bit error at a stored bit position; the visible bits and the whole word, corrected. -/
  | fixed (d word bit : Nat)
  /-- An uncorrectable error. -/
  | bad
  deriving DecidableEq, Repr

/-- The stored bit at Hamming position `p` of a word of `n` visible bits; position 0 names the overall parity bit. -/
def posBit (n c p : Nat) : Nat :=
  if p = 0 then n + c else if isPow2 p then n + Nat.log2 p else p - 2 - Nat.log2 p

/-- Check a stored word (R52, R248): syndrome and recomputed parity. -/
def eccDecode (n c w : Nat) : EccResult :=
  let d := w % 2 ^ n
  let syn := hamCheck n c d ^^^ (slice w (n + c - 1) n)
  let bad := parity (n + c + 1) w
  if bad then
    if n + c < syn then .bad
    else
      let b := posBit n c syn
      let w' := w ^^^ 2 ^ b
      .fixed (w' % 2 ^ n) w' b
  else if syn = 0 then .good d else .bad

end Sys2Proof.Machine
end

