-- ==== Sys2Proof/Config.lean ====
section
/-! DEFINITION. The values the spec leaves open, as constants without a body: nothing can be proved about which value one is. Each is named in notes/assumptions. -/

namespace Sys2Proof

/-- The src field of an ACCESS record for an address that decodes to no block (R459 names none). -/
opaque Config.undecodedSrc : BitVec 4

/-- Neighbour-refresh draws (R263): an event of probability 2^-k, drawn afresh each time. -/
opaque Config.nrefEvent : Nat → Nat → Bool

/-- The multiple of the nominal per-bank refresh interval, in eighths, that the LPDDR5X standard gives for an MR4 readout (R262). -/
opaque Config.refreshEighths : Nat → Nat

/-- The PHY delay that the initial training of a channel finds from its training seeds (R274): channel, seeds. -/
opaque Config.trainedDelay : Nat → List Byte → Nat

/-- The attachment that the calibration set names (R241; Table 15.6 gives no place for it). -/
opaque Config.attachment : List Byte → BitVec 5

/-- A sample that the INT stage needs and that lies before the 32 slots of its history (R203), a function of the job, descriptor, input and coefficients alone (R195): the first three, the coefficients, the sample's index from the job's first. -/
opaque Config.sreOldSample : List Byte → List (Nat × BitVec 21) → Int → BitVec 24

/-- The matches the compressor chooses (R233) for piece `n` of a stream whose jobs so far (input, options and output room) are given: per token a length and a distance. A pair that is no match of the input at its place stands for a literal. -/
opaque Config.deflateMatches : List (List Byte × Nat) → Nat → List (Nat × Nat)

/-- The code lengths the compressor chooses for a dynamic block begun with piece `n`: literal/length codes, distance codes, the code-length code, and the code-length symbols with their repeat counts. A choice that is not a valid header is not taken (Deflate.dynHeader). -/
opaque Config.deflateCodes : List (List Byte × Nat) → Nat → List Nat × List Nat × List Nat × List (Nat × Nat)

/-- How many of the input bytes that a compression job took and holds it codes before their block ends (R236). -/
opaque Config.deflateEarly : List (List Byte × Nat) → Nat

/-- Input bytes a compression job takes when its output buffer fills (R236). -/
opaque Config.deflateTakes : List (List Byte × Nat) → Nat

/-- The numbers of the event codes the spec names only (Table 15.3): MODE, THRESH, EXT_TEMP, NO_IMAGE, CAL_INVALID, a rejected image. -/
opaque Config.eventCode : Nat → BitVec 16

/-- The code-specific argument of an event record the spec does not give (Table 15.3): event, value it is about. -/
opaque Config.eventArg : Nat → Nat → BitVec 32

/-- The index read from a free-list entry whose read the DRAM controller answers with an error (R308 states none): of draw `n`. -/
opaque Config.freeEntry : Nat → BitVec 24

/-- T15 of a transmit entry whose frame was dropped, and so had no start-of-frame delimiter (Table 12.8): of draw `n`. -/
opaque Config.noTxTime : Nat → BitVec 32

/-- The code of a fabric transmit entry whose frame the router dropped with a cause that R389 gives no code. -/
opaque Config.fabDropCode : Nat → BitVec 4

/-- The serial number fused into the part (FAB_SERIAL). -/
opaque Config.serial : BitVec 64

/-- Severity of the event records whose severity the spec does not give (Table 15.3): by event. -/
opaque Config.eventSev : Nat → Fin 4

/-- What a byte of the external flash reads as before anything in its erase block was written, by flash offset. -/
opaque Config.flashByte : Nat → BitVec 8

/-- A programming or erase operation of the external flash fails (code FLASH of Table 15.7): of draw `n`. -/
opaque Config.flashFails : Nat → Bool

/-- A sensor's register when the corrected sample does not fit its format (R401): sensor, draw. -/
opaque Config.sensorOver : Nat → Nat → BitVec 16

/-- Digest bytes of the signing key records in OTP (Table 15.1): record, 0 Ed25519 or 1 ML-DSA-65, byte. -/
opaque Config.keyDigest : Nat → Nat → Nat → BitVec 8

/-- The device secret in OTP (Table 15.1), which the entropy source of one part gave at manufacture. -/
opaque Config.deviceSecret : Fin 32 → BitVec 8

/-- The randomness of an ML-DSA-65 signature (FIPS 204), from the entropy source: of draw `n`, byte. -/
opaque Config.signRandom : Nat → Nat → BitVec 8

/-- The generic SerDes presets (R422): byte of the 640. -/
opaque Config.genericPreset : Nat → BitVec 8

/-- Whether the supplies go in the midst of a write of the flash, and how many bytes into it (R408, R422): draw. -/
opaque Config.torn : Nat → Option Nat

/-- What the readback of a retraining of all channels finds: draw, channel; none is a delay out of range (R268). -/
opaque Config.readback : Nat → Nat → Option Nat

/-- A byte of the identity record, whose layout the spec does not give (Table 15.7): the fields it holds that depend on the state, byte. -/
opaque Config.identityByte : List Byte → Nat → BitVec 8

/-- A byte of the quote body, whose layout the spec does not give (R417): its fields, byte. -/
opaque Config.quoteByte : List Byte → Nat → BitVec 8

/-- The conservative timing set A loaded when the calibration set is not valid (R422). -/
opaque Config.safeTiming : Fin 4 → BitVec 32

end Sys2Proof
end

