-- ==== Sys2Proof/Machine/SMap.lean ====
section
/-! DEFINITION. Sparse arrays as plain data: a list of (index, value) pairs, rising, with no entry at its default, so that equal arrays are equal lists. Memory, the register file and every banked structure of the part are held so. -/

namespace Sys2Proof.Machine

/-- A sparse array of `α`. -/
abbrev SMap (α : Type) := List (Nat × α)

/-- The entry at `k`, `d` where none is listed. -/
def SMap.get {α : Type} (d : α) : SMap α → Nat → α
  | [], _ => d
  | (k', v) :: t, k => if k' = k then v else SMap.get d t k

/-- Put `v` at `k`, keeping the list rising. -/
def SMap.insert {α : Type} (k : Nat) (v : α) : SMap α → SMap α
  | [] => [(k, v)]
  | (k', v') :: t =>
    if k' = k then (k, v) :: t
    else if k < k' then (k, v) :: (k', v') :: t
    else (k', v') :: SMap.insert k v t

/-- Remove every entry at `k`. -/
def SMap.erase {α : Type} (k : Nat) : SMap α → SMap α
  | [] => []
  | (k', v') :: t => if k' = k then SMap.erase k t else (k', v') :: SMap.erase k t

/-- Put `v` at `k`; writing the default removes the entry. -/
def SMap.put {α : Type} [DecidableEq α] (d : α) (m : SMap α) (k : Nat) (v : α) : SMap α :=
  if v = d then SMap.erase k m else SMap.insert k v m

/-- Every key of `m` is above `lo`, keys rise, and no value is its key's default. -/
def SMap.wfFrom {α : Type} [DecidableEq α] (d : Nat → α) : Nat → SMap α → Bool
  | _, [] => true
  | lo, (k, v) :: t => decide (lo ≤ k) && decide (v ≠ d k) && SMap.wfFrom d (k + 1) t

/-- The canonical form of a sparse array. -/
def SMap.wf {α : Type} [DecidableEq α] (d : Nat → α) (m : SMap α) : Bool := SMap.wfFrom d 0 m

end Sys2Proof.Machine
end

