-- ==== Sys2Proof/Machine/Blocks/BilDfl.lean ====
section
/-! DEFINITION. State of the billet engine and of the deflate engine (file 09). -/

namespace Sys2Proof.Machine

/-- A billet job the engine holds: ring, index mod 2^k, offset of its entry, the entry, blocks done, blocks over their bound, inexact blocks, and its code once it has ended. -/
structure BilJob where
  ring : Fin 16
  index : Nat
  off : Nat
  entry : List Byte
  done : Nat
  ovf : Nat
  inexact : Nat
  ended : Option Nat
  deriving DecidableEq, Repr

/-- The billet engine beyond its registers: the jobs it holds, and the ring served last (R228). -/
structure Bil where
  jobs : List BilJob
  last : Fin 16
  deriving DecidableEq, Repr

def Bil.reset : Bil := ⟨[], 15⟩

/-- Where a decompressor is in its stream (RFC 1951). -/
inductive InfPhase where
  /-- Before the 3 bits of a block header. -/
  | head
  /-- Before LEN and NLEN of a stored block. -/
  | storedLen
  /-- In a stored block, bytes left. -/
  | stored (n : Nat)
  /-- Before HLIT, HDIST and HCLEN. -/
  | dynHead
  /-- Among the code lengths of the code-length code: literal/length codes, distance codes, how many are given, those read. -/
  | dynClen (nlit ndist ncl : Nat) (got : List Nat)
  /-- Among the code lengths of the two codes. -/
  | dynLens (nlit ndist : Nat) (cl got : List Nat)
  /-- In a compressed block with its two codes' lengths. -/
  | codes (lit dist : List Nat)
  /-- After a length, before its distance. -/
  | distance (len : Nat) (lit dist : List Nat)
  /-- The stream has ended. -/
  | ended
  deriving DecidableEq, Repr

/-- A decompressor (R236, R238): phase, whether the block is the last, bits of taken bytes that are not decoded, the last 32 768 bytes of output, newest first, the bytes output so far, the limit, and the undelivered output: a byte, or the rest of a match (length, distance). -/
structure Inflate where
  phase : InfPhase
  last : Bool
  bits : List Bool
  hist : List Byte
  total : Nat
  limit : Nat
  pendLit : Option Byte
  pendLen : Nat
  pendDist : Nat
  deriving DecidableEq, Repr

/-- A compressor (R236, R237): its jobs so far (input taken; options and output room), the last 32 768 input bytes it has coded, newest first, the input it has taken and not coded, oldest first, the input bytes of its current block, the codes of a block whose header it has emitted, the pieces it has coded, the bits not yet written (a pending flush among them), a FINAL flush begun, and the stream ended. -/
structure Deflate where
  jobs : List (List Byte × Nat)
  hist : List Byte
  buf : List Byte
  count : Nat
  blk : Option (List Nat × List Nat)
  pieces : Nat
  bits : List Bool
  fin : Bool
  ended : Bool
  deriving DecidableEq, Repr

/-- A compressor at the start of a stream. -/
def Deflate.start : Deflate := ⟨[], [], [], 0, none, 0, [], false, false⟩

/-- A deflate context (R234). -/
inductive DflCtx where
  | none
  | comp (d : Deflate)
  | dec (i : Inflate)
  | failed
  deriving DecidableEq, Repr

/-- The deflate job the engine holds: ring, index mod 2^k, offset of its entry, the entry, and its code, in_used and out_used once it has ended. -/
structure DflJob where
  ring : Fin 4
  index : Nat
  off : Nat
  entry : List Byte
  ended : Option (Nat × Nat × Nat)
  deriving DecidableEq, Repr

/-- The deflate engine beyond its registers: the job it holds, the ring served last, and the contexts by their addresses. -/
structure Dfl where
  job : Option DflJob
  last : Fin 4
  ctx : SMap DflCtx
  deriving DecidableEq, Repr

def Dfl.reset : Dfl := ⟨none, 3, []⟩

end Sys2Proof.Machine
end

