-- ==== Sys2Proof/Machine/Blocks/Bmk.lean ====
section
/-! DEFINITION. State of Benchmark (file 15): event log, flash, OTP fuses, update session, boot. -/

namespace Sys2Proof.Machine

/-- An event record (Table 15.3). -/
structure EvRec where
  mono : BitVec 64
  nsec : Word
  seq : BitVec 16
  sev : Nat
  src : Nat
  code : BitVec 16
  arg : Word
  data : BitVec 64
  deriving DecidableEq, Repr

/-- A copy of the slot state record (R408): sequence, active slot (true: B), pending flag and slot, tries, CRC-32. -/
structure SlotRec where
  seq : Word
  active : Bool
  pending : Bool
  pendSlot : Bool
  tries : BitVec 2
  crc : Word
  deriving DecidableEq, Repr

/-- An erased copy. -/
def SlotRec.erased : SlotRec := ⟨0xFFFFFFFF, true, true, true, 3, 0xFFFFFFFF⟩

/-- A command of Table 15.7 that waits for Benchmark or runs (R423): from the mailbox or the management port, op, two arguments, the mailbox buffer, the data of a frame, and when it arrived. -/
structure MbJob where
  mbox : Bool
  op : Nat
  a0 : Nat
  a1 : Nat
  buf : Nat
  data : List Byte
  arrived : Nat
  deriving DecidableEq, Repr

/-- The answer to a management-port frame (R424): code, RSP0, data. -/
structure MgmtReply where
  code : Nat
  rsp : Word
  data : List Byte
  deriving DecidableEq, Repr

/-- The attestation key pairs (R416): the Ed25519 secret and public key, the seed and public key of ML-DSA-65. -/
structure AttestKeys where
  ed : List Byte
  edPub : List Byte
  ml : List Byte
  mlPub : List Byte
  deriving DecidableEq, Repr

/-- An open update session (R415): length, next offset. -/
structure Update where
  len : Nat
  next : Nat
  deriving DecidableEq, Repr

/-- An image slot in flash: whether it has been erased since manufacture, and the bytes programmed since (none: not programmed). -/
structure Slot where
  erased : Bool
  cells : SMap (Option Byte)
  deriving DecidableEq, Repr

/-- Benchmark beyond its registers. What outlives a reset is flash (slot records, calibration set, slots, flash log) and the OTP fuses. -/
structure Bmk where
  /-- The event log, oldest first, the sequence of the next record, and how many of its newest records are not in flash. -/
  log : List EvRec
  seq : Nat
  unsaved : Nat
  flashLog : List EvRec
  /-- The two copies of the slot state record (R408). -/
  rec0 : SlotRec
  rec1 : SlotRec
  /-- The calibration set in flash; none while it stands as it did before the first write. -/
  cal : Option (List Byte)
  slotA : Slot
  slotB : Slot
  /-- Fuses: revoked key records, the anti-rollback count, KEK 0 (R400). -/
  revoked : BitVec 2
  count : Nat
  kek0 : Option (List Byte)
  update : Option Update
  /-- A boot selects a slot (R411); one after a warm reset or a wake keeps the slot in use. -/
  select : Bool
  /-- No valid image was found (R413). -/
  recovery : Bool
  /-- The running slot (true: B), its header as read at boot, whether it runs as a trial, and the count of the handoff. -/
  running : Option Bool
  header : List Byte
  trial : Bool
  handoff : Nat
  /-- The calibration set as loaded at boot, and whether it passed (R422). -/
  calLoaded : List Byte
  calValid : Bool
  /-- When Benchmark last sampled its sensors, read the external temperature, copied its log and reseeded the random sources. -/
  sampleAt : Nat
  extAt : Nat
  copyAt : Nat
  seedAt : Nat
  /-- Of each threshold register written: the millisecond of the write and the value before it (R402). -/
  thrOld : SMap (Option (Nat × Word))
  /-- Commands that wait for Benchmark or run, in the order in which it runs them (R423). -/
  work : List MbJob
  /-- The answers to management-port frames that Benchmark sent when it last ran commands. -/
  replies : List MgmtReply
  /-- The key pairs derived at the last boot (R416); none before it. -/
  keys : Option AttestKeys
  /-- The boot under way follows a wake with the DRAM kept (R440). -/
  woken : Bool
  deriving DecidableEq, Repr

/-- Benchmark after the part's first power-on reset. -/
def Bmk.reset : Bmk :=
  { log := [], seq := 0, unsaved := 0, flashLog := [], rec0 := ⟨0, false, false, false, 0, 0x6522DF69⟩, rec1 := SlotRec.erased,
    cal := none, slotA := ⟨false, []⟩, slotB := ⟨false, []⟩, revoked := 0, count := 0, kek0 := none, update := none, select := true,
    recovery := false, running := none, header := [], trial := false, handoff := 0, calLoaded := [], calValid := false, sampleAt := 0,
    extAt := 0, copyAt := 0, seedAt := 0, thrOld := [], work := [], replies := [], keys := none, woken := false }

end Sys2Proof.Machine
end

