-- ==== Sys2Proof/Machine/Blocks/Cip.lean ====
section
/-! DEFINITION. State of the cipher engine (file 11). The key slots are bytes of shared SRAM (R278). -/

namespace Sys2Proof.Machine

/-- A command that waits for a core: page, op (1 UNWRAP, 2 ERASE, 3 EXPORT), the number of its KEK and that KEK as it stood when the write of CIP_U_CMD started the command (none: not installed), slot, blob address, blob length, and that the engine was enabled while it waited, so that the engine holds it (CIP_CTRL.enable, Table 11.13). -/
structure CipCmd where
  page : Nat
  op : Nat
  kek : Nat
  key : Option (List Byte)
  slot : Nat
  addr : Nat
  len : Nat
  taken : Bool
  deriving DecidableEq, Repr

/-- An ingress job (R292): flow, page and slot it names, its packet's address and length, and what the packet path needs to push it: granule, queue, item, sequence number. -/
structure Ingress where
  flow : Nat
  page : Nat
  slot : Nat
  addr : Nat
  len : Nat
  gran : Nat
  queue : Nat
  item : Word
  seq : Nat
  deriving DecidableEq, Repr

/-- What a job asks (Table 11.7), with the DRAM service class of its requests. -/
structure CipReq where
  slot : Nat
  inAddr : Nat
  inLen : Nat
  outAddr : Nat
  outCap : Nat
  unprot : Bool
  rtcp : Bool
  clear : Bool
  irq : Bool
  arg : Nat
  ctx : Nat
  cls : Nat
  deriving DecidableEq, Repr

/-- How a job ended: code, out_len, index used, the writes it makes, and its unprotect context afterwards. -/
structure CipEnd where
  code : Nat
  outLen : Nat
  index : Nat
  writes : List (Nat × List Byte)
  ctx : List Byte
  deriving DecidableEq, Repr

/-- A started job: the ingress job or the ring entry (index mod 2^k and offset) it comes from, the page, the request, the core, the code its first checks gave (0: passed), the core's key register (R285), and its end. -/
structure CipJob where
  ingress : Option Ingress
  page : Fin 64
  index : Nat
  off : Nat
  req : CipReq
  core : Nat
  pre : Nat
  keys : List Byte
  ended : Option CipEnd
  deriving DecidableEq, Repr

/-- The cipher engine beyond its registers and key slots. -/
structure Cip where
  /-- Commands that wait for a core, oldest first. -/
  cmds : List CipCmd
  /-- Started jobs, in the order in which they started. -/
  jobs : List CipJob
  /-- Accepted ingress jobs that have not started, oldest first. -/
  ingress : List Ingress
  /-- Ended ingress jobs whose result the packet path has not taken, oldest first. -/
  results : List (Ingress × CipEnd)
  /-- The ring served last (R293). -/
  last : Fin 64
  /-- Key-encryption keys, by index (R281). -/
  keks : SMap (List Byte)
  /-- The random source has been seeded (R294), and the seed it was last given. -/
  seeded : Bool
  seed : Nat
  deriving DecidableEq, Repr

/-- The engine after power-on reset. -/
def Cip.reset : Cip := ⟨[], [], [], [], 63, [], false, 0⟩

end Sys2Proof.Machine
end

