-- ==== Sys2Proof/Machine/Blocks/Dmc.lean ====
section
/-! DEFINITION. State of the DRAM controller (file 10) beyond its registers: channel queues, held requests, ECC cache, banks, seeding, scrubbing, retraining and frequency change. -/

namespace Sys2Proof.Machine

/-- The answer of an access or request: what the requester gets back. -/
inductive Resp where
  | idle
  /-- A 32-bit read. -/
  | word (v : Word)
  /-- A read of a block of memory. -/
  | bytes (bs : List Byte)
  /-- A write acknowledged. -/
  | ack
  /-- An error response. -/
  | error
  /-- The request waits. -/
  | held
  deriving DecidableEq, Repr

/-- Who makes a request (Table 10.4, R255): its port, the source behind the port, and the class the source states. Port 16 stands for the controller's own scrub and seeding. -/
structure Requester where
  port : Nat
  src : Nat
  cls : Option Nat
  deriving DecidableEq, Repr

/-- A request held at its port (R256). `data` is empty for a read. -/
structure PortReq where
  write : Bool
  rq : Requester
  addr : Nat
  data : List Byte
  deriving DecidableEq, Repr

/-- A request in a channel queue: its class, channel and physical channel address; `answer` is what its source gets when it completes, none for one answered before; `arrival` is when it entered the queue (R258). -/
structure DmcReq where
  write : Bool
  port : Nat
  src : Nat
  cls : Nat
  ch : Nat
  loc : Nat
  answer : Option Resp
  arrival : Nat
  deriving DecidableEq, Repr

/-- An answer given to a source. -/
structure DmcAnswer where
  port : Nat
  src : Nat
  resp : Resp
  deriving DecidableEq, Repr

/-- A block of the ECC cache of a channel (R251). -/
structure ChkBlock where
  blk : Nat
  dirty : Bool
  bytes : List Byte
  deriving DecidableEq, Repr

/-- A DRAM bank as the scheduler sees it (R260 to R263): open row, the row open before it, history counter, consecutive row hits, refreshes owed, when an idle row began to be kept open, when its last refresh fell due, the neighbours still to be activated, and those activated before the last activate. -/
structure Bank where
  openRow : Option Nat
  prevRow : Option Nat
  h : Nat
  hits : Nat
  owed : Nat
  kept : Option Nat
  due : Nat
  neigh : List Nat
  swept : List Nat
  deriving DecidableEq, Repr

/-- A bank after power-on reset: history counter 1 (R261). -/
def Bank.reset : Bank := ⟨none, none, 1, 0, 0, none, 0, [], []⟩

/-- Retraining of a channel (R266, R267): start of the last one, start of an open gathering window, PHY delay, none while it is that of the initial training. -/
structure Retrain where
  last : Nat
  gather : Option Nat
  delay : Option Nat
  deriving DecidableEq, Repr

/-- A channel before its first retraining. -/
def Retrain.reset : Retrain := ⟨0, none, none⟩

/-- Frequency change in progress (R270). -/
inductive FreqPhase where
  | idle
  /-- Accepted; deferred until the gathering windows close. -/
  | deferred (target : Nat)
  /-- Queues held, ranks in self-refresh. -/
  | changing (target : Nat)
  deriving DecidableEq, Repr

/-- The DRAM controller. -/
structure Dmc where
  /-- Requests in each channel's queue, oldest first (R256). -/
  queue : SMap (List DmcReq)
  /-- Requests held at each port for want of an entry (R256). -/
  held : SMap (List PortReq)
  /-- The answers given by the last command that gave any (the model's own field). -/
  answers : List DmcAnswer
  /-- ECC cache of each channel, most recently used first (R251). -/
  cache : SMap (List ChkBlock)
  /-- Banks, by (channel × 2 + rank) × 16 + bank. -/
  banks : SMap Bank
  /-- Next local address to seed in each channel (R490). -/
  seedPos : SMap Nat
  /-- Contents are undefined and seeding starts when the controller is enabled (R490). -/
  fresh : Bool
  /-- Next physical channel address the scrubber reads (R254). -/
  scrubPos : SMap Nat
  /-- When the scrubber of each channel last read. -/
  scrubLast : SMap Nat
  retrain : SMap Retrain
  freq : FreqPhase
  /-- MR4 temperature readout of each rank, by channel × 2 + rank (R242). -/
  mr4 : SMap Nat
  /-- When MR4 was last read on each rank. -/
  mr4Last : SMap Nat
  /-- Seed words of the neighbour-refresh source, once applied (R264). -/
  seed : Option (Word × Word)
  /-- Ranks are in self-refresh (R270, R274, R433). -/
  selfRefresh : Bool
  /-- When every bank was last refreshed at once (Table 10.2). -/
  allRefreshed : Nat
  /-- Training seeds from the calibration set, empty under defaults (R274, R422). -/
  trainSeeds : List Byte
  /-- Neighbour refreshes so far (DMC_NREF_COUNT). -/
  nrefs : Nat
  deriving DecidableEq, Repr

/-- The DRAM controller after power-on reset. -/
def Dmc.reset : Dmc :=
  { queue := [], held := [], answers := [], cache := [], banks := [], seedPos := [], fresh := true, scrubPos := [],
    scrubLast := [], retrain := [], freq := .idle, mr4 := [], mr4Last := [], seed := none, selfRefresh := false,
    allRefreshed := 0, trainSeeds := [], nrefs := 0 }

end Sys2Proof.Machine
end

