-- ==== Sys2Proof/Machine/Blocks/Dtm.lean ====
section
/-! DEFINITION. State of Datum and Plumb (file 13). Network time is held as the segment it runs in (R331): its exact start value in 2^-32 ns, the monotonic count it began at, and the slew still to be added. -/

namespace Sys2Proof.Machine

/-- A rational number, as numerator and denominator. -/
abbrev Frac := Int × Nat

/-- A pulse output (R348 to R350): armed, its next instant (2^-16 ns), the pin's level, the monotonic count at which the pulse ends, and, in RCLK mode, the recovered lane clock the pin carries instead: port and divider (R352). -/
structure PulseOut where
  armed : Bool
  next : Nat
  high : Bool
  stop : Nat
  clock : Option (Nat × Nat)
  deriving DecidableEq, Repr

def PulseOut.reset : PulseOut := ⟨false, 0, false, 0, none⟩

/-- A segment of network time (R331): exact value at its start in 2^-32 ns, the monotonic count it began at, the slew to be added, ffo and the slew rate in it. -/
structure Seg where
  n0 : Nat
  m0 : Nat
  slew : Int
  ffo : Int
  rate : Nat
  deriving DecidableEq, Repr

/-- A capture input (R351): its FIFO, oldest first (rising, network time in 2^-16 ns), and the monotonic count of the last captured edge. -/
structure CapIn where
  fifo : List (Bool × Nat)
  last : Option Nat
  deriving DecidableEq, Repr

def CapIn.reset : CapIn := ⟨[], none⟩

/-- What Plumb keeps of a fabric peer (R356, R357): quality, the anchor and window of R207 in network time (2^-16 ns), whether a message came in this interval, intervals without messages, whether it is in the table and was used, and its last frequency. -/
structure Peer where
  addr : Nat
  q : Nat
  haveA : Bool
  primed : Bool
  haveMin : Bool
  tsA : Nat
  tA : Nat
  tsM : Nat
  tM : Nat
  tF : Nat
  dm : Int
  n : Nat
  heard : Bool
  silent : Nat
  inTable : Bool
  used : Bool
  r : Option Frac
  deriving DecidableEq, Repr

def Peer.new (a q : Nat) : Peer := ⟨a, q, false, false, false, 0, 0, 0, 0, 0, 0, 0, false, 0, false, false, none⟩

/-- Datum and Plumb beyond their registers. -/
structure Dtm where
  n0 : Nat
  m0 : Nat
  /-- The slew not yet added at m0, in 2^-16 ns divided by 5 000 000 000 (R333). -/
  slew : Int
  /-- The segments before the current one, newest first: a corrected instant may lie in one of them (R342). -/
  past : List Seg
  /-- Servo state: 0 FREE, 1 ACQUIRE, 2 LOCKED, 3 HOLDOVER (R340). -/
  state : Nat
  first : Bool
  pend : Bool
  mPrev : Nat
  fi : Frac
  inCnt : Nat
  outCnt : Nat
  /-- Monotonic count of the last measurement, and the counts at which the last one was applied, software last stepped or confirmed, and last wrote ffo or a slew (R341). -/
  lastMeas : Nat
  measAt : Option Nat
  stepAt : Option Nat
  tuneAt : Option Nat
  holdSince : Nat
  synceValid : Bool
  synceStart : Nat
  /-- The port lost its link in the current SyncE window (R352). -/
  synceLost : Bool
  /-- Outputs TIME_EVT_OUT0 to 3, and PPS_OUT as number 4. -/
  outs : SMap PulseOut
  ins : SMap CapIn
  /-- Plumb: when its second began, the sum of ffo × counts in it, and up to when that sum runs. -/
  secStart : Nat
  ffoAcc : Int
  ffoMark : Nat
  /-- Learning seconds in the current learning hour, c0 at each learning hour, newest first, and whether the hour's ageing update is due. -/
  learnSec : Nat
  c0Hist : List Word
  ageDue : Bool
  /-- Reading of sensor 63 (R403). -/
  ext : BitVec 16
  ensStart : Nat
  peers : List Peer
  deriving DecidableEq, Repr

/-- Datum after power-on reset. -/
def Dtm.reset : Dtm :=
  { n0 := 0, m0 := 0, slew := 0, past := [], state := 0, first := false, pend := false, mPrev := 0, fi := (0, 1), inCnt := 0, outCnt := 0,
    lastMeas := 0, measAt := none, stepAt := none, tuneAt := none, holdSince := 0, synceValid := false, synceStart := 0, synceLost := false, outs := [], ins := [], secStart := 0,
    ffoAcc := 0, ffoMark := 0, learnSec := 0, c0Hist := [], ageDue := false, ext := 0, ensStart := 0, peers := [] }

end Sys2Proof.Machine
end

