-- ==== Sys2Proof/Machine/Blocks/Err.lean ====
section
/-! DEFINITION. Error records on their way to the ERR block and in its queue (R442 to R449). -/

namespace Sys2Proof.Machine

/-- A record raised by a block, before the ERR block stamps it. `loc` has package 0; `pkg` says whether it is a location code that takes the package (an ACCESS record carries a physical address instead). -/
structure ErrIn where
  src : Nat
  sev : Nat
  code : Nat
  arg : Word
  loc : Nat
  pkg : Bool
  deriving DecidableEq, Repr

/-- An error record, E0 to E5 (Table 17.1). -/
structure ErrRec where
  e0 : Word
  e1 : Word
  e2 : Word
  e3 : Word
  e4 : Word
  e5 : Word
  deriving DecidableEq, Repr

/-- The ERR block beyond its registers: records that have not reached it, and the record queue (R446), oldest first. -/
structure Err where
  arrivals : List ErrIn
  queue : List ErrRec
  /-- A device snapshot waits for its evaluation (R456). -/
  auditDue : Bool
  deriving DecidableEq, Repr

/-- The ERR block after power-on reset. -/
def Err.reset : Err := ⟨[], [], false⟩

end Sys2Proof.Machine
end

