-- ==== Sys2Proof/Machine/Blocks/Pkt.lean ====
section
/-! DEFINITION. State of the Ethernet ports and the packet path (file 12). The bytes of a stored frame stand for the content of its cells. -/

namespace Sys2Proof.Machine

/-- A frame in the packet buffer (R300): ingress port (16 for a frame the part built), bytes without FCS, cells taken from the port's reserve, the shared cells and the router's cells (R373), copies that have not left, and the receive timestamp: corrected instant in 1/262144 of a cycle, network time in 2^-16 ns. -/
structure Frame where
  port : Nat
  data : List Byte
  own : Nat
  sh : Nat
  fab : Nat
  refs : Nat
  x : Int
  nt : Nat
  deriving DecidableEq, Repr

/-- What classification decided for a frame (Table 12.3). -/
inductive RxAct where
  /-- Deliver to a receive ring, with a reason. -/
  | ring (r reason : Nat)
  /-- Send out of a port in a traffic class. -/
  | forward (port tc : Nat)
  /-- PTP: transit copies to these ports, and a local copy (Table 13.4). -/
  | ptp (ports : List Nat) (loc : Bool)
  /-- To the fabric router. -/
  | router
  /-- RTP of a flow, with the flow entry read at classification. -/
  | rtp (flow : Nat) (entry : List Byte)
  deriving DecidableEq, Repr

/-- A ring entry that a frame comes from: ring, entry index, offset in shared SRAM, irq. -/
structure TxJob where
  ring : Nat
  index : Nat
  off : Nat
  irq : Bool
  deriving DecidableEq, Repr

/-- A fabric frame's credit at the link it came in on: link, the count of that link's coming up, class, units (R371). -/
structure Upstream where
  link : Nat
  epoch : Nat
  cls : Nat
  units : Nat
  deriving DecidableEq, Repr

/-- A fabric frame in a link's queue: bytes from the EtherType on, the stored frame whose cells it holds, the credit it holds upstream, its transmit ring entry, one-step TIME, and the count from which it waits. -/
structure FabTx where
  bytes : List Byte
  fid : Option Nat
  up : Option Upstream
  job : Option TxJob
  oneStep : Bool
  since : Nat
  deriving DecidableEq, Repr

/-- Where a frame that waits to leave comes from. -/
inductive TxKind where
  /-- Forwarded. -/
  | fwd
  /-- A PTP transit copy (R345). -/
  | ptp
  /-- A transmit ring entry; csum asked. -/
  | job (j : TxJob) (csum : Bool)
  /-- A fabric frame, and the link it leaves on (none: a HELLO). -/
  | router (f : FabTx) (link : Option Nat)
  deriving DecidableEq, Repr

/-- A frame in a class queue (R319): its frame, launch time (2^-16 ns), judged late, whether it has been judged at the head of its queue (R320; a step that passes its launch time has it judged again), and the count at which it reached the head. -/
structure TxFrame where
  fid : Nat
  kind : TxKind
  launch : Option Nat
  late : Bool
  judged : Bool
  headAt : Option Nat
  deriving DecidableEq, Repr

/-- A frame on the wire: the frame and the bytes sent, FCS excluded, the network time of its start-of-frame delimiter, and the count at which its last byte leaves. -/
structure OnWire where
  tx : TxFrame
  data : List Byte
  nt : Nat
  stop : Nat
  deriving DecidableEq, Repr

/-- A fetched transmit entry that waits for its gate (R317) or for cells (R316): entry, its bytes, the payload length once known, the count of its fetch, polls made. -/
structure TxHold where
  job : TxJob
  bytes : List Byte
  len : Option Nat
  since : Nat
  polls : Nat
  deriving DecidableEq, Repr

/-- A forwarding table entry (R305). -/
structure FwdEntry where
  valid : Bool
  vid : Nat
  mac : Nat
  port : Nat
  deriving DecidableEq, Repr

/-- A flow command that waits for the flow's ingress job (R311): op, flow, address. -/
structure FlowCmd where
  op : Nat
  flow : Nat
  addr : Nat
  deriving DecidableEq, Repr

/-- The packet path beyond its registers. -/
structure Pkt where
  /-- Frames in the packet buffer, by number, and the next number. -/
  frames : SMap (Option Frame)
  nextFid : Nat
  /-- Cells in use: of each port's reserve, of the shared cells, of the router's cells. -/
  own : SMap Nat
  sh : Nat
  fab : Nat
  /-- Classified frames that wait for their action, oldest first (R310). -/
  inq : List (Nat × RxAct)
  /-- Packets of bound flows in granules that have not been submitted to the cipher engine, oldest first (R309). -/
  unprot : List Ingress
  /-- Tokens of the M3 limiter of each port (R304), and the count of the last refill. -/
  bucket : SMap Nat
  refillAt : Nat
  fwd : SMap FwdEntry
  /-- The free-list FIFO (R308): entries taken and entries put since the fill. -/
  gHead : Nat
  gTail : Nat
  gAlloc : Word
  gRet : Word
  flowCmd : Option FlowCmd
  /-- Frames that wait to leave, by class queue: 8 × port + class. -/
  eg : SMap (List TxFrame)
  wire : SMap (Option OnWire)
  /-- The count from which a port may start its next frame. -/
  idleAt : SMap Nat
  /-- The count at which a port's link went down. -/
  downAt : SMap Nat
  /-- The count up to which a class of a port is paused (R299), by 8 × port + class. -/
  pause : SMap Nat
  hold : SMap (Option TxHold)
  /-- Completed transmit entries whose consumer word has not passed them: ring, index. -/
  done : List (Nat × Nat)
  /-- The SerDes presets loaded at the last boot (R420, Table 15.6): 8 bytes per lane and mode. -/
  presets : List Byte
  deriving DecidableEq, Repr

/-- The packet path after power-on reset. -/
def Pkt.reset : Pkt :=
  { frames := [], nextFid := 0, own := [], sh := 0, fab := 0, inq := [], unprot := [], bucket := [], refillAt := 0, fwd := [], gHead := 0,
    gTail := 0, gAlloc := 0, gRet := 0, flowCmd := none, eg := [], wire := [], idleAt := [], downAt := [], pause := [], hold := [], done := [], presets := [] }

end Sys2Proof.Machine
end

