-- ==== Sys2Proof/Machine/Blocks/Fab.lean ====
section
/-! DEFINITION. State of the fabric router (file 14). Sent, returned, received and freed totals and offers are lists over classes 1 to 3. -/

namespace Sys2Proof.Machine

/-- What a HELLO says (Table 14.4). -/
structure Hello where
  serial : Nat
  sv : Bool
  asg : Bool
  addr : Nat
  vers : Nat
  units : Nat
  time : Nat
  q : Nat
  asgValid : Bool
  asgAddr : Nat
  /-- Offers of classes 1 to 3, in cells. -/
  offers : List Nat
  echo : List Nat
  deriving DecidableEq, Repr

/-- A link (R365 to R376): state of Table 14.14, port, the partner's station address and last HELLO, mode, count of the last HELLO, own and partner's offers when it came UP, totals, reported sent totals the receive side lags behind, and when CREDIT was last sent. -/
structure Link where
  state : Nat
  port : Nat
  mac : Nat
  hello : Hello
  ver : Nat
  unit : Nat
  time : Nat
  heard : Nat
  /-- Tag of the partner's own address in its ROUTE frames. -/
  ptag : Option Nat
  epoch : Nat
  mine : List Nat
  theirs : List Nat
  sent : List Nat
  returned : List Nat
  received : List Nat
  freed : List Nat
  /-- Per class: (reported total, count at which the CREDIT arrived), oldest first (R375). -/
  lag : List (List (Nat × Nat))
  creditDue : Bool
  creditAt : Nat
  deriving DecidableEq, Repr

/-- A routing table entry (R383): hops, tag if one has been given, static, next hops with the count of their last refresh, ascending by link. -/
structure Route where
  hops : Nat
  tag : Option Nat
  static : Bool
  nh : List (Nat × Nat)
  deriving DecidableEq, Repr

/-- An entry of which nothing is known. -/
def Route.none : Route := ⟨15, .none, false, []⟩

/-- A received fabric frame for this part, accepted by its link: stored frame, link, credit held. -/
structure FabRx where
  fid : Nat
  link : Option Nat
  up : Option Upstream
  deriving DecidableEq, Repr

/-- A frame of a session (R391, R392): a byte range to a window offset, or a queue position with the peer queue and sequence. -/
inductive MigItem where
  | seg (addr off len : Nat)
  | item (queue peer pos seq : Nat) (first append : Bool)
  deriving DecidableEq, Repr

/-- A queued session command (Table 14.13). -/
inductive SessCmd where
  | seg (addr len off : Nat)
  | queue (q peer : Nat)
  deriving DecidableEq, Repr

/-- A migration session (R390 to R394): state and error of Table 14.14; next expected or next to send; commands not started, frames not sent, frames not acknowledged with their sequence numbers; count of the last progress, rewinds since; frames accepted since the last MIGA. -/
structure Sess where
  state : Nat
  err : Nat
  seq : Nat
  cmds : List SessCmd
  todo : List MigItem
  unacked : List (Nat × MigItem)
  progressAt : Nat
  rewinds : Nat
  toAck : Nat
  deriving DecidableEq, Repr

def Sess.reset : Sess := ⟨0, 0, 0, [], [], [], 0, 0, 0⟩

/-- A relay's pending address request (R380): serial, link, the count at which it arrived. -/
structure Areq where
  serial : Nat
  link : Nat
  since : Nat
  deriving DecidableEq, Repr

/-- The router beyond its registers. -/
structure Fab where
  links : SMap (Option Link)
  /-- Times a link has come UP. -/
  epoch : Nat
  routes : SMap Route
  sess : SMap Sess
  /-- Received fabric frames that the router has not taken, and those accepted that wait for their action, oldest first. -/
  rx : List Nat
  loc : List FabRx
  /-- Queues of links, by 4 × link + class. -/
  eg : SMap (List FabTx)
  /-- Address selection: k of R381, the count at which the current wait or request began, the last valid address. -/
  k : Nat
  addrAt : Nat
  lastAddr : Option Nat
  areqs : List Areq
  /-- Counts of the last HELLO, the last table sent and the last TIME. -/
  helloAt : Nat
  routeAt : Nat
  timeAt : Nat
  /-- Addresses whose hops changed since the last update (R384). -/
  changed : List Nat
  deriving DecidableEq, Repr

/-- The router after power-on reset. -/
def Fab.reset : Fab :=
  { links := [], epoch := 0, routes := [], sess := [], rx := [], loc := [], eg := [], k := 0, addrAt := 0, lastAddr := .none, areqs := [],
    helloAt := 0, routeAt := 0, timeAt := 0, changed := [] }

end Sys2Proof.Machine
end

