-- ==== Sys2Proof/Machine/Blocks/Jq.lean ====
section
/-! DEFINITION. State of the queue engine (file 06). -/

namespace Sys2Proof.Machine

/-- The tile operations on a queue (R122 to R125). -/
inductive JqOp where
  | take
  | peek
  | skip
  | mark
  | rewind
  deriving DecidableEq, Repr

/-- A tile's request on its way to the queue engine; the queue operand is the whole of Sa (R126). -/
structure JqReq where
  tile : Nat
  op : JqOp
  sa : Nat
  deriving DecidableEq, Repr

/-- The rewind mark's state (R182). -/
inductive MarkState where
  | none
  | valid
  | lost
  deriving DecidableEq, Repr

/-- A queue record (Table 6.9) with its pointers as unbounded numbers (R172); `place` is true for placement. `member` is the QFC group that counts the queue: it follows qfc_en and qfc_grp at the next commit, and a queue leaves at once (R185, R193). -/
structure Queue where
  en : Bool
  place : Bool
  dcode : Nat
  disc : Nat
  base : Nat
  hi : Nat
  lo : Nat
  wmEv : Bool
  qfcEn : Bool
  qfcGrp : Nat
  member : Option Nat
  bind : Bool
  perPkt : Bool
  port : Nat
  entry : Nat
  lost : BitVec 16
  markLost : BitVec 8
  late : BitVec 16
  dup : BitVec 16
  rseq : Nat
  mstate : MarkState
  sync : Bool
  fpend : Bool
  above : Bool
  bnd : Bool
  mark : Nat
  wp : Nat
  rp : Nat
  deriving DecidableEq, Repr

/-- A queue record after power-on reset (R191). -/
def Queue.reset : Queue :=
  { en := false, place := false, dcode := 0, disc := 0, base := 0, hi := 0, lo := 0, wmEv := false, qfcEn := false,
    qfcGrp := 0, member := none, bind := false, perPkt := false, port := 0, entry := 0, lost := 0, markLost := 0, late := 0, dup := 0,
    rseq := 0, mstate := .none, sync := false, fpend := false, above := false, bnd := false, mark := 0, wp := 0, rp := 0 }

/-- A discarded item in the disposal buffer (R178): item, reason of Table 6.2, queue, disposal of the queue. -/
structure Discard where
  item : Word
  reason : Nat
  queue : Nat
  disc : Nat
  deriving DecidableEq, Repr

/-- A push on its way to the engine (R174): queue, item, sequence number, and the frame whose cells are freed once the engine has taken or refused the push (R310). -/
structure JqPush where
  queue : Nat
  item : Word
  seq : Nat
  frame : Option Nat
  deriving DecidableEq, Repr

/-- The queue engine beyond its registers. -/
structure Jq where
  queues : SMap Queue
  /-- The queue store, by slot (R170). -/
  slots : SMap Word
  /-- The presence bits, by slot (R173). -/
  present : SMap Bool
  /-- Requests on their way, in the order in which they reach the engine (R180). -/
  reqs : List JqReq
  /-- Tiles whose withdrawal is on its way (R113). -/
  withdraws : List Nat
  /-- Pushes of the packet path that have not reached the engine, oldest first (R174). -/
  inbox : List JqPush
  /-- A PUSH command held while the disposal buffer is nearly full (R178). -/
  heldPush : Option JqPush
  /-- Levels of pins QFC0 to QFC7 (R185). -/
  pins : BitVec 8
  /-- Parked QTAKEs, first parked first: tile, queue (R180). -/
  parked : List (Nat × Nat)
  /-- Watermark events, oldest first: queue, new state (R184). -/
  events : List (Nat × Bool)
  /-- The disposal buffer, oldest first (R178). -/
  disposal : List Discard
  /-- Sums of R190: pushes, takes, rewound and discarded items. -/
  pushes : Word
  takes : Word
  rewound : Word
  discs : Word
  deriving DecidableEq, Repr

/-- The queue engine after reset. -/
def Jq.reset : Jq :=
  { queues := [], slots := [], present := [], reqs := [], withdraws := [], inbox := [], heldPush := none, pins := 0, parked := [], events := [], disposal := [],
    pushes := 0, takes := 0, rewound := 0, discs := 0 }

end Sys2Proof.Machine
end

