-- ==== Sys2Proof/Machine/Blocks/Pwr.lean ====
section
/-! DEFINITION. State of the power and clock block beyond its registers, and of the application cores and pins as the part sees them (files 16, 18). -/

namespace Sys2Proof.Machine

/-- A wake is held or under way (R440); the address each application core was last started at (R469 to R471), 0 for one never started; the IRQ_N ball is low (R466). -/
structure Pwr where
  wake : Bool
  entry : SMap Addr
  irqLow : Bool
  deriving DecidableEq, Repr

/-- After power-on reset. -/
def Pwr.reset : Pwr := ⟨false, [], false⟩

end Sys2Proof.Machine
end

