-- ==== Sys2Proof/Machine/Blocks/Sre.lean ====
section
/-! DEFINITION. State of the sample-rate engines (file 07). -/

namespace Sys2Proof.Machine

/-- A write that a job makes when it completes: address and bytes. -/
abbrev MemOut := Nat × List Byte

/-- How far a fetched job is: its stream is still busy (R206); its checks have passed, with the descriptor's header and sections as read (R205); or it has ended with a status (code, J14[15:0], J15) and the writes it makes. -/
inductive SreStage where
  | waiting
  | ready (header : List Byte) (sections : List (List Byte))
  | ended (code sat used out : Nat) (writes : List MemOut)
  deriving DecidableEq, Repr

/-- Has the job ended? -/
def SreStage.isEnded : SreStage → Bool
  | .ended _ _ _ _ _ => true
  | _ => false

/-- A job an engine holds (R211): its engine, ring and index, the offset of its entry, and the 64 bytes of the entry. -/
structure SreJob where
  engine : Nat
  ring : Fin 16
  index : Nat
  off : Nat
  entry : List Byte
  stage : SreStage
  deriving DecidableEq, Repr

/-- The sample-rate engines beyond their registers. -/
structure Sre where
  /-- Jobs held by the engines, in the order in which they were fetched. -/
  jobs : List SreJob
  /-- The ring each engine served last (R211). -/
  last : SMap (Fin 16)
  /-- Coefficients with their parity in bit 20, by 2048 × bank + 32 × phase + tap (R199, R216). -/
  coef : SMap (BitVec 21)
  /-- A LOAD_COEF that has not completed: bank and image address (R215). -/
  load : Option (Nat × Nat)
  deriving DecidableEq, Repr

/-- The engines after power-on reset. -/
def Sre.reset : Sre := ⟨[], [], [], none⟩

end Sys2Proof.Machine
end

