-- ==== Sys2Proof/Machine/Blocks/Tile.lean ====
section
/-! DEFINITION. State of one media tile (Table 2.1, R51, R57, R59, R111): registers, memories as stored words with their ECC, block repeats, DMA channels, what a waiting bundle waits for. -/

namespace Sys2Proof.Machine

/-- A block-repeat level (R35). -/
structure LoopLv where
  active : Bool
  start : Nat
  stop : Nat
  count : Nat
  deriving DecidableEq, Repr

def LoopLv.reset : LoopLv := ⟨false, 0, 0, 0⟩

/-- A DMA descriptor (R59): external address, first tile word, exponent for inbound DATA20, length in bytes, class, DATA20 format, direction (out: tile to external). -/
structure DmaDesc where
  ext : Nat
  addr : Nat
  exp : Nat
  len : Nat
  cls : Nat
  data20 : Bool
  out : Bool
  deriving DecidableEq, Repr

/-- A DMA channel: the active transfer, the one waiting behind it, and the whole words that the active one has moved (R59, R63). -/
structure DmaChan where
  active : Option DmaDesc
  waiting : Option DmaDesc
  moved : Nat
  deriving DecidableEq, Repr

def DmaChan.reset : DmaChan := ⟨none, none, 0⟩

/-- What an outside engine answers a waiting bundle (R111). -/
inductive Answer where
  /-- A dispatch record (Table 4.7). -/
  | dispatch (w0 w1 : Word)
  /-- The item a QTAKE took. -/
  | item (v : Word)
  /-- A QPEEK: present, item. -/
  | peek (present : Bool) (v : Word)
  /-- The code of a QSKIP or REWIND. -/
  | code (v : Word)
  /-- A QMARK is done. -/
  | ack
  /-- A QUEUE fault (R126). -/
  | queueFault
  deriving DecidableEq, Repr

/-- What the tile does when its waiting bundle is settled (R113, R135). -/
inductive After where
  /-- It goes on issuing. -/
  | run
  /-- It stops. -/
  | stop
  /-- It is reset, and then runs or not. -/
  | reset (thenRun : Bool)
  deriving DecidableEq, Repr

/-- A bundle that waits at the issue point (R111): its bits, whether its request is outstanding, whether the withdrawal has been sent, and what follows. -/
structure Wait where
  bundle : Bundle
  asked : Bool
  withdrawn : Bool
  after : After
  deriving DecidableEq, Repr

/-- An access held during a memory fill (R68): a window access with the word it names and the value of a write, the next word of a DMA channel's transfer, or the work of a billet job, by its ring. -/
inductive HeldAccess where
  | window (who : Who) (word : TileWord) (write : Option Word)
  | dma (chan : Nat)
  | billet (ring : Fin 16)
  deriving DecidableEq, Repr

/-- A queued write-back of a corrected word (R53). -/
structure WriteBack where
  imem : Bool
  addr : Nat
  word : Nat
  deriving DecidableEq, Repr

/-- A bundle in the execution stages (R40 to R44): the tile cycles since it issued, but for those in which it was held; the registers it writes, with their latency classes (Table 2.3); the accumulator it adds to as a multiply-accumulate; the SATF bits it sets, with the class of the instruction; the slots its stores take, by bank; the banks its loads read; whether a denied load has been retried (R49); and whether a corrected read holds it in E3 (R53). -/
structure Flight where
  age : Nat
  writes : List (Nat × Nat)
  mac : Option Nat
  sat : List (Nat × BitVec 16)
  stores : List (Nat × Nat)
  loads : List Nat
  retried : Bool
  fixed : Bool
  deriving DecidableEq, Repr

/-- The pipeline of a tile: the bundles in flight, the youngest first; cycles that must pass before the next issue (R39, R53, R115); whether a held bundle blocks issue in this cycle; stall cycles passed in the model that the clock has yet to spend; the SATF bits and the corrected read of the bundle that is issuing; and the two stall counters of Table 2.16. -/
structure Pipe where
  flights : List Flight
  gap : Nat
  blocked : Bool
  owed : Nat
  sat : List (Nat × BitVec 16)
  fixed : Bool
  ilStalls : Word
  bankStalls : Word
  deriving DecidableEq, Repr

def Pipe.reset : Pipe := ⟨[], 0, false, 0, [], false, 0, 0⟩

/-- A media tile. Registers and memories are sparse; V registers and words hold data, exponent and tag as in Table 2.7. -/
structure Tile where
  v : SMap (BitVec 167)
  s : SMap Word
  a : SMap (BitVec 13)
  abase : SMap (BitVec 13)
  alen : SMap (BitVec 14)
  p : SMap (BitVec 16)
  /-- Accumulator lanes, by 16 × accumulator + lane. -/
  acc : SMap (BitVec 56)
  acce : SMap (BitVec 8)
  accv : SMap (BitVec 16)
  satf : BitVec 16
  lp : SMap LoopLv
  pc : BitVec 11
  /-- Data memory, 8 192 stored words of 176 bits (R51). -/
  dmem : SMap (BitVec 176)
  /-- Instruction memory, 2 048 stored bundles of 137 bits (R52). -/
  imem : SMap (BitVec 137)
  dma : SMap DmaChan
  /-- A fault clears run; TILE_STAT.faulted (R132, R133). -/
  faulted : Bool
  /-- A fault of this bundle's loads, found in E3 (R131): code, slots, info, location. -/
  late : Option (Nat × Nat × Nat × Nat)
  wait : Option Wait
  answer : Option Answer
  /-- A memory fill is in progress (R68), with a run deferred to its end, and the accesses held, in order of arrival. -/
  fill : Bool
  fillRun : Bool
  heldAcc : List HeldAccess
  /-- Next data word and bundle the scrubber reads (R57). -/
  scrubD : Nat
  scrubI : Nat
  /-- The count of the monotonic counter at which the scrubber's interval began (R57). -/
  scrubSince : Nat
  writeBacks : List WriteBack
  /-- Lower words written through the window (R65): words 0 to 4 of a data word, 8 to 10 of a bundle. -/
  staged : SMap Word
  /-- The data latch and the bundle latch of the window: address and upper words (R65). -/
  latchD : Option (Nat × List Word)
  latchI : Option (Nat × List Word)
  deriving DecidableEq, Repr

/-- A tile after power-on reset, its memories being filled with zero words (R20, R68). -/
def Tile.reset : Tile :=
  { v := [], s := [], a := [], abase := [], alen := [], p := [], acc := [], acce := [], accv := [], satf := 0, lp := [],
    pc := 0, dmem := [], imem := [], dma := [], faulted := false, late := none, wait := none, answer := none,
    fill := true, fillRun := false, heldAcc := [], scrubD := 0, scrubI := 0, scrubSince := 0, writeBacks := [], staged := [],
    latchD := none, latchI := none }

/-- The architectural state of Table 2.1 at its reset values; memories and the rest are kept (R20). -/
def Tile.resetArch (t : Tile) : Tile :=
  { t with v := [], s := [], a := [], abase := [], alen := [], p := [], acc := [], acce := [], accv := [], satf := 0,
           lp := [], pc := 0 }

end Sys2Proof.Machine
end

