-- ==== Sys2Proof/Machine/Blocks/Trv.lean ====
section
/-! DEFINITION. State of the Traverse scheduler (file 05). -/

namespace Sys2Proof.Machine

/-- A message on its way to Traverse (R121, R150, R164). -/
inductive TrvMsg where
  /-- A tile's ask; `ends` when it also ends the node it holds, with status 0 (R120, R121). -/
  | ask (tile : Nat) (ends : Option Nat)
  /-- A node end with its entry and status. -/
  | nodeEnd (tile entry status : Nat)
  /-- Tokens for a port: entry, port, count, sender (a tile, or 96 for the queue engine). -/
  | tokens (sender entry port count : Nat)
  /-- A host doorbell. -/
  | hostDb (tile d : Nat)
  /-- The withdrawal of a tile's ask (R113). -/
  | withdraw (tile : Nat)
  deriving DecidableEq, Repr

/-- A GRAPH entry (Table 5.2). -/
structure GraphE where
  cancelled : Bool
  length : Nat
  total : Nat
  free : Nat
  inFlight : Nat
  ported : Nat
  version : Nat
  busy : Nat
  deriving DecidableEq, Repr

/-- The state of a node (Table 5.3). -/
inductive NodeState where
  | idle
  | ready
  | running
  | halted
  | cancelPending
  | cancelled
  deriving DecidableEq, Repr

/-- A NODE entry (Table 5.3), with ports 0 to 3; `readyAt` is the cycle in which it last became READY (R138, R151). -/
structure NodeE where
  state : NodeState
  prio : Nat
  cluster : Nat
  ext : Bool
  graph : Nat
  arg : Word
  counts : List Nat
  thr : List Nat
  late : Bool
  readyAt : Nat
  deriving DecidableEq, Repr

/-- A PORTX entry (Table 5.4): ports 4 to 7. -/
structure PortxE where
  owner : Nat
  counts : List Nat
  thr : List Nat
  deriving DecidableEq, Repr

/-- A TIMER entry (Table 5.5). -/
structure TimerE where
  armed : Bool
  late : Bool
  port : Nat
  count : Nat
  target : Nat
  wake : Nat
  period : Nat
  deriving DecidableEq, Repr

/-- A resident entry (Table 5.1). -/
inductive Entry where
  | free
  | graph (g : GraphE)
  | node (n : NodeE)
  | portx (p : PortxE)
  | timer (t : TimerE)
  deriving DecidableEq, Repr

/-- The firings of one list at one tick boundary (R156, R157): the tick; the timers still to fire, none while they have not begun; the periodic ones held to be placed again. -/
structure Firing where
  tick : Nat
  due : Option (List Nat)
  held : List Nat
  deriving DecidableEq, Repr

/-- An event whose place in its cycle R164 fixes: a node end; the firing of a timer; an addition by a tile (0 to 95), by the queue engine (96) or by ADD_TOK (97). -/
inductive TrvEv where
  | ends (entry status : Nat)
  | fire (timer : Nat)
  | tokens (sender entry port count : Nat)
  deriving DecidableEq, Repr

/-- What the events of one cycle write: entries, ready queues, counters and status. -/
structure Books where
  entries : SMap Entry
  ready : SMap (List Nat)
  regs : List Word
  deriving DecidableEq, Repr

/-- The events applied so far in a Traverse cycle, in the order of R164, and the books before and after them. -/
structure TrvCycle where
  number : Nat
  before : Books
  after : Books
  evs : List TrvEv
  deriving DecidableEq, Repr

/-- A dispatch selection: cluster, tile, node and cycle (R162). -/
structure Pick where
  cluster : Nat
  tile : Nat
  node : Nat
  cycle : Nat
  deriving DecidableEq, Repr

/-- A graph load in progress (R145, R146): base and image. -/
structure Loading where
  base : Nat
  image : List Byte
  deriving DecidableEq, Repr

/-- The Traverse scheduler beyond its registers. -/
structure Trv where
  /-- Messages on their way, in the order in which they reach Traverse. -/
  inbox : List TrvMsg
  /-- Resident entries (R142). -/
  entries : SMap Entry
  /-- Ready queues, by 64 × cluster + level, head first (R148). -/
  ready : SMap (List Nat)
  /-- Asking tiles of each cluster, oldest first (R149). -/
  asking : SMap (List Nat)
  /-- The cycle in which each tile's last ask reached Traverse (R149). -/
  askedAt : SMap Nat
  /-- The cycle under way (R164). -/
  cycle : Option TrvCycle
  /-- The last dispatch selections (R162). -/
  picks : List Pick
  /-- Delay lists of each cluster, head first (R156). -/
  delay : SMap (List Nat)
  /-- Placements requested on each list and not completed, oldest first (R156). -/
  placing : SMap (List Nat)
  /-- Firings of each list not finished, by boundary (R157, R158). -/
  firing : SMap (List Firing)
  /-- The tick whose boundary was last passed, counted without wrapping. -/
  tick : Nat
  loading : Option Loading
  deriving DecidableEq, Repr

/-- The Traverse scheduler after reset. -/
def Trv.reset : Trv :=
  { inbox := [], entries := [], ready := [], asking := [], askedAt := [], cycle := none, picks := [], delay := [], placing := [], firing := [], tick := 0, loading := none }

end Sys2Proof.Machine
end

