-- ==== Sys2Proof/Machine/Regs.lean ====
section
/-! DEFINITION. The register map of the part (the register tables of every chapter): each register's physical address, its writable bits, its write-1-to-clear bits, the bits that its block's lock makes read-only, and its reset value. -/

namespace Sys2Proof.Machine

/-! ### 02_tile_programming_model -/

/-- TILE_ID (R69). -/
def Reg.TILE_ID (i : Nat) : Nat := 0x10400f0000 + 0x100000 * i
/-- TILE_CTRL (R69). -/
def Reg.TILE_CTRL (i : Nat) : Nat := 0x10400f0004 + 0x100000 * i
/-- TILE_STAT (R69). -/
def Reg.TILE_STAT (i : Nat) : Nat := 0x10400f0008 + 0x100000 * i
/-- TILE_PC (R69). -/
def Reg.TILE_PC (i : Nat) : Nat := 0x10400f000c + 0x100000 * i
/-- TILE_SATF (R69). -/
def Reg.TILE_SATF (i : Nat) : Nat := 0x10400f0010 + 0x100000 * i
/-- TILE_ACCV01 (R69). -/
def Reg.TILE_ACCV01 (i : Nat) : Nat := 0x10400f0014 + 0x100000 * i
/-- TILE_ACCV23 (R69). -/
def Reg.TILE_ACCV23 (i : Nat) : Nat := 0x10400f0018 + 0x100000 * i
/-- TILE_BANK_STALLS (R69). -/
def Reg.TILE_BANK_STALLS (i : Nat) : Nat := 0x10400f0020 + 0x100000 * i
/-- TILE_IL_STALLS (R69). -/
def Reg.TILE_IL_STALLS (i : Nat) : Nat := 0x10400f0024 + 0x100000 * i
/-- TILE_ECC_CORR (R69). -/
def Reg.TILE_ECC_CORR (i : Nat) : Nat := 0x10400f0030 + 0x100000 * i
/-- TILE_ECC_LAST (R69). -/
def Reg.TILE_ECC_LAST (i : Nat) : Nat := 0x10400f0034 + 0x100000 * i
/-- TILE_SCRUB_CTRL (R69). -/
def Reg.TILE_SCRUB_CTRL (i : Nat) : Nat := 0x10400f0038 + 0x100000 * i
/-- TILE_SCRUB_PASS (R69). -/
def Reg.TILE_SCRUB_PASS (i : Nat) : Nat := 0x10400f003c + 0x100000 * i
/-- TILE_DMA_EXT_LO (R69). -/
def Reg.TILE_DMA_EXT_LO (i j : Nat) : Nat := 0x10400f0080 + 0x100000 * i + 0x20 * j
/-- TILE_DMA_EXT_HI (R69). -/
def Reg.TILE_DMA_EXT_HI (i j : Nat) : Nat := 0x10400f0084 + 0x100000 * i + 0x20 * j
/-- TILE_DMA_LOC (R69). -/
def Reg.TILE_DMA_LOC (i j : Nat) : Nat := 0x10400f0088 + 0x100000 * i + 0x20 * j
/-- TILE_DMA_LEN (R69). -/
def Reg.TILE_DMA_LEN (i j : Nat) : Nat := 0x10400f008c + 0x100000 * i + 0x20 * j
/-- TILE_DMA_CTRL (R69). -/
def Reg.TILE_DMA_CTRL (i j : Nat) : Nat := 0x10400f0090 + 0x100000 * i + 0x20 * j
/-- TILE_DMA_STAT (R69). -/
def Reg.TILE_DMA_STAT (i j : Nat) : Nat := 0x10400f0094 + 0x100000 * i + 0x20 * j

/-! ### 04_tile_memory_and_flow_instructions -/

/-- TILE_FAULT (R134). -/
def Reg.TILE_FAULT (i : Nat) : Nat := 0x10400f0100 + 0x100000 * i
/-- TILE_FAULT_INFO (R134). -/
def Reg.TILE_FAULT_INFO (i : Nat) : Nat := 0x10400f0104 + 0x100000 * i
/-- TILE_FAULT_COUNT (R134). -/
def Reg.TILE_FAULT_COUNT (i : Nat) : Nat := 0x10400f0108 + 0x100000 * i
/-- TILE_TASK (R134). -/
def Reg.TILE_TASK (i : Nat) : Nat := 0x10400f0110 + 0x100000 * i
/-- TILE_TASK_ARG (R134). -/
def Reg.TILE_TASK_ARG (i : Nat) : Nat := 0x10400f0114 + 0x100000 * i
/-- TILE_QLAST (R134). -/
def Reg.TILE_QLAST (i : Nat) : Nat := 0x10400f0118 + 0x100000 * i
/-- TILE_QLAST_ITEM (R134). -/
def Reg.TILE_QLAST_ITEM (i : Nat) : Nat := 0x10400f011c + 0x100000 * i
/-- TILE_QWAIT (R134). -/
def Reg.TILE_QWAIT (i : Nat) : Nat := 0x10400f0120 + 0x100000 * i
/-- TILE_DBG_CTRL (R134). -/
def Reg.TILE_DBG_CTRL (i : Nat) : Nat := 0x10400f0130 + 0x100000 * i

/-! ### 05_traverse_scheduler -/

/-- TRV_CTRL (R168). -/
def Reg.TRV_CTRL : Nat := 0x1080000000
/-- TRV_STAT (R168). -/
def Reg.TRV_STAT : Nat := 0x1080000004
/-- TRV_TICK_CFG (R168). -/
def Reg.TRV_TICK_CFG : Nat := 0x1080000008
/-- TRV_TICK_NOW (R168). -/
def Reg.TRV_TICK_NOW : Nat := 0x108000000c
/-- TRV_CMD (R168). -/
def Reg.TRV_CMD : Nat := 0x1080000010
/-- TRV_CMD_ARG0 (R168). -/
def Reg.TRV_CMD_ARG0 : Nat := 0x1080000014
/-- TRV_CMD_ARG1 (R168). -/
def Reg.TRV_CMD_ARG1 : Nat := 0x1080000018
/-- TRV_CMD_STAT (R168). -/
def Reg.TRV_CMD_STAT : Nat := 0x108000001c
/-- TRV_CMD_DATA (R168). -/
def Reg.TRV_CMD_DATA (i : Nat) : Nat := 0x1080000020 + 0x4 * i
/-- TRV_INT_STAT (R168). -/
def Reg.TRV_INT_STAT : Nat := 0x1080000030
/-- TRV_INT_EN (R168). -/
def Reg.TRV_INT_EN : Nat := 0x1080000034
/-- TRV_ERR_NODE (R168). -/
def Reg.TRV_ERR_NODE : Nat := 0x1080000038
/-- TRV_RDY_DISCARD (R168). -/
def Reg.TRV_RDY_DISCARD : Nat := 0x1080000040
/-- TRV_TOK_REFUSED (R168). -/
def Reg.TRV_TOK_REFUSED : Nat := 0x1080000044
/-- TRV_LATE_FIRE (R168). -/
def Reg.TRV_LATE_FIRE : Nat := 0x1080000048
/-- TRV_TICK_OVERRUN (R168). -/
def Reg.TRV_TICK_OVERRUN : Nat := 0x108000004c
/-- TRV_BAD_STATUS (R168). -/
def Reg.TRV_BAD_STATUS : Nat := 0x1080000050
/-- TRV_ENTRIES_USED (R168). -/
def Reg.TRV_ENTRIES_USED : Nat := 0x1080000054
/-- TRV_AUD_SNAP (R168). -/
def Reg.TRV_AUD_SNAP : Nat := 0x1080000060
/-- TRV_AUD_TOTAL (R168). -/
def Reg.TRV_AUD_TOTAL : Nat := 0x1080000064
/-- TRV_AUD_FREE (R168). -/
def Reg.TRV_AUD_FREE : Nat := 0x1080000068
/-- TRV_AUD_PORTED (R168). -/
def Reg.TRV_AUD_PORTED : Nat := 0x108000006c
/-- TRV_AUD_INFLIGHT (R168). -/
def Reg.TRV_AUD_INFLIGHT : Nat := 0x1080000070
/-- TRV_READY_DEPTH (R168). -/
def Reg.TRV_READY_DEPTH (i : Nat) : Nat := 0x1080000080 + 0x4 * i
/-- TRV_DL_DEPTH (R168). -/
def Reg.TRV_DL_DEPTH (i : Nat) : Nat := 0x10800000c0 + 0x4 * i

/-! ### 18_host_view_and_address_map -/

/-- TRV_HDB_STAT (R472). -/
def Reg.TRV_HDB_STAT (i : Nat) : Nat := 0x1080001000 + 0x4 * i
/-- TRV_HDB_EN (R472). -/
def Reg.TRV_HDB_EN (i : Nat) : Nat := 0x1080001008 + 0x4 * i
/-- TRV_HDB_SET (R472). -/
def Reg.TRV_HDB_SET (i : Nat) : Nat := 0x1080001010 + 0x4 * i
/-- TRV_TSTOP (R472). -/
def Reg.TRV_TSTOP (i : Nat) : Nat := 0x1080001020 + 0x4 * i
/-- TRV_TFAULT (R472). -/
def Reg.TRV_TFAULT (i : Nat) : Nat := 0x1080001030 + 0x4 * i
/-- TRV_TEV_EN (R472). -/
def Reg.TRV_TEV_EN : Nat := 0x1080001040
/-- BMK_HOST_CTRL (R472). -/
def Reg.BMK_HOST_CTRL : Nat := 0x1089001000
/-- BMK_CORE_CTRL (R472). -/
def Reg.BMK_CORE_CTRL : Nat := 0x1089001004
/-- BMK_CORE_STAT (R472). -/
def Reg.BMK_CORE_STAT : Nat := 0x1089001008
/-- BMK_CORE_ENTRY_LO (R472). -/
def Reg.BMK_CORE_ENTRY_LO : Nat := 0x1089001010
/-- BMK_CORE_ENTRY_HI (R472). -/
def Reg.BMK_CORE_ENTRY_HI : Nat := 0x1089001014
/-- BMK_CORE_DOM (R472). -/
def Reg.BMK_CORE_DOM : Nat := 0x1089001020
/-- BMK_OWN (R472). -/
def Reg.BMK_OWN (i : Nat) : Nat := 0x1089001100 + 0x4 * i

/-! ### 06_jitter_queues -/

/-- JQ_STAT (R192). -/
def Reg.JQ_STAT : Nat := 0x1081000000
/-- JQ_QUEUES_EN (R192). -/
def Reg.JQ_QUEUES_EN : Nat := 0x1081000004
/-- JQ_CMD (R192). -/
def Reg.JQ_CMD : Nat := 0x1081000010
/-- JQ_CMD_ARG0 (R192). -/
def Reg.JQ_CMD_ARG0 : Nat := 0x1081000014
/-- JQ_CMD_ARG1 (R192). -/
def Reg.JQ_CMD_ARG1 : Nat := 0x1081000018
/-- JQ_CMD_STAT (R192). -/
def Reg.JQ_CMD_STAT : Nat := 0x108100001c
/-- JQ_INT_STAT (R192). -/
def Reg.JQ_INT_STAT : Nat := 0x1081000030
/-- JQ_INT_EN (R192). -/
def Reg.JQ_INT_EN : Nat := 0x1081000034
/-- JQ_EV_POP (R192). -/
def Reg.JQ_EV_POP : Nat := 0x1081000040
/-- JQ_EV_OVF (R192). -/
def Reg.JQ_EV_OVF : Nat := 0x1081000044
/-- JQ_LOST_TOTAL_LO (R192). -/
def Reg.JQ_LOST_TOTAL_LO : Nat := 0x1081000050
/-- JQ_LOST_TOTAL_HI (R192). -/
def Reg.JQ_LOST_TOTAL_HI : Nat := 0x1081000054
/-- JQ_DRING_BASE (R192). -/
def Reg.JQ_DRING_BASE : Nat := 0x1081000060
/-- JQ_DRING_CFG (R192). -/
def Reg.JQ_DRING_CFG : Nat := 0x1081000064
/-- JQ_DRING_HEAD (R192). -/
def Reg.JQ_DRING_HEAD : Nat := 0x1081000068
/-- JQ_DRING_TAIL (R192). -/
def Reg.JQ_DRING_TAIL : Nat := 0x108100006c
/-- JQ_DRING_OVF (R192). -/
def Reg.JQ_DRING_OVF : Nat := 0x1081000070
/-- JQ_QFC_CTRL (R192). -/
def Reg.JQ_QFC_CTRL : Nat := 0x1081000080
/-- JQ_QFC_CNT (R192). -/
def Reg.JQ_QFC_CNT (i : Nat) : Nat := 0x10810000a0 + 0x4 * i
/-- JQ_AUD_SNAP (R192). -/
def Reg.JQ_AUD_SNAP : Nat := 0x10810000c0
/-- JQ_AUD_PUSH (R192). -/
def Reg.JQ_AUD_PUSH : Nat := 0x10810000c4
/-- JQ_AUD_TAKE (R192). -/
def Reg.JQ_AUD_TAKE : Nat := 0x10810000c8
/-- JQ_AUD_REWOUND (R192). -/
def Reg.JQ_AUD_REWOUND : Nat := 0x10810000cc
/-- JQ_AUD_DISC (R192). -/
def Reg.JQ_AUD_DISC : Nat := 0x10810000d0
/-- JQ_AUD_HELD (R192). -/
def Reg.JQ_AUD_HELD : Nat := 0x10810000d4
/-- JQ_AUD_ALLOC (R192). -/
def Reg.JQ_AUD_ALLOC : Nat := 0x10810000d8
/-- JQ_AUD_UNALLOC (R192). -/
def Reg.JQ_AUD_UNALLOC : Nat := 0x10810000dc
/-- JQ_QREC_W0 (R193). -/
def Reg.JQ_QREC_W0 (i : Nat) : Nat := 0x1081200000 + 0x20 * i
/-- JQ_QREC_W1 (R193). -/
def Reg.JQ_QREC_W1 (i : Nat) : Nat := 0x1081200004 + 0x20 * i
/-- JQ_QREC_W2 (R193). -/
def Reg.JQ_QREC_W2 (i : Nat) : Nat := 0x1081200008 + 0x20 * i
/-- JQ_QREC_W3 (R193). -/
def Reg.JQ_QREC_W3 (i : Nat) : Nat := 0x108120000c + 0x20 * i
/-- JQ_QREC_W4 (R193). -/
def Reg.JQ_QREC_W4 (i : Nat) : Nat := 0x1081200010 + 0x20 * i
/-- JQ_QREC_W5 (R193). -/
def Reg.JQ_QREC_W5 (i : Nat) : Nat := 0x1081200014 + 0x20 * i
/-- JQ_QREC_W6 (R193). -/
def Reg.JQ_QREC_W6 (i : Nat) : Nat := 0x1081200018 + 0x20 * i
/-- JQ_QREC_W7 (R193). -/
def Reg.JQ_QREC_W7 (i : Nat) : Nat := 0x108120001c + 0x20 * i

/-! ### 07_sample_rate_engines -/

/-- SRE_CTRL (R218). -/
def Reg.SRE_CTRL : Nat := 0x1082000000
/-- SRE_STAT (R218). -/
def Reg.SRE_STAT : Nat := 0x1082000004
/-- SRE_CMD (R218). -/
def Reg.SRE_CMD : Nat := 0x1082000010
/-- SRE_CMD_ARG0 (R218). -/
def Reg.SRE_CMD_ARG0 : Nat := 0x1082000014
/-- SRE_CMD_ARG1 (R218). -/
def Reg.SRE_CMD_ARG1 : Nat := 0x1082000018
/-- SRE_CMD_STAT (R218). -/
def Reg.SRE_CMD_STAT : Nat := 0x108200001c
/-- SRE_INT_STAT (R218). -/
def Reg.SRE_INT_STAT : Nat := 0x1082000030
/-- SRE_INT_EN (R218). -/
def Reg.SRE_INT_EN : Nat := 0x1082000034
/-- SRE_JOBS (R218). -/
def Reg.SRE_JOBS : Nat := 0x1082000040
/-- SRE_JOB_ERRS (R218). -/
def Reg.SRE_JOB_ERRS : Nat := 0x1082000044
/-- SRE_SAT (R218). -/
def Reg.SRE_SAT : Nat := 0x1082000048
/-- SRE_SKEW_CLIP (R218). -/
def Reg.SRE_SKEW_CLIP : Nat := 0x108200004c
/-- SRE_LAST_ERR (R218). -/
def Reg.SRE_LAST_ERR : Nat := 0x1082000050
/-- SRE_ENG_CYC (R218). -/
def Reg.SRE_ENG_CYC (i : Nat) : Nat := 0x1082000060 + 0x4 * i
/-- SRE_RING_CFG (R218). -/
def Reg.SRE_RING_CFG (i : Nat) : Nat := 0x1082000100 + 0x10 * i
/-- SRE_RING_BASE (R218). -/
def Reg.SRE_RING_BASE (i : Nat) : Nat := 0x1082000104 + 0x10 * i
/-- SRE_RING_CONS (R218). -/
def Reg.SRE_RING_CONS (i : Nat) : Nat := 0x1082000108 + 0x10 * i
/-- SRE_RING_PROD (R218). -/
def Reg.SRE_RING_PROD (i : Nat) : Nat := 0x108200010c + 0x10 * i

/-! ### 09_billet_and_deflate_engines -/

/-- BIL_CTRL (R240). -/
def Reg.BIL_CTRL : Nat := 0x1083000000
/-- BIL_STAT (R240). -/
def Reg.BIL_STAT : Nat := 0x1083000004
/-- BIL_INT_STAT (R240). -/
def Reg.BIL_INT_STAT : Nat := 0x1083000030
/-- BIL_INT_EN (R240). -/
def Reg.BIL_INT_EN : Nat := 0x1083000034
/-- BIL_BLOCKS (R240). -/
def Reg.BIL_BLOCKS : Nat := 0x1083000040
/-- BIL_OVER (R240). -/
def Reg.BIL_OVER : Nat := 0x1083000044
/-- BIL_INEXACT (R240). -/
def Reg.BIL_INEXACT : Nat := 0x1083000048
/-- BIL_JOB_ERRS (R240). -/
def Reg.BIL_JOB_ERRS : Nat := 0x108300004c
/-- BIL_LAST_ERR (R240). -/
def Reg.BIL_LAST_ERR : Nat := 0x1083000050
/-- BIL_RING_CFG (R240). -/
def Reg.BIL_RING_CFG (i : Nat) : Nat := 0x1083000100 + 0x10 * i
/-- BIL_RING_BASE (R240). -/
def Reg.BIL_RING_BASE (i : Nat) : Nat := 0x1083000104 + 0x10 * i
/-- BIL_RING_CONS (R240). -/
def Reg.BIL_RING_CONS (i : Nat) : Nat := 0x1083000108 + 0x10 * i
/-- BIL_RING_PROD (R240). -/
def Reg.BIL_RING_PROD (i : Nat) : Nat := 0x108300010c + 0x10 * i
/-- DFL_CTRL (R240). -/
def Reg.DFL_CTRL : Nat := 0x1083001000
/-- DFL_STAT (R240). -/
def Reg.DFL_STAT : Nat := 0x1083001004
/-- DFL_INT_STAT (R240). -/
def Reg.DFL_INT_STAT : Nat := 0x1083001030
/-- DFL_INT_EN (R240). -/
def Reg.DFL_INT_EN : Nat := 0x1083001034
/-- DFL_JOBS (R240). -/
def Reg.DFL_JOBS : Nat := 0x1083001040
/-- DFL_JOB_ERRS (R240). -/
def Reg.DFL_JOB_ERRS : Nat := 0x1083001044
/-- DFL_LAST_ERR (R240). -/
def Reg.DFL_LAST_ERR : Nat := 0x1083001048
/-- DFL_RING_CFG (R240). -/
def Reg.DFL_RING_CFG (i : Nat) : Nat := 0x1083001100 + 0x10 * i
/-- DFL_RING_BASE (R240). -/
def Reg.DFL_RING_BASE (i : Nat) : Nat := 0x1083001104 + 0x10 * i
/-- DFL_RING_CONS (R240). -/
def Reg.DFL_RING_CONS (i : Nat) : Nat := 0x1083001108 + 0x10 * i
/-- DFL_RING_PROD (R240). -/
def Reg.DFL_RING_PROD (i : Nat) : Nat := 0x108300110c + 0x10 * i

/-! ### 10_dram_controller -/

/-- DMC_CTRL (R275). -/
def Reg.DMC_CTRL : Nat := 0x1084000000
/-- DMC_STAT (R275). -/
def Reg.DMC_STAT : Nat := 0x1084000004
/-- DMC_CFG (R275). -/
def Reg.DMC_CFG : Nat := 0x1084000008
/-- DMC_INSTALLED (R275). -/
def Reg.DMC_INSTALLED : Nat := 0x108400000c
/-- DMC_CHAN_MASK (R275). -/
def Reg.DMC_CHAN_MASK (i : Nat) : Nat := 0x1084000010 + 0x4 * i
/-- DMC_BANK_MASK (R275). -/
def Reg.DMC_BANK_MASK (i : Nat) : Nat := 0x1084000020 + 0x4 * i
/-- DMC_INT_STAT (R275). -/
def Reg.DMC_INT_STAT : Nat := 0x1084000030
/-- DMC_INT_EN (R275). -/
def Reg.DMC_INT_EN : Nat := 0x1084000034
/-- DMC_AGE_LIM (R275). -/
def Reg.DMC_AGE_LIM : Nat := 0x1084000040
/-- DMC_SCHED (R275). -/
def Reg.DMC_SCHED : Nat := 0x1084000044
/-- DMC_NREF (R275). -/
def Reg.DMC_NREF : Nat := 0x1084000048
/-- DMC_RETRAIN (R275). -/
def Reg.DMC_RETRAIN : Nat := 0x108400004c
/-- DMC_FREQ (R275). -/
def Reg.DMC_FREQ : Nat := 0x1084000050
/-- DMC_SCRUB_CTRL (R275). -/
def Reg.DMC_SCRUB_CTRL : Nat := 0x1084000054
/-- DMC_SCRUB_PASS (R275). -/
def Reg.DMC_SCRUB_PASS : Nat := 0x1084000058
/-- DMC_ECC_CORR (R275). -/
def Reg.DMC_ECC_CORR : Nat := 0x1084000060
/-- DMC_ECC_UNC (R275). -/
def Reg.DMC_ECC_UNC : Nat := 0x1084000064
/-- DMC_CMD_ERRS (R275). -/
def Reg.DMC_CMD_ERRS : Nat := 0x1084000068
/-- DMC_NREF_COUNT (R275). -/
def Reg.DMC_NREF_COUNT : Nat := 0x108400006c
/-- DMC_RETRAIN_COUNT (R275). -/
def Reg.DMC_RETRAIN_COUNT : Nat := 0x1084000070
/-- DMC_RETRAIN_FORCED (R275). -/
def Reg.DMC_RETRAIN_FORCED : Nat := 0x1084000074
/-- DMC_FREQ_COUNT (R275). -/
def Reg.DMC_FREQ_COUNT : Nat := 0x1084000078
/-- DMC_ERR_LOC_LO (R275). -/
def Reg.DMC_ERR_LOC_LO : Nat := 0x1084000080
/-- DMC_ERR_LOC_HI (R275). -/
def Reg.DMC_ERR_LOC_HI : Nat := 0x1084000084
/-- DMC_ERR_INFO (R275). -/
def Reg.DMC_ERR_INFO : Nat := 0x1084000088
/-- DMC_RNG_SEED (R275). -/
def Reg.DMC_RNG_SEED (i : Nat) : Nat := 0x1084000090 + 0x4 * i
/-- DMC_URG (R275). -/
def Reg.DMC_URG : Nat := 0x10840000a0
/-- DMC_PORT_CFG (R275). -/
def Reg.DMC_PORT_CFG (i : Nat) : Nat := 0x1084000100 + 0x4 * i
/-- DMC_PORT_LATE (R275). -/
def Reg.DMC_PORT_LATE (i : Nat) : Nat := 0x1084000140 + 0x4 * i
/-- DMC_TSET_W (R275). -/
def Reg.DMC_TSET_W (i j : Nat) : Nat := 0x1084000200 + 0x10 * i + 0x4 * j

/-! ### 11_cipher_engine -/

/-- CIP_U_ID (R297). -/
def Reg.CIP_U_ID (i : Nat) : Nat := 0x1085000000 + 0x10000 * i
/-- CIP_U_SLOTS (R297). -/
def Reg.CIP_U_SLOTS (i : Nat) : Nat := 0x1085000004 + 0x10000 * i
/-- CIP_U_STAT (R297). -/
def Reg.CIP_U_STAT (i : Nat) : Nat := 0x1085000008 + 0x10000 * i
/-- CIP_U_CMD (R297). -/
def Reg.CIP_U_CMD (i : Nat) : Nat := 0x1085000010 + 0x10000 * i
/-- CIP_U_ARG0 (R297). -/
def Reg.CIP_U_ARG0 (i : Nat) : Nat := 0x1085000014 + 0x10000 * i
/-- CIP_U_ARG1 (R297). -/
def Reg.CIP_U_ARG1 (i : Nat) : Nat := 0x1085000018 + 0x10000 * i
/-- CIP_U_ARG2 (R297). -/
def Reg.CIP_U_ARG2 (i : Nat) : Nat := 0x108500001c + 0x10000 * i
/-- CIP_U_CMD_STAT (R297). -/
def Reg.CIP_U_CMD_STAT (i : Nat) : Nat := 0x1085000020 + 0x10000 * i
/-- CIP_U_INT_STAT (R297). -/
def Reg.CIP_U_INT_STAT (i : Nat) : Nat := 0x1085000030 + 0x10000 * i
/-- CIP_U_INT_EN (R297). -/
def Reg.CIP_U_INT_EN (i : Nat) : Nat := 0x1085000034 + 0x10000 * i
/-- CIP_U_JOBS (R297). -/
def Reg.CIP_U_JOBS (i : Nat) : Nat := 0x1085000040 + 0x10000 * i
/-- CIP_U_AUTH_FAIL (R297). -/
def Reg.CIP_U_AUTH_FAIL (i : Nat) : Nat := 0x1085000044 + 0x10000 * i
/-- CIP_U_REPLAY (R297). -/
def Reg.CIP_U_REPLAY (i : Nat) : Nat := 0x1085000048 + 0x10000 * i
/-- CIP_U_JOB_ERRS (R297). -/
def Reg.CIP_U_JOB_ERRS (i : Nat) : Nat := 0x108500004c + 0x10000 * i
/-- CIP_U_LAST_ERR (R297). -/
def Reg.CIP_U_LAST_ERR (i : Nat) : Nat := 0x1085000050 + 0x10000 * i
/-- CIP_U_RING_CFG (R297). -/
def Reg.CIP_U_RING_CFG (i : Nat) : Nat := 0x1085000100 + 0x10000 * i
/-- CIP_U_RING_BASE (R297). -/
def Reg.CIP_U_RING_BASE (i : Nat) : Nat := 0x1085000104 + 0x10000 * i
/-- CIP_U_RING_CONS (R297). -/
def Reg.CIP_U_RING_CONS (i : Nat) : Nat := 0x1085000108 + 0x10000 * i
/-- CIP_U_RING_PROD (R297). -/
def Reg.CIP_U_RING_PROD (i : Nat) : Nat := 0x108500010c + 0x10000 * i
/-- CIP_CTRL (R297). -/
def Reg.CIP_CTRL : Nat := 0x1085008000
/-- CIP_STAT (R297). -/
def Reg.CIP_STAT : Nat := 0x1085008004
/-- CIP_SCHED (R297). -/
def Reg.CIP_SCHED : Nat := 0x1085008008
/-- CIP_ADM_STAT (R297). -/
def Reg.CIP_ADM_STAT : Nat := 0x108500800c
/-- CIP_RNG_SEED (R297). -/
def Reg.CIP_RNG_SEED (i : Nat) : Nat := 0x1085008010 + 0x4 * i
/-- CIP_KEK_VALID (R297). -/
def Reg.CIP_KEK_VALID : Nat := 0x1085008018
/-- CIP_INGRESS_JOBS (R297). -/
def Reg.CIP_INGRESS_JOBS : Nat := 0x1085008020
/-- CIP_INGRESS_ERRS (R297). -/
def Reg.CIP_INGRESS_ERRS : Nat := 0x1085008024
/-- CIP_PAGE_SLOTS (R297). -/
def Reg.CIP_PAGE_SLOTS (i : Nat) : Nat := 0x1085008100 + 0x4 * i

/-! ### 12_ethernet_ports_and_packet_path -/

/-- PKT_CTRL (R326). -/
def Reg.PKT_CTRL : Nat := 0x1086000000
/-- PKT_STAT (R326). -/
def Reg.PKT_STAT : Nat := 0x1086000004
/-- PKT_CFG (R326). -/
def Reg.PKT_CFG : Nat := 0x1086000008
/-- PKT_GRAN_BASE_LO (R326). -/
def Reg.PKT_GRAN_BASE_LO : Nat := 0x1086000010
/-- PKT_GRAN_BASE_HI (R326). -/
def Reg.PKT_GRAN_BASE_HI : Nat := 0x1086000014
/-- PKT_GRAN_CFG (R326). -/
def Reg.PKT_GRAN_CFG : Nat := 0x1086000018
/-- PKT_GFL_BASE_LO (R326). -/
def Reg.PKT_GFL_BASE_LO : Nat := 0x108600001c
/-- PKT_GFL_BASE_HI (R326). -/
def Reg.PKT_GFL_BASE_HI : Nat := 0x1086000020
/-- PKT_FLOW_BASE_LO (R326). -/
def Reg.PKT_FLOW_BASE_LO : Nat := 0x1086000028
/-- PKT_FLOW_BASE_HI (R326). -/
def Reg.PKT_FLOW_BASE_HI : Nat := 0x108600002c
/-- PKT_FLOW_CFG (R326). -/
def Reg.PKT_FLOW_CFG : Nat := 0x1086000030
/-- PKT_INT_STAT (R326). -/
def Reg.PKT_INT_STAT : Nat := 0x1086000038
/-- PKT_INT_EN (R326). -/
def Reg.PKT_INT_EN : Nat := 0x108600003c
/-- PKT_FLOW_CMD (R326). -/
def Reg.PKT_FLOW_CMD : Nat := 0x1086000040
/-- PKT_FLOW_CMD_ARG0 (R326). -/
def Reg.PKT_FLOW_CMD_ARG0 : Nat := 0x1086000044
/-- PKT_FLOW_CMD_ARG1 (R326). -/
def Reg.PKT_FLOW_CMD_ARG1 : Nat := 0x1086000048
/-- PKT_FLOW_CMD_STAT (R326). -/
def Reg.PKT_FLOW_CMD_STAT : Nat := 0x108600004c
/-- PKT_TX_CFG (R326). -/
def Reg.PKT_TX_CFG : Nat := 0x1086000050
/-- PKT_RX_FLOOD_DROP (R326). -/
def Reg.PKT_RX_FLOOD_DROP : Nat := 0x1086000060
/-- PKT_RX_UNKNOWN (R326). -/
def Reg.PKT_RX_UNKNOWN : Nat := 0x1086000064
/-- PKT_RX_RTP_BAD (R326). -/
def Reg.PKT_RX_RTP_BAD : Nat := 0x1086000068
/-- PKT_RX_SRC (R326). -/
def Reg.PKT_RX_SRC : Nat := 0x108600006c
/-- PKT_RX_SIZE (R326). -/
def Reg.PKT_RX_SIZE : Nat := 0x1086000070
/-- PKT_RX_NOGRAN (R326). -/
def Reg.PKT_RX_NOGRAN : Nat := 0x1086000074
/-- PKT_RX_UNPROT (R326). -/
def Reg.PKT_RX_UNPROT : Nat := 0x1086000078
/-- PKT_RX_QREFUSED (R326). -/
def Reg.PKT_RX_QREFUSED : Nat := 0x108600007c
/-- PKT_GRET_BAD (R326). -/
def Reg.PKT_GRET_BAD : Nat := 0x1086000080
/-- PKT_AUD_SNAP (R326). -/
def Reg.PKT_AUD_SNAP : Nat := 0x10860000c0
/-- PKT_AUD_CELL_FREE (R326). -/
def Reg.PKT_AUD_CELL_FREE : Nat := 0x10860000c4
/-- PKT_AUD_CELL_HELD (R326). -/
def Reg.PKT_AUD_CELL_HELD : Nat := 0x10860000c8
/-- PKT_AUD_GFREE (R326). -/
def Reg.PKT_AUD_GFREE : Nat := 0x10860000cc
/-- PKT_AUD_GALLOC (R326). -/
def Reg.PKT_AUD_GALLOC : Nat := 0x10860000d0
/-- PKT_AUD_GRET (R326). -/
def Reg.PKT_AUD_GRET : Nat := 0x10860000d4
/-- PKT_FWD_IDX (R326). -/
def Reg.PKT_FWD_IDX : Nat := 0x1086000100
/-- PKT_FWD_W0 (R326). -/
def Reg.PKT_FWD_W0 : Nat := 0x1086000104
/-- PKT_FWD_W1 (R326). -/
def Reg.PKT_FWD_W1 : Nat := 0x1086000108
/-- PKT_FWD_W2 (R326). -/
def Reg.PKT_FWD_W2 : Nat := 0x108600010c
/-- PKT_LADDR_W0 (R326). -/
def Reg.PKT_LADDR_W0 (i : Nat) : Nat := 0x1086000200 + 0x20 * i
/-- PKT_LADDR_W1 (R326). -/
def Reg.PKT_LADDR_W1 (i : Nat) : Nat := 0x1086000204 + 0x20 * i
/-- PKT_LADDR_W2 (R326). -/
def Reg.PKT_LADDR_W2 (i : Nat) : Nat := 0x1086000208 + 0x20 * i
/-- PKT_LADDR_W3 (R326). -/
def Reg.PKT_LADDR_W3 (i : Nat) : Nat := 0x108600020c + 0x20 * i
/-- PKT_LADDR_W4 (R326). -/
def Reg.PKT_LADDR_W4 (i : Nat) : Nat := 0x1086000210 + 0x20 * i
/-- PKT_LADDR_W5 (R326). -/
def Reg.PKT_LADDR_W5 (i : Nat) : Nat := 0x1086000214 + 0x20 * i
/-- PKT_LADDR_W6 (R326). -/
def Reg.PKT_LADDR_W6 (i : Nat) : Nat := 0x1086000218 + 0x20 * i
/-- PKT_LADDR_W7 (R326). -/
def Reg.PKT_LADDR_W7 (i : Nat) : Nat := 0x108600021c + 0x20 * i
/-- PKT_GRET_CFG (R326). -/
def Reg.PKT_GRET_CFG (i : Nat) : Nat := 0x1086000400 + 0x10 * i
/-- PKT_GRET_BASE (R326). -/
def Reg.PKT_GRET_BASE (i : Nat) : Nat := 0x1086000404 + 0x10 * i
/-- PKT_GRET_CONS (R326). -/
def Reg.PKT_GRET_CONS (i : Nat) : Nat := 0x1086000408 + 0x10 * i
/-- PKT_GRET_PROD (R326). -/
def Reg.PKT_GRET_PROD (i : Nat) : Nat := 0x108600040c + 0x10 * i
/-- ETH_CTRL (R326). -/
def Reg.ETH_CTRL (i : Nat) : Nat := 0x1086001000 + 0x1000 * i
/-- ETH_STAT (R326). -/
def Reg.ETH_STAT (i : Nat) : Nat := 0x1086001004 + 0x1000 * i
/-- ETH_AN (R326). -/
def Reg.ETH_AN (i : Nat) : Nat := 0x1086001008 + 0x1000 * i
/-- ETH_MAC_LO (R326). -/
def Reg.ETH_MAC_LO (i : Nat) : Nat := 0x108600100c + 0x1000 * i
/-- ETH_MAC_HI (R326). -/
def Reg.ETH_MAC_HI (i : Nat) : Nat := 0x1086001010 + 0x1000 * i
/-- ETH_TC_CFG (R326). -/
def Reg.ETH_TC_CFG (i j : Nat) : Nat := 0x1086001020 + 0x1000 * i + 0x4 * j
/-- ETH_RX_FRAMES (R326). -/
def Reg.ETH_RX_FRAMES (i : Nat) : Nat := 0x1086001040 + 0x1000 * i
/-- ETH_RX_BYTES (R326). -/
def Reg.ETH_RX_BYTES (i : Nat) : Nat := 0x1086001044 + 0x1000 * i
/-- ETH_RX_ERRS (R326). -/
def Reg.ETH_RX_ERRS (i : Nat) : Nat := 0x1086001048 + 0x1000 * i
/-- ETH_RX_NOCELL (R326). -/
def Reg.ETH_RX_NOCELL (i : Nat) : Nat := 0x108600104c + 0x1000 * i
/-- ETH_RX_FROZEN (R326). -/
def Reg.ETH_RX_FROZEN (i : Nat) : Nat := 0x1086001050 + 0x1000 * i
/-- ETH_TX_FRAMES (R326). -/
def Reg.ETH_TX_FRAMES (i : Nat) : Nat := 0x1086001054 + 0x1000 * i
/-- ETH_TX_BYTES (R326). -/
def Reg.ETH_TX_BYTES (i : Nat) : Nat := 0x1086001058 + 0x1000 * i
/-- ETH_LATE_SENT (R326). -/
def Reg.ETH_LATE_SENT (i : Nat) : Nat := 0x108600105c + 0x1000 * i
/-- ETH_LATE_DROP (R326). -/
def Reg.ETH_LATE_DROP (i : Nat) : Nat := 0x1086001060 + 0x1000 * i
/-- ETH_PAUSE (R326). -/
def Reg.ETH_PAUSE (i : Nat) : Nat := 0x1086001064 + 0x1000 * i
/-- PKT_RXR_BASE_LO (R326). -/
def Reg.PKT_RXR_BASE_LO (i : Nat) : Nat := 0x1086011000 + 0x1000 * i
/-- PKT_RXR_BASE_HI (R326). -/
def Reg.PKT_RXR_BASE_HI (i : Nat) : Nat := 0x1086011004 + 0x1000 * i
/-- PKT_RXR_CFG (R326). -/
def Reg.PKT_RXR_CFG (i : Nat) : Nat := 0x1086011008 + 0x1000 * i
/-- PKT_RXR_HEAD (R326). -/
def Reg.PKT_RXR_HEAD (i : Nat) : Nat := 0x108601100c + 0x1000 * i
/-- PKT_RXR_TAIL (R326). -/
def Reg.PKT_RXR_TAIL (i : Nat) : Nat := 0x1086011010 + 0x1000 * i
/-- PKT_RXR_NOBUF (R326). -/
def Reg.PKT_RXR_NOBUF (i : Nat) : Nat := 0x1086011014 + 0x1000 * i
/-- PKT_TXR_CFG (R326). -/
def Reg.PKT_TXR_CFG (i : Nat) : Nat := 0x1086021000 + 0x1000 * i
/-- PKT_TXR_BASE (R326). -/
def Reg.PKT_TXR_BASE (i : Nat) : Nat := 0x1086021004 + 0x1000 * i
/-- PKT_TXR_CONS (R326). -/
def Reg.PKT_TXR_CONS (i : Nat) : Nat := 0x1086021008 + 0x1000 * i
/-- PKT_TXR_PROD (R326). -/
def Reg.PKT_TXR_PROD (i : Nat) : Nat := 0x108602100c + 0x1000 * i
/-- PKT_TXR_ERRS (R326). -/
def Reg.PKT_TXR_ERRS (i : Nat) : Nat := 0x1086021010 + 0x1000 * i
/-- PKT_TXR_LAST_ERR (R326). -/
def Reg.PKT_TXR_LAST_ERR (i : Nat) : Nat := 0x1086021014 + 0x1000 * i
/-- PKT_WAKE_CTRL (R326). -/
def Reg.PKT_WAKE_CTRL : Nat := 0x1086031000
/-- PKT_WAKE_STAT (R326). -/
def Reg.PKT_WAKE_STAT : Nat := 0x1086031004
/-- PKT_WAKE_PAT (R326). -/
def Reg.PKT_WAKE_PAT (i j : Nat) : Nat := 0x1086031100 + 0x100 * i + 0x4 * j

/-! ### 13_datum_network_time -/

/-- DTM_STAT (R360). -/
def Reg.DTM_STAT : Nat := 0x1087000004
/-- DTM_INT_STAT (R360). -/
def Reg.DTM_INT_STAT : Nat := 0x1087000008
/-- DTM_INT_EN (R360). -/
def Reg.DTM_INT_EN : Nat := 0x108700000c
/-- DTM_MONO_LO (R360). -/
def Reg.DTM_MONO_LO : Nat := 0x1087000010
/-- DTM_MONO_HI (R360). -/
def Reg.DTM_MONO_HI : Nat := 0x1087000014
/-- DTM_NT_FRAC (R360). -/
def Reg.DTM_NT_FRAC : Nat := 0x1087000018
/-- DTM_NT_NS (R360). -/
def Reg.DTM_NT_NS : Nat := 0x108700001c
/-- DTM_NT_SEC_LO (R360). -/
def Reg.DTM_NT_SEC_LO : Nat := 0x1087000020
/-- DTM_NT_SEC_HI (R360). -/
def Reg.DTM_NT_SEC_HI : Nat := 0x1087000024
/-- DTM_NT_MONO_LO (R360). -/
def Reg.DTM_NT_MONO_LO : Nat := 0x1087000028
/-- DTM_NT_MONO_HI (R360). -/
def Reg.DTM_NT_MONO_HI : Nat := 0x108700002c
/-- DTM_FFO (R360). -/
def Reg.DTM_FFO : Nat := 0x1087000030
/-- DTM_SLEW_OFS (R360). -/
def Reg.DTM_SLEW_OFS : Nat := 0x1087000034
/-- DTM_SLEW_CFG (R360). -/
def Reg.DTM_SLEW_CFG : Nat := 0x1087000038
/-- DTM_STEP_NS (R360). -/
def Reg.DTM_STEP_NS : Nat := 0x1087000040
/-- DTM_STEP_S_LO (R360). -/
def Reg.DTM_STEP_S_LO : Nat := 0x1087000044
/-- DTM_STEP_S_HI (R360). -/
def Reg.DTM_STEP_S_HI : Nat := 0x1087000048
/-- DTM_STEP_CTRL (R360). -/
def Reg.DTM_STEP_CTRL : Nat := 0x108700004c
/-- DTM_STEP_THRESH (R360). -/
def Reg.DTM_STEP_THRESH : Nat := 0x1087000050
/-- DTM_STEP_PEND_LO (R360). -/
def Reg.DTM_STEP_PEND_LO : Nat := 0x1087000054
/-- DTM_STEP_PEND_HI (R360). -/
def Reg.DTM_STEP_PEND_HI : Nat := 0x1087000058
/-- DTM_SRV_CFG (R360). -/
def Reg.DTM_SRV_CFG : Nat := 0x1087000060
/-- DTM_SRV_LIM (R360). -/
def Reg.DTM_SRV_LIM : Nat := 0x1087000064
/-- DTM_SRV_LOCK (R360). -/
def Reg.DTM_SRV_LOCK : Nat := 0x1087000068
/-- DTM_SRV_FFO_LIM (R360). -/
def Reg.DTM_SRV_FFO_LIM : Nat := 0x108700006c
/-- DTM_SRV_MEAS_LO (R360). -/
def Reg.DTM_SRV_MEAS_LO : Nat := 0x1087000070
/-- DTM_SRV_MEAS_HI (R360). -/
def Reg.DTM_SRV_MEAS_HI : Nat := 0x1087000074
/-- DTM_SRV_LAST_LO (R360). -/
def Reg.DTM_SRV_LAST_LO : Nat := 0x1087000078
/-- DTM_SRV_LAST_HI (R360). -/
def Reg.DTM_SRV_LAST_HI : Nat := 0x108700007c
/-- DTM_STEP_COUNT (R360). -/
def Reg.DTM_STEP_COUNT : Nat := 0x1087000080
/-- DTM_SRV_DISCARD (R360). -/
def Reg.DTM_SRV_DISCARD : Nat := 0x1087000084
/-- DTM_STEP_WITHDRAWN (R360). -/
def Reg.DTM_STEP_WITHDRAWN : Nat := 0x1087000088
/-- DTM_TC_FRAMES (R360). -/
def Reg.DTM_TC_FRAMES : Nat := 0x108700008c
/-- DTM_PTP_CFG (R360). -/
def Reg.DTM_PTP_CFG : Nat := 0x1087000090
/-- DTM_TC_SAT (R360). -/
def Reg.DTM_TC_SAT : Nat := 0x1087000094
/-- DTM_SYNCE_CFG (R360). -/
def Reg.DTM_SYNCE_CFG : Nat := 0x10870000a0
/-- DTM_SYNCE_FFO (R360). -/
def Reg.DTM_SYNCE_FFO : Nat := 0x10870000a4
/-- DTM_PPSO_CFG (R360). -/
def Reg.DTM_PPSO_CFG : Nat := 0x10870000b0
/-- DTM_EVO_CFG (R360). -/
def Reg.DTM_EVO_CFG (i : Nat) : Nat := 0x1087000100 + 0x20 * i
/-- DTM_EVO_START_NS (R360). -/
def Reg.DTM_EVO_START_NS (i : Nat) : Nat := 0x1087000104 + 0x20 * i
/-- DTM_EVO_START_S_LO (R360). -/
def Reg.DTM_EVO_START_S_LO (i : Nat) : Nat := 0x1087000108 + 0x20 * i
/-- DTM_EVO_START_S_HI (R360). -/
def Reg.DTM_EVO_START_S_HI (i : Nat) : Nat := 0x108700010c + 0x20 * i
/-- DTM_EVO_PERIOD (R360). -/
def Reg.DTM_EVO_PERIOD (i : Nat) : Nat := 0x1087000110 + 0x20 * i
/-- DTM_EVO_WIDTH (R360). -/
def Reg.DTM_EVO_WIDTH (i : Nat) : Nat := 0x1087000114 + 0x20 * i
/-- DTM_EVI_CFG (R360). -/
def Reg.DTM_EVI_CFG (i : Nat) : Nat := 0x1087000200 + 0x20 * i
/-- DTM_EVI_TS0 (R360). -/
def Reg.DTM_EVI_TS0 (i : Nat) : Nat := 0x1087000204 + 0x20 * i
/-- DTM_EVI_TS1 (R360). -/
def Reg.DTM_EVI_TS1 (i : Nat) : Nat := 0x1087000208 + 0x20 * i
/-- DTM_EVI_TS2 (R360). -/
def Reg.DTM_EVI_TS2 (i : Nat) : Nat := 0x108700020c + 0x20 * i
/-- DTM_EVI_TS3 (R360). -/
def Reg.DTM_EVI_TS3 (i : Nat) : Nat := 0x1087000210 + 0x20 * i
/-- DTM_EVI_OVF (R360). -/
def Reg.DTM_EVI_OVF (i : Nat) : Nat := 0x1087000214 + 0x20 * i
/-- DTM_TC_FWD (R360). -/
def Reg.DTM_TC_FWD (i : Nat) : Nat := 0x1087000300 + 0x4 * i
/-- DTM_PLUMB_CFG (R360). -/
def Reg.DTM_PLUMB_CFG : Nat := 0x1087000380
/-- DTM_PLUMB_T0 (R360). -/
def Reg.DTM_PLUMB_T0 : Nat := 0x1087000384
/-- DTM_PLUMB_C (R360). -/
def Reg.DTM_PLUMB_C (i : Nat) : Nat := 0x1087000388 + 0x4 * i
/-- DTM_PLUMB_AGE (R360). -/
def Reg.DTM_PLUMB_AGE : Nat := 0x1087000398
/-- DTM_PLUMB_TEMP (R360). -/
def Reg.DTM_PLUMB_TEMP : Nat := 0x108700039c
/-- DTM_PLUMB_STAT (R360). -/
def Reg.DTM_PLUMB_STAT : Nat := 0x10870003a0
/-- DTM_PLUMB_ENS_CFG (R360). -/
def Reg.DTM_PLUMB_ENS_CFG : Nat := 0x10870003a4
/-- DTM_PLUMB_ENS_LAST (R360). -/
def Reg.DTM_PLUMB_ENS_LAST : Nat := 0x10870003a8
/-- DTM_PLUMB_Q (R360). -/
def Reg.DTM_PLUMB_Q : Nat := 0x10870003ac
/-- DTM_PC_RX (R360). -/
def Reg.DTM_PC_RX (i j : Nat) : Nat := 0x1087000400 + 0x40 * i + 0x8 * j
/-- DTM_PC_TX (R360). -/
def Reg.DTM_PC_TX (i j : Nat) : Nat := 0x1087000404 + 0x40 * i + 0x8 * j
/-- DTM_PEER (R360). -/
def Reg.DTM_PEER (i : Nat) : Nat := 0x1087000800 + 0x8 * i
/-- DTM_PEER_R (R360). -/
def Reg.DTM_PEER_R (i : Nat) : Nat := 0x1087000804 + 0x8 * i

/-! ### 14_fabric_and_call_migration -/

/-- FAB_CTRL (R398). -/
def Reg.FAB_CTRL : Nat := 0x1088000000
/-- FAB_STAT (R398). -/
def Reg.FAB_STAT : Nat := 0x1088000004
/-- FAB_ADDR (R398). -/
def Reg.FAB_ADDR : Nat := 0x1088000008
/-- FAB_ASSIGNER (R398). -/
def Reg.FAB_ASSIGNER : Nat := 0x108800000c
/-- FAB_SERIAL_LO (R398). -/
def Reg.FAB_SERIAL_LO : Nat := 0x1088000010
/-- FAB_SERIAL_HI (R398). -/
def Reg.FAB_SERIAL_HI : Nat := 0x1088000014
/-- FAB_TAG (R398). -/
def Reg.FAB_TAG : Nat := 0x1088000018
/-- FAB_ADV (R398). -/
def Reg.FAB_ADV : Nat := 0x1088000020
/-- FAB_OFFER (R398). -/
def Reg.FAB_OFFER : Nat := 0x1088000024
/-- FAB_RXRES (R398). -/
def Reg.FAB_RXRES : Nat := 0x1088000028
/-- FAB_TC (R398). -/
def Reg.FAB_TC : Nat := 0x108800002c
/-- FAB_TIMERS (R398). -/
def Reg.FAB_TIMERS : Nat := 0x1088000030
/-- FAB_PORTS (R398). -/
def Reg.FAB_PORTS : Nat := 0x1088000034
/-- FAB_RING (R398). -/
def Reg.FAB_RING : Nat := 0x1088000038
/-- FAB_LINKS (R398). -/
def Reg.FAB_LINKS : Nat := 0x108800003c
/-- FAB_INT_STAT (R398). -/
def Reg.FAB_INT_STAT : Nat := 0x1088000040
/-- FAB_INT_EN (R398). -/
def Reg.FAB_INT_EN : Nat := 0x1088000044
/-- FAB_DROP (R398). -/
def Reg.FAB_DROP (i : Nat) : Nat := 0x1088000050 + 0x4 * i
/-- FAB_LINK_FULL (R398). -/
def Reg.FAB_LINK_FULL : Nat := 0x1088000070
/-- FAB_ADDR_COLL (R398). -/
def Reg.FAB_ADDR_COLL : Nat := 0x1088000074
/-- FAB_LOST_UNITS (R398). -/
def Reg.FAB_LOST_UNITS : Nat := 0x1088000078
/-- FAB_ROUTES (R398). -/
def Reg.FAB_ROUTES : Nat := 0x108800007c
/-- FAB_CMD (R398). -/
def Reg.FAB_CMD : Nat := 0x1088000080
/-- FAB_CMD_ARG (R398). -/
def Reg.FAB_CMD_ARG (i : Nat) : Nat := 0x1088000084 + 0x4 * i
/-- FAB_CMD_STAT (R398). -/
def Reg.FAB_CMD_STAT : Nat := 0x1088000094
/-- FAB_RT_DATA0 (R398). -/
def Reg.FAB_RT_DATA0 : Nat := 0x1088000098
/-- FAB_RT_DATA1 (R398). -/
def Reg.FAB_RT_DATA1 : Nat := 0x108800009c
/-- FAB_TXR_CFG (R398). -/
def Reg.FAB_TXR_CFG : Nat := 0x10880000a0
/-- FAB_TXR_BASE (R398). -/
def Reg.FAB_TXR_BASE : Nat := 0x10880000a4
/-- FAB_TXR_CONS (R398). -/
def Reg.FAB_TXR_CONS : Nat := 0x10880000a8
/-- FAB_TXR_PROD (R398). -/
def Reg.FAB_TXR_PROD : Nat := 0x10880000ac
/-- FAB_AUD_SNAP (R398). -/
def Reg.FAB_AUD_SNAP : Nat := 0x10880000c0
/-- FAB_AUD_LIMIT (R398). -/
def Reg.FAB_AUD_LIMIT : Nat := 0x10880000c4
/-- FAB_AUD_AVAIL (R398). -/
def Reg.FAB_AUD_AVAIL : Nat := 0x10880000c8
/-- FAB_AUD_OUT (R398). -/
def Reg.FAB_AUD_OUT : Nat := 0x10880000cc
/-- FAB_AUD_OFFER (R398). -/
def Reg.FAB_AUD_OFFER : Nat := 0x10880000d0
/-- FAB_AUD_RXFREE (R398). -/
def Reg.FAB_AUD_RXFREE : Nat := 0x10880000d4
/-- FAB_AUD_RXHELD (R398). -/
def Reg.FAB_AUD_RXHELD : Nat := 0x10880000d8
/-- FAB_LNK_W (R398). -/
def Reg.FAB_LNK_W (i j : Nat) : Nat := 0x1088000400 + 0x20 * i + 0x4 * j
/-- FAB_MIG_CFG (R398). -/
def Reg.FAB_MIG_CFG (i : Nat) : Nat := 0x1088000c00 + 0x40 * i
/-- FAB_MIG_WBASE_LO (R398). -/
def Reg.FAB_MIG_WBASE_LO (i : Nat) : Nat := 0x1088000c04 + 0x40 * i
/-- FAB_MIG_WBASE_HI (R398). -/
def Reg.FAB_MIG_WBASE_HI (i : Nat) : Nat := 0x1088000c08 + 0x40 * i
/-- FAB_MIG_WLEN (R398). -/
def Reg.FAB_MIG_WLEN (i : Nat) : Nat := 0x1088000c0c + 0x40 * i
/-- FAB_MIG_STAT (R398). -/
def Reg.FAB_MIG_STAT (i : Nat) : Nat := 0x1088000c10 + 0x40 * i
/-- FAB_MIG_FRAMES (R398). -/
def Reg.FAB_MIG_FRAMES (i : Nat) : Nat := 0x1088000c14 + 0x40 * i
/-- FAB_MIG_ACKED (R398). -/
def Reg.FAB_MIG_ACKED (i : Nat) : Nat := 0x1088000c18 + 0x40 * i
/-- FAB_MIG_BYTES (R398). -/
def Reg.FAB_MIG_BYTES (i : Nat) : Nat := 0x1088000c1c + 0x40 * i
/-- FAB_MIG_ITEMS (R398). -/
def Reg.FAB_MIG_ITEMS (i : Nat) : Nat := 0x1088000c20 + 0x40 * i
/-- FAB_MIG_REWINDS (R398). -/
def Reg.FAB_MIG_REWINDS (i : Nat) : Nat := 0x1088000c24 + 0x40 * i

/-! ### 15_benchmark_management -/

/-- BMK_MB_CMD (R425). -/
def Reg.BMK_MB_CMD : Nat := 0x1089000000
/-- BMK_MB_ARG (R425). -/
def Reg.BMK_MB_ARG (i : Nat) : Nat := 0x1089000004 + 0x4 * i
/-- BMK_MB_STAT (R425). -/
def Reg.BMK_MB_STAT : Nat := 0x1089000014
/-- BMK_MB_RSP (R425). -/
def Reg.BMK_MB_RSP (i : Nat) : Nat := 0x1089000018 + 0x4 * i
/-- BMK_MB_BUF_LO (R425). -/
def Reg.BMK_MB_BUF_LO : Nat := 0x1089000028
/-- BMK_MB_BUF_HI (R425). -/
def Reg.BMK_MB_BUF_HI : Nat := 0x108900002c
/-- BMK_INT_STAT (R425). -/
def Reg.BMK_INT_STAT : Nat := 0x1089000030
/-- BMK_INT_EN (R425). -/
def Reg.BMK_INT_EN : Nat := 0x1089000034
/-- BMK_LOG_SEQ (R425). -/
def Reg.BMK_LOG_SEQ : Nat := 0x1089000040
/-- BMK_LOG_OVW (R425). -/
def Reg.BMK_LOG_OVW : Nat := 0x1089000044
/-- BMK_BOOT_STAT (R425). -/
def Reg.BMK_BOOT_STAT : Nat := 0x1089000050
/-- BMK_BOOT_CFG (R425). -/
def Reg.BMK_BOOT_CFG : Nat := 0x1089000054
/-- BMK_EXT_TEMP_CFG (R425). -/
def Reg.BMK_EXT_TEMP_CFG : Nat := 0x1089000058
/-- BMK_THR_STAT0 (R425). -/
def Reg.BMK_THR_STAT0 : Nat := 0x1089000060
/-- BMK_THR_STAT1 (R425). -/
def Reg.BMK_THR_STAT1 : Nat := 0x1089000064
/-- BMK_SENS (R425). -/
def Reg.BMK_SENS (i : Nat) : Nat := 0x1089000100 + 0x4 * i
/-- BMK_THR (R425). -/
def Reg.BMK_THR (i : Nat) : Nat := 0x1089000200 + 0x4 * i

/-! ### 16_modes_clocks_reset -/

/-- PWR_MODE (R441). -/
def Reg.PWR_MODE : Nat := 0x108a000000
/-- PWR_MODE_REQ (R441). -/
def Reg.PWR_MODE_REQ : Nat := 0x108a000004
/-- PWR_INT_STAT (R441). -/
def Reg.PWR_INT_STAT : Nat := 0x108a000008
/-- PWR_INT_EN (R441). -/
def Reg.PWR_INT_EN : Nat := 0x108a00000c
/-- PWR_RST (R441). -/
def Reg.PWR_RST : Nat := 0x108a000010
/-- PWR_RST_CAUSE (R441). -/
def Reg.PWR_RST_CAUSE : Nat := 0x108a000014
/-- PWR_STBY_CFG (R441). -/
def Reg.PWR_STBY_CFG : Nat := 0x108a000018
/-- CLK_GATE (R441). -/
def Reg.CLK_GATE (i : Nat) : Nat := 0x108a000040 + 0x4 * i
/-- CLK_GATE_STAT (R441). -/
def Reg.CLK_GATE_STAT (i : Nat) : Nat := 0x108a000050 + 0x4 * i
/-- PWR_PGATE (R441). -/
def Reg.PWR_PGATE (i : Nat) : Nat := 0x108a000060 + 0x4 * i
/-- PWR_PGATE_STAT (R441). -/
def Reg.PWR_PGATE_STAT (i : Nat) : Nat := 0x108a000068 + 0x4 * i
/-- CLK_STAT (R441). -/
def Reg.CLK_STAT : Nat := 0x108a000080

/-! ### 17_errors_and_conservation -/

/-- ERR_STAT (R457). -/
def Reg.ERR_STAT : Nat := 0x108b000000
/-- ERR_INT_STAT (R457). -/
def Reg.ERR_INT_STAT : Nat := 0x108b000008
/-- ERR_INT_EN (R457). -/
def Reg.ERR_INT_EN : Nat := 0x108b00000c
/-- ERR_REC (R457). -/
def Reg.ERR_REC (i : Nat) : Nat := 0x108b000010 + 0x4 * i
/-- ERR_COUNT (R457). -/
def Reg.ERR_COUNT : Nat := 0x108b000028
/-- ERR_OVF (R457). -/
def Reg.ERR_OVF : Nat := 0x108b00002c
/-- ERR_FIRST (R457). -/
def Reg.ERR_FIRST (i : Nat) : Nat := 0x108b000030 + 0x4 * i
/-- ERR_CNT_CORR (R457). -/
def Reg.ERR_CNT_CORR : Nat := 0x108b000050
/-- ERR_CNT_UNC (R457). -/
def Reg.ERR_CNT_UNC : Nat := 0x108b000054
/-- ERR_CNT_FAULT (R457). -/
def Reg.ERR_CNT_FAULT : Nat := 0x108b000058
/-- ERR_CNT_ACCESS (R457). -/
def Reg.ERR_CNT_ACCESS : Nat := 0x108b00005c
/-- ERR_AUD_SNAP (R457). -/
def Reg.ERR_AUD_SNAP : Nat := 0x108b000060
/-- ERR_AUD_STAT (R457). -/
def Reg.ERR_AUD_STAT : Nat := 0x108b000064

/-- A register, or an array of them: base address, (count, stride) of each dimension, outermost first, the bits software may write, those it clears by writing 1, those it may write until the block's lock is set (bit 31 of the register at `lock`), and the reset value (Table 0.3, R6). -/
structure RegDesc where
  base : Nat
  dims : List (Nat × Nat)
  rw : Word
  w1c : Word
  rwl : Word
  lock : Nat
  reset : Word
  deriving DecidableEq, Repr

/-- Does offset `o` name an element of an array of the given dimensions? -/
def dimsMatch : List (Nat × Nat) → Nat → Bool
  | [], o => o == 0
  | (c, st) :: ds, o => decide (o / st < c) && dimsMatch ds (o % st)

/-- Does the register, or an element of the array, stand at address `a`? -/
def RegDesc.at (r : RegDesc) (a : Nat) : Bool := decide (r.base ≤ a) && dimsMatch r.dims (a - r.base)

/-- Registers of 02_tile_programming_model. -/
def regs02TileProgramming : List RegDesc := [
  ⟨0x10400f0000, [(96, 0x100000)], 0x0, 0x0, 0x0, 0, 0x0⟩,
  ⟨0x10400f0004, [(96, 0x100000)], 0x8c01, 0x0, 0x0, 0, 0x0⟩,
  ⟨0x10400f0008, [(96, 0x100000)], 0x0, 0x0, 0x0, 0, 0x0⟩,
  ⟨0x10400f000c, [(96, 0x100000)], 0x7ff, 0x0, 0x0, 0, 0x0⟩,
  ⟨0x10400f0010, [(96, 0x100000)], 0x0, 0xffff, 0x0, 0, 0x0⟩,
  ⟨0x10400f0014, [(96, 0x100000)], 0x0, 0xffffffff, 0x0, 0, 0x0⟩,
  ⟨0x10400f0018, [(96, 0x100000)], 0x0, 0xffffffff, 0x0, 0, 0x0⟩,
  ⟨0x10400f0020, [(96, 0x100000)], 0x0, 0x0, 0x0, 0, 0x0⟩,
  ⟨0x10400f0024, [(96, 0x100000)], 0x0, 0x0, 0x0, 0, 0x0⟩,
  ⟨0x10400f0030, [(96, 0x100000)], 0x0, 0x0, 0x0, 0, 0x0⟩,
  ⟨0x10400f0034, [(96, 0x100000)], 0x0, 0x0, 0x0, 0, 0x0⟩,
  ⟨0x10400f0038, [(96, 0x100000)], 0x11f, 0x0, 0x0, 0, 0x10e⟩,
  ⟨0x10400f003c, [(96, 0x100000)], 0x0, 0x0, 0x0, 0, 0x0⟩,
  ⟨0x10400f0080, [(96, 0x100000), (2, 0x20)], 0xffffffff, 0x0, 0x0, 0, 0x0⟩,
  ⟨0x10400f0084, [(96, 0x100000), (2, 0x20)], 0xffff, 0x0, 0x0, 0, 0x0⟩,
  ⟨0x10400f0088, [(96, 0x100000), (2, 0x20)], 0x3f1fff, 0x0, 0x0, 0, 0x0⟩,
  ⟨0x10400f008c, [(96, 0x100000), (2, 0x20)], 0x7ffff, 0x0, 0x0, 0, 0x0⟩,
  ⟨0x10400f0090, [(96, 0x100000), (2, 0x20)], 0x36, 0x0, 0x0, 0, 0x20⟩,
  ⟨0x10400f0094, [(96, 0x100000), (2, 0x20)], 0x0, 0xc, 0x0, 0, 0x0⟩]

/-- Registers of 04_tile_memory_and_flow_instructions. -/
def regs04TileMemory : List RegDesc := [
  ⟨0x10400f0100, [(96, 0x100000)], 0x0, 0x80000000, 0x0, 0, 0x0⟩,
  ⟨0x10400f0104, [(96, 0x100000)], 0x0, 0x0, 0x0, 0, 0x0⟩,
  ⟨0x10400f0108, [(96, 0x100000)], 0x0, 0x0, 0x0, 0, 0x0⟩,
  ⟨0x10400f0110, [(96, 0x100000)], 0x0, 0x0, 0x0, 0, 0x0⟩,
  ⟨0x10400f0114, [(96, 0x100000)], 0x0, 0x0, 0x0, 0, 0x0⟩,
  ⟨0x10400f0118, [(96, 0x100000)], 0x0, 0x0, 0x0, 0, 0x0⟩,
  ⟨0x10400f011c, [(96, 0x100000)], 0x0, 0x0, 0x0, 0, 0x0⟩,
  ⟨0x10400f0120, [(96, 0x100000)], 0x0, 0x0, 0x0, 0, 0x0⟩,
  ⟨0x10400f0130, [(96, 0x100000)], 0x2, 0x4, 0x0, 0, 0x0⟩]

/-- Registers of 05_traverse_scheduler. -/
def regs05TraverseScheduler : List RegDesc := [
  ⟨0x1080000000, [], 0x1, 0x0, 0x0, 0, 0x0⟩,
  ⟨0x1080000004, [], 0x0, 0x0, 0x0, 0, 0x0⟩,
  ⟨0x1080000008, [], 0x1ff, 0x0, 0x0, 0, 0x4⟩,
  ⟨0x108000000c, [], 0x0, 0x0, 0x0, 0, 0x0⟩,
  ⟨0x1080000010, [], 0x0, 0x0, 0x0, 0, 0x0⟩,
  ⟨0x1080000014, [], 0xffffffff, 0x0, 0x0, 0, 0x0⟩,
  ⟨0x1080000018, [], 0xffffffff, 0x0, 0x0, 0, 0x0⟩,
  ⟨0x108000001c, [], 0x0, 0x60000000, 0x0, 0, 0x0⟩,
  ⟨0x1080000020, [(4, 0x4)], 0x0, 0x0, 0x0, 0, 0x0⟩,
  ⟨0x1080000030, [], 0x0, 0x3f, 0x0, 0, 0x0⟩,
  ⟨0x1080000034, [], 0x3f, 0x0, 0x0, 0, 0x0⟩,
  ⟨0x1080000038, [], 0x0, 0x0, 0x0, 0, 0x0⟩,
  ⟨0x1080000040, [], 0x0, 0x0, 0x0, 0, 0x0⟩,
  ⟨0x1080000044, [], 0x0, 0x0, 0x0, 0, 0x0⟩,
  ⟨0x1080000048, [], 0x0, 0x0, 0x0, 0, 0x0⟩,
  ⟨0x108000004c, [], 0x0, 0x0, 0x0, 0, 0x0⟩,
  ⟨0x1080000050, [], 0x0, 0x0, 0x0, 0, 0x0⟩,
  ⟨0x1080000054, [], 0x0, 0x0, 0x0, 0, 0x0⟩,
  ⟨0x1080000060, [], 0x0, 0x0, 0x0, 0, 0x0⟩,
  ⟨0x1080000064, [], 0x0, 0x0, 0x0, 0, 0x0⟩,
  ⟨0x1080000068, [], 0x0, 0x0, 0x0, 0, 0x0⟩,
  ⟨0x108000006c, [], 0x0, 0x0, 0x0, 0, 0x0⟩,
  ⟨0x1080000070, [], 0x0, 0x0, 0x0, 0, 0x0⟩,
  ⟨0x1080000080, [(12, 0x4)], 0x0, 0x0, 0x0, 0, 0x0⟩,
  ⟨0x10800000c0, [(12, 0x4)], 0x0, 0x0, 0x0, 0, 0x0⟩]

/-- Registers of 18_host_view_and_address_map. -/
def regs18HostView : List RegDesc := [
  ⟨0x1080001000, [(2, 0x4)], 0x0, 0xffffffff, 0x0, 0, 0x0⟩,
  ⟨0x1080001008, [(2, 0x4)], 0xffffffff, 0x0, 0x0, 0, 0x0⟩,
  ⟨0x1080001010, [(2, 0x4)], 0x0, 0x0, 0x0, 0, 0x0⟩,
  ⟨0x1080001020, [(3, 0x4)], 0x0, 0xffffffff, 0x0, 0, 0x0⟩,
  ⟨0x1080001030, [(3, 0x4)], 0x0, 0xffffffff, 0x0, 0, 0x0⟩,
  ⟨0x1080001040, [], 0x3, 0x0, 0x0, 0, 0x0⟩,
  ⟨0x1089001000, [], 0x0, 0x0, 0x80000000, 0x1089001000, 0x0⟩,
  ⟨0x1089001004, [], 0xe0, 0x0, 0x0, 0, 0x0⟩,
  ⟨0x1089001008, [], 0x0, 0x0, 0x0, 0, 0x1⟩,
  ⟨0x1089001010, [], 0xffffffff, 0x0, 0x0, 0, 0x0⟩,
  ⟨0x1089001014, [], 0xffff, 0x0, 0x0, 0, 0x0⟩,
  ⟨0x1089001020, [], 0x0, 0x0, 0xffff, 0x1089001000, 0x0⟩,
  ⟨0x1089001100, [(92, 0x4)], 0x0, 0x0, 0xffffffff, 0x1089001000, 0x0⟩]

/-- Registers of 06_jitter_queues. -/
def regs06JitterQueues : List RegDesc := [
  ⟨0x1081000000, [], 0x0, 0x0, 0x0, 0, 0x0⟩,
  ⟨0x1081000004, [], 0x0, 0x0, 0x0, 0, 0x0⟩,
  ⟨0x1081000010, [], 0x0, 0x0, 0x0, 0, 0x0⟩,
  ⟨0x1081000014, [], 0xffffffff, 0x0, 0x0, 0, 0x0⟩,
  ⟨0x1081000018, [], 0xffffffff, 0x0, 0x0, 0, 0x0⟩,
  ⟨0x108100001c, [], 0x0, 0x60000000, 0x0, 0, 0x0⟩,
  ⟨0x1081000030, [], 0x0, 0x3f, 0x0, 0, 0x0⟩,
  ⟨0x1081000034, [], 0x3f, 0x0, 0x0, 0, 0x0⟩,
  ⟨0x1081000040, [], 0x0, 0x0, 0x0, 0, 0x0⟩,
  ⟨0x1081000044, [], 0x0, 0x0, 0x0, 0, 0x0⟩,
  ⟨0x1081000050, [], 0x0, 0x0, 0x0, 0, 0x0⟩,
  ⟨0x1081000054, [], 0x0, 0x0, 0x0, 0, 0x0⟩,
  ⟨0x1081000060, [], 0x7ffff8, 0x0, 0x0, 0, 0x0⟩,
  ⟨0x1081000064, [], 0x10f, 0x0, 0x0, 0, 0x6⟩,
  ⟨0x1081000068, [], 0x0, 0x0, 0x0, 0, 0x0⟩,
  ⟨0x108100006c, [], 0x7fff, 0x0, 0x0, 0, 0x0⟩,
  ⟨0x1081000070, [], 0x0, 0x0, 0x0, 0, 0x0⟩,
  ⟨0x1081000080, [], 0xff, 0x0, 0x0, 0, 0x0⟩,
  ⟨0x10810000a0, [(8, 0x4)], 0x0, 0x0, 0x0, 0, 0x0⟩,
  ⟨0x10810000c0, [], 0x0, 0x0, 0x0, 0, 0x0⟩,
  ⟨0x10810000c4, [], 0x0, 0x0, 0x0, 0, 0x0⟩,
  ⟨0x10810000c8, [], 0x0, 0x0, 0x0, 0, 0x0⟩,
  ⟨0x10810000cc, [], 0x0, 0x0, 0x0, 0, 0x0⟩,
  ⟨0x10810000d0, [], 0x0, 0x0, 0x0, 0, 0x0⟩,
  ⟨0x10810000d4, [], 0x0, 0x0, 0x0, 0, 0x0⟩,
  ⟨0x10810000d8, [], 0x0, 0x0, 0x0, 0, 0x0⟩,
  ⟨0x10810000dc, [], 0x0, 0x0, 0x0, 0, 0x100000⟩,
  ⟨0x1081200000, [(65536, 0x20)], 0x7e0fffff, 0x0, 0x0, 0, 0x0⟩,
  ⟨0x1081200004, [(65536, 0x20)], 0xfffffe00, 0x0, 0x0, 0, 0x0⟩,
  ⟨0x1081200008, [(65536, 0x20)], 0xc003ffff, 0x0, 0x0, 0, 0x0⟩,
  ⟨0x108120000c, [(65536, 0x20)], 0x0, 0x0, 0x0, 0, 0x0⟩,
  ⟨0x1081200010, [(65536, 0x20)], 0x0, 0x0, 0x0, 0, 0x0⟩,
  ⟨0x1081200014, [(65536, 0x20)], 0x0, 0x0, 0x0, 0, 0x0⟩,
  ⟨0x1081200018, [(65536, 0x20)], 0x0, 0x0, 0x0, 0, 0x0⟩,
  ⟨0x108120001c, [(65536, 0x20)], 0x0, 0x0, 0x0, 0, 0x0⟩]

/-- Registers of 07_sample_rate_engines. -/
def regs07SampleRate : List RegDesc := [
  ⟨0x1082000000, [], 0xf, 0x0, 0x0, 0, 0x0⟩,
  ⟨0x1082000004, [], 0x0, 0x0, 0x0, 0, 0x0⟩,
  ⟨0x1082000010, [], 0x0, 0x0, 0x0, 0, 0x0⟩,
  ⟨0x1082000014, [], 0xffffffff, 0x0, 0x0, 0, 0x0⟩,
  ⟨0x1082000018, [], 0xffff, 0x0, 0x0, 0, 0x0⟩,
  ⟨0x108200001c, [], 0x0, 0x60000000, 0x0, 0, 0x0⟩,
  ⟨0x1082000030, [], 0x0, 0x3f, 0x0, 0, 0x0⟩,
  ⟨0x1082000034, [], 0x3f, 0x0, 0x0, 0, 0x0⟩,
  ⟨0x1082000040, [], 0x0, 0x0, 0x0, 0, 0x0⟩,
  ⟨0x1082000044, [], 0x0, 0x0, 0x0, 0, 0x0⟩,
  ⟨0x1082000048, [], 0x0, 0x0, 0x0, 0, 0x0⟩,
  ⟨0x108200004c, [], 0x0, 0x0, 0x0, 0, 0x0⟩,
  ⟨0x1082000050, [], 0x0, 0x0, 0x0, 0, 0x0⟩,
  ⟨0x1082000060, [(4, 0x4)], 0x0, 0x0, 0x0, 0, 0x0⟩,
  ⟨0x1082000100, [(16, 0x10)], 0x13ff, 0x0, 0x0, 0, 0x4⟩,
  ⟨0x1082000104, [(16, 0x10)], 0x7fffc0, 0x0, 0x0, 0, 0x0⟩,
  ⟨0x1082000108, [(16, 0x10)], 0x0, 0x0, 0x0, 0, 0x0⟩,
  ⟨0x108200010c, [(16, 0x10)], 0x0, 0x0, 0x0, 0, 0x0⟩]

/-- Registers of 09_billet_and_deflate_engines. -/
def regs09BilletAnd : List RegDesc := [
  ⟨0x1083000000, [], 0x1, 0x0, 0x0, 0, 0x0⟩,
  ⟨0x1083000004, [], 0x0, 0x0, 0x0, 0, 0x0⟩,
  ⟨0x1083000030, [], 0x0, 0xf, 0x0, 0, 0x0⟩,
  ⟨0x1083000034, [], 0xf, 0x0, 0x0, 0, 0x0⟩,
  ⟨0x1083000040, [], 0x0, 0x0, 0x0, 0, 0x0⟩,
  ⟨0x1083000044, [], 0x0, 0x0, 0x0, 0, 0x0⟩,
  ⟨0x1083000048, [], 0x0, 0x0, 0x0, 0, 0x0⟩,
  ⟨0x108300004c, [], 0x0, 0x0, 0x0, 0, 0x0⟩,
  ⟨0x1083000050, [], 0x0, 0x0, 0x0, 0, 0x0⟩,
  ⟨0x1083000100, [(16, 0x10)], 0x10cf, 0x0, 0x0, 0, 0x4⟩,
  ⟨0x1083000104, [(16, 0x10)], 0x7fffc0, 0x0, 0x0, 0, 0x0⟩,
  ⟨0x1083000108, [(16, 0x10)], 0x0, 0x0, 0x0, 0, 0x0⟩,
  ⟨0x108300010c, [(16, 0x10)], 0x0, 0x0, 0x0, 0, 0x0⟩,
  ⟨0x1083001000, [], 0x1, 0x0, 0x0, 0, 0x0⟩,
  ⟨0x1083001004, [], 0x0, 0x0, 0x0, 0, 0x0⟩,
  ⟨0x1083001030, [], 0x0, 0x7, 0x0, 0, 0x0⟩,
  ⟨0x1083001034, [], 0x7, 0x0, 0x0, 0, 0x0⟩,
  ⟨0x1083001040, [], 0x0, 0x0, 0x0, 0, 0x0⟩,
  ⟨0x1083001044, [], 0x0, 0x0, 0x0, 0, 0x0⟩,
  ⟨0x1083001048, [], 0x0, 0x0, 0x0, 0, 0x0⟩,
  ⟨0x1083001100, [(4, 0x10)], 0x10cf, 0x0, 0x0, 0, 0x4⟩,
  ⟨0x1083001104, [(4, 0x10)], 0x7fffc0, 0x0, 0x0, 0, 0x0⟩,
  ⟨0x1083001108, [(4, 0x10)], 0x0, 0x0, 0x0, 0, 0x0⟩,
  ⟨0x108300110c, [(4, 0x10)], 0x0, 0x0, 0x0, 0, 0x0⟩]

/-- Registers of 10_dram_controller. -/
def regs10DramController : List RegDesc := [
  ⟨0x1084000000, [], 0x0, 0x0, 0x80000001, 0x1084000000, 0x0⟩,
  ⟨0x1084000004, [], 0x0, 0x0, 0x0, 0, 0x0⟩,
  ⟨0x1084000008, [], 0x0, 0x0, 0x1d, 0x1084000000, 0x0⟩,
  ⟨0x108400000c, [], 0x0, 0x0, 0x0, 0, 0x0⟩,
  ⟨0x1084000010, [(2, 0x4)], 0x0, 0x0, 0x7ffffff, 0x1084000000, 0x0⟩,
  ⟨0x1084000020, [(4, 0x4)], 0x0, 0x0, 0x3ffff, 0x1084000000, 0x0⟩,
  ⟨0x1084000030, [], 0x0, 0x7f, 0x0, 0, 0x0⟩,
  ⟨0x1084000034, [], 0x7f, 0x0, 0x0, 0, 0x0⟩,
  ⟨0x1084000040, [], 0x3fffffff, 0x0, 0x0, 0, 0x1f419014⟩,
  ⟨0x1084000044, [], 0xff00ff, 0x0, 0x0, 0, 0x400010⟩,
  ⟨0x1084000048, [], 0x0, 0x0, 0x10f, 0x1084000000, 0x10a⟩,
  ⟨0x108400004c, [], 0x0, 0x0, 0x8000ffff, 0x1084000000, 0x80000064⟩,
  ⟨0x1084000050, [], 0x30, 0x200, 0x0, 0, 0x33⟩,
  ⟨0x1084000054, [], 0x10fff, 0x0, 0x0, 0, 0x10010⟩,
  ⟨0x1084000058, [], 0x0, 0x0, 0x0, 0, 0x0⟩,
  ⟨0x1084000060, [], 0x0, 0x0, 0x0, 0, 0x0⟩,
  ⟨0x1084000064, [], 0x0, 0x0, 0x0, 0, 0x0⟩,
  ⟨0x1084000068, [], 0x0, 0x0, 0x0, 0, 0x0⟩,
  ⟨0x108400006c, [], 0x0, 0x0, 0x0, 0, 0x0⟩,
  ⟨0x1084000070, [], 0x0, 0x0, 0x0, 0, 0x0⟩,
  ⟨0x1084000074, [], 0x0, 0x0, 0x0, 0, 0x0⟩,
  ⟨0x1084000078, [], 0x0, 0x0, 0x0, 0, 0x0⟩,
  ⟨0x1084000080, [], 0x0, 0x0, 0x0, 0, 0x0⟩,
  ⟨0x1084000084, [], 0x0, 0x0, 0x0, 0, 0x0⟩,
  ⟨0x1084000088, [], 0x0, 0x0, 0x0, 0, 0x0⟩,
  ⟨0x1084000090, [(2, 0x4)], 0x0, 0x0, 0x0, 0, 0x0⟩,
  ⟨0x10840000a0, [], 0x0, 0x0, 0x0, 0, 0x0⟩,
  ⟨0x1084000100, [(16, 0x4)], 0x30003ff, 0x0, 0x0, 0, 0x0⟩,
  ⟨0x1084000140, [(16, 0x4)], 0x0, 0x0, 0x0, 0, 0x0⟩,
  ⟨0x1084000200, [(2, 0x10), (4, 0x4)], 0xffffffff, 0x0, 0x0, 0, 0x0⟩]

/-- Registers of 11_cipher_engine. -/
def regs11CipherEngine : List RegDesc := [
  ⟨0x1085000000, [(64, 0x10000)], 0x0, 0x0, 0x0, 0, 0x0⟩,
  ⟨0x1085000004, [(64, 0x10000)], 0x0, 0x0, 0x0, 0, 0x0⟩,
  ⟨0x1085000008, [(64, 0x10000)], 0x0, 0x0, 0x0, 0, 0x0⟩,
  ⟨0x1085000010, [(64, 0x10000)], 0x0, 0x0, 0x0, 0, 0x0⟩,
  ⟨0x1085000014, [(64, 0x10000)], 0xffffffff, 0x0, 0x0, 0, 0x0⟩,
  ⟨0x1085000018, [(64, 0x10000)], 0xffff, 0x0, 0x0, 0, 0x0⟩,
  ⟨0x108500001c, [(64, 0x10000)], 0xff, 0x0, 0x0, 0, 0x0⟩,
  ⟨0x1085000020, [(64, 0x10000)], 0x0, 0x60000000, 0x0, 0, 0x0⟩,
  ⟨0x1085000030, [(64, 0x10000)], 0x0, 0x1f, 0x0, 0, 0x0⟩,
  ⟨0x1085000034, [(64, 0x10000)], 0x1f, 0x0, 0x0, 0, 0x0⟩,
  ⟨0x1085000040, [(64, 0x10000)], 0x0, 0x0, 0x0, 0, 0x0⟩,
  ⟨0x1085000044, [(64, 0x10000)], 0x0, 0x0, 0x0, 0, 0x0⟩,
  ⟨0x1085000048, [(64, 0x10000)], 0x0, 0x0, 0x0, 0, 0x0⟩,
  ⟨0x108500004c, [(64, 0x10000)], 0x0, 0x0, 0x0, 0, 0x0⟩,
  ⟨0x1085000050, [(64, 0x10000)], 0x0, 0x0, 0x0, 0, 0x0⟩,
  ⟨0x1085000100, [(64, 0x10000)], 0x13cf, 0x0, 0x0, 0, 0x4⟩,
  ⟨0x1085000104, [(64, 0x10000)], 0x7fffc0, 0x0, 0x0, 0, 0x0⟩,
  ⟨0x1085000108, [(64, 0x10000)], 0x0, 0x0, 0x0, 0, 0x0⟩,
  ⟨0x108500010c, [(64, 0x10000)], 0x0, 0x0, 0x0, 0, 0x0⟩,
  ⟨0x1085008000, [], 0x171, 0x0, 0x0, 0, 0x140⟩,
  ⟨0x1085008004, [], 0x0, 0x0, 0x0, 0, 0x0⟩,
  ⟨0x1085008008, [], 0x3ff, 0x0, 0x0, 0, 0x14⟩,
  ⟨0x108500800c, [], 0x0, 0x80000000, 0x0, 0, 0x0⟩,
  ⟨0x1085008010, [(2, 0x4)], 0x0, 0x0, 0x0, 0, 0x0⟩,
  ⟨0x1085008018, [], 0x0, 0x0, 0x0, 0, 0x0⟩,
  ⟨0x1085008020, [], 0x0, 0x0, 0x0, 0, 0x0⟩,
  ⟨0x1085008024, [], 0x0, 0x0, 0x0, 0, 0x0⟩,
  ⟨0x1085008100, [(64, 0x4)], 0x1fff0fff, 0x0, 0x0, 0, 0x0⟩]

/-- Registers of 12_ethernet_ports_and_packet_path. -/
def regs12EthernetPorts : List RegDesc := [
  ⟨0x1086000000, [], 0x0, 0x0, 0x80000001, 0x1086000000, 0x0⟩,
  ⟨0x1086000004, [], 0x0, 0x0, 0x0, 0, 0x0⟩,
  ⟨0x1086000008, [], 0x1ff, 0x0, 0x0, 0, 0x0⟩,
  ⟨0x1086000010, [], 0x0, 0x0, 0xffffffff, 0x1086000000, 0x0⟩,
  ⟨0x1086000014, [], 0x0, 0x0, 0xffff, 0x1086000000, 0x0⟩,
  ⟨0x1086000018, [], 0x0, 0x0, 0xc0ffffff, 0x1086000000, 0x0⟩,
  ⟨0x108600001c, [], 0x0, 0x0, 0xffffffff, 0x1086000000, 0x0⟩,
  ⟨0x1086000020, [], 0x0, 0x0, 0xffff, 0x1086000000, 0x0⟩,
  ⟨0x1086000028, [], 0x0, 0x0, 0xffffffff, 0x1086000000, 0x0⟩,
  ⟨0x108600002c, [], 0x0, 0x0, 0xffff, 0x1086000000, 0x0⟩,
  ⟨0x1086000030, [], 0x0, 0x0, 0x1ffff, 0x1086000000, 0x0⟩,
  ⟨0x1086000038, [], 0x0, 0x7, 0x0, 0, 0x0⟩,
  ⟨0x108600003c, [], 0x7, 0x0, 0x0, 0, 0x0⟩,
  ⟨0x1086000040, [], 0x0, 0x0, 0x0, 0, 0x0⟩,
  ⟨0x1086000044, [], 0xffffffff, 0x0, 0x0, 0, 0x0⟩,
  ⟨0x1086000048, [], 0xffffffff, 0x0, 0x0, 0, 0x0⟩,
  ⟨0x108600004c, [], 0x0, 0x60000000, 0x0, 0, 0x0⟩,
  ⟨0x1086000050, [], 0x3ff03ff, 0x0, 0x0, 0, 0x6401f4⟩,
  ⟨0x1086000060, [], 0x0, 0x0, 0x0, 0, 0x0⟩,
  ⟨0x1086000064, [], 0x0, 0x0, 0x0, 0, 0x0⟩,
  ⟨0x1086000068, [], 0x0, 0x0, 0x0, 0, 0x0⟩,
  ⟨0x108600006c, [], 0x0, 0x0, 0x0, 0, 0x0⟩,
  ⟨0x1086000070, [], 0x0, 0x0, 0x0, 0, 0x0⟩,
  ⟨0x1086000074, [], 0x0, 0x0, 0x0, 0, 0x0⟩,
  ⟨0x1086000078, [], 0x0, 0x0, 0x0, 0, 0x0⟩,
  ⟨0x108600007c, [], 0x0, 0x0, 0x0, 0, 0x0⟩,
  ⟨0x1086000080, [], 0x0, 0x0, 0x0, 0, 0x0⟩,
  ⟨0x10860000c0, [], 0x0, 0x0, 0x0, 0, 0x0⟩,
  ⟨0x10860000c4, [], 0x0, 0x0, 0x0, 0, 0x0⟩,
  ⟨0x10860000c8, [], 0x0, 0x0, 0x0, 0, 0x0⟩,
  ⟨0x10860000cc, [], 0x0, 0x0, 0x0, 0, 0x0⟩,
  ⟨0x10860000d0, [], 0x0, 0x0, 0x0, 0, 0x0⟩,
  ⟨0x10860000d4, [], 0x0, 0x0, 0x0, 0, 0x0⟩,
  ⟨0x1086000100, [], 0x3ff, 0x0, 0x0, 0, 0x0⟩,
  ⟨0x1086000104, [], 0xffffffff, 0x0, 0x0, 0, 0x0⟩,
  ⟨0x1086000108, [], 0xfffffff, 0x0, 0x0, 0, 0x0⟩,
  ⟨0x108600010c, [], 0x8000000f, 0x0, 0x0, 0, 0x0⟩,
  ⟨0x1086000200, [(16, 0x20)], 0xc0000000, 0x0, 0x0, 0, 0x0⟩,
  ⟨0x1086000204, [(16, 0x20)], 0xffffffff, 0x0, 0x0, 0, 0x0⟩,
  ⟨0x1086000208, [(16, 0x20)], 0xffffffff, 0x0, 0x0, 0, 0x0⟩,
  ⟨0x108600020c, [(16, 0x20)], 0xffffffff, 0x0, 0x0, 0, 0x0⟩,
  ⟨0x1086000210, [(16, 0x20)], 0xffffffff, 0x0, 0x0, 0, 0x0⟩,
  ⟨0x1086000214, [(16, 0x20)], 0xffffffff, 0x0, 0x0, 0, 0x0⟩,
  ⟨0x1086000218, [(16, 0x20)], 0x1ffff, 0x0, 0x0, 0, 0x0⟩,
  ⟨0x108600021c, [(16, 0x20)], 0x0, 0x0, 0x0, 0, 0x0⟩,
  ⟨0x1086000400, [(4, 0x10)], 0x100f, 0x0, 0x0, 0, 0x4⟩,
  ⟨0x1086000404, [(4, 0x10)], 0x7fffc0, 0x0, 0x0, 0, 0x0⟩,
  ⟨0x1086000408, [(4, 0x10)], 0x0, 0x0, 0x0, 0, 0x0⟩,
  ⟨0x108600040c, [(4, 0x10)], 0x0, 0x0, 0x0, 0, 0x0⟩,
  ⟨0x1086001000, [(16, 0x1000)], 0xff1f, 0x0, 0x0, 0, 0x8⟩,
  ⟨0x1086001004, [(16, 0x1000)], 0x0, 0x0, 0x0, 0, 0x0⟩,
  ⟨0x1086001008, [(16, 0x1000)], 0xff, 0x0, 0x0, 0, 0x3f⟩,
  ⟨0x108600100c, [(16, 0x1000)], 0xffffffff, 0x0, 0x0, 0, 0x0⟩,
  ⟨0x1086001010, [(16, 0x1000)], 0xffff, 0x0, 0x0, 0, 0x0⟩,
  ⟨0x1086001020, [(16, 0x1000), (8, 0x4)], 0x3, 0x0, 0x0, 0, 0x0⟩,
  ⟨0x1086001040, [(16, 0x1000)], 0x0, 0x0, 0x0, 0, 0x0⟩,
  ⟨0x1086001044, [(16, 0x1000)], 0x0, 0x0, 0x0, 0, 0x0⟩,
  ⟨0x1086001048, [(16, 0x1000)], 0x0, 0x0, 0x0, 0, 0x0⟩,
  ⟨0x108600104c, [(16, 0x1000)], 0x0, 0x0, 0x0, 0, 0x0⟩,
  ⟨0x1086001050, [(16, 0x1000)], 0x0, 0x0, 0x0, 0, 0x0⟩]

/-- Registers of 12_ethernet_ports_and_packet_path. -/
def regs12EthernetPortsB : List RegDesc := [
  ⟨0x1086001054, [(16, 0x1000)], 0x0, 0x0, 0x0, 0, 0x0⟩,
  ⟨0x1086001058, [(16, 0x1000)], 0x0, 0x0, 0x0, 0, 0x0⟩,
  ⟨0x108600105c, [(16, 0x1000)], 0x0, 0x0, 0x0, 0, 0x0⟩,
  ⟨0x1086001060, [(16, 0x1000)], 0x0, 0x0, 0x0, 0, 0x0⟩,
  ⟨0x1086001064, [(16, 0x1000)], 0x0, 0x0, 0x0, 0, 0x0⟩,
  ⟨0x1086011000, [(16, 0x1000)], 0xffffffff, 0x0, 0x0, 0, 0x0⟩,
  ⟨0x1086011004, [(16, 0x1000)], 0xffff, 0x0, 0x0, 0, 0x0⟩,
  ⟨0x1086011008, [(16, 0x1000)], 0x10f, 0x0, 0x0, 0, 0x6⟩,
  ⟨0x108601100c, [(16, 0x1000)], 0x0, 0x0, 0x0, 0, 0x0⟩,
  ⟨0x1086011010, [(16, 0x1000)], 0xffff, 0x0, 0x0, 0, 0x0⟩,
  ⟨0x1086011014, [(16, 0x1000)], 0x0, 0x0, 0x0, 0, 0x0⟩,
  ⟨0x1086021000, [(16, 0x1000)], 0x13cf, 0x0, 0x0, 0, 0x4⟩,
  ⟨0x1086021004, [(16, 0x1000)], 0x7fffc0, 0x0, 0x0, 0, 0x0⟩,
  ⟨0x1086021008, [(16, 0x1000)], 0x0, 0x0, 0x0, 0, 0x0⟩,
  ⟨0x108602100c, [(16, 0x1000)], 0x0, 0x0, 0x0, 0, 0x0⟩,
  ⟨0x1086021010, [(16, 0x1000)], 0x0, 0x0, 0x0, 0, 0x0⟩,
  ⟨0x1086021014, [(16, 0x1000)], 0x0, 0x0, 0x0, 0, 0x0⟩,
  ⟨0x1086031000, [], 0x3ff, 0x0, 0x0, 0, 0x0⟩,
  ⟨0x1086031004, [], 0x0, 0x80000000, 0x0, 0, 0x0⟩,
  ⟨0x1086031100, [(8, 0x100), (36, 0x4)], 0xffffffff, 0x0, 0x0, 0, 0x0⟩]

/-- Registers of 13_datum_network_time. -/
def regs13DatumNetwork : List RegDesc := [
  ⟨0x1087000004, [], 0x0, 0x0, 0x0, 0, 0x0⟩,
  ⟨0x1087000008, [], 0x0, 0xff, 0x0, 0, 0x0⟩,
  ⟨0x108700000c, [], 0xff, 0x0, 0x0, 0, 0x0⟩,
  ⟨0x1087000010, [], 0x0, 0x0, 0x0, 0, 0x0⟩,
  ⟨0x1087000014, [], 0x0, 0x0, 0x0, 0, 0x0⟩,
  ⟨0x1087000018, [], 0x0, 0x0, 0x0, 0, 0x0⟩,
  ⟨0x108700001c, [], 0x0, 0x0, 0x0, 0, 0x0⟩,
  ⟨0x1087000020, [], 0x0, 0x0, 0x0, 0, 0x0⟩,
  ⟨0x1087000024, [], 0x0, 0x0, 0x0, 0, 0x0⟩,
  ⟨0x1087000028, [], 0x0, 0x0, 0x0, 0, 0x0⟩,
  ⟨0x108700002c, [], 0x0, 0x0, 0x0, 0, 0x0⟩,
  ⟨0x1087000030, [], 0xffffffff, 0x0, 0x0, 0, 0x0⟩,
  ⟨0x1087000034, [], 0xffffffff, 0x0, 0x0, 0, 0x0⟩,
  ⟨0x1087000038, [], 0xffff, 0x0, 0x0, 0, 0x2710⟩,
  ⟨0x1087000040, [], 0xffffffff, 0x0, 0x0, 0, 0x0⟩,
  ⟨0x1087000044, [], 0xffffffff, 0x0, 0x0, 0, 0x0⟩,
  ⟨0x1087000048, [], 0xffff, 0x0, 0x0, 0, 0x0⟩,
  ⟨0x108700004c, [], 0x0, 0x0, 0x0, 0, 0x0⟩,
  ⟨0x1087000050, [], 0xffffffff, 0x0, 0x0, 0, 0x3e8⟩,
  ⟨0x1087000054, [], 0x0, 0x0, 0x0, 0, 0x0⟩,
  ⟨0x1087000058, [], 0x0, 0x0, 0x0, 0, 0x0⟩,
  ⟨0x1087000060, [], 0xff7, 0x0, 0x0, 0, 0x620⟩,
  ⟨0x1087000064, [], 0xffffffff, 0x0, 0x0, 0, 0x3e8⟩,
  ⟨0x1087000068, [], 0xffffffff, 0x0, 0x0, 0, 0x1e0064⟩,
  ⟨0x108700006c, [], 0xffffffff, 0x0, 0x0, 0, 0x68db8bb⟩,
  ⟨0x1087000070, [], 0x0, 0x0, 0x0, 0, 0x0⟩,
  ⟨0x1087000074, [], 0x0, 0x0, 0x0, 0, 0x0⟩,
  ⟨0x1087000078, [], 0x0, 0x0, 0x0, 0, 0x0⟩,
  ⟨0x108700007c, [], 0x0, 0x0, 0x0, 0, 0x0⟩,
  ⟨0x1087000080, [], 0x0, 0x0, 0x0, 0, 0x0⟩,
  ⟨0x1087000084, [], 0x0, 0x0, 0x0, 0, 0x0⟩,
  ⟨0x1087000088, [], 0x0, 0x0, 0x0, 0, 0x0⟩,
  ⟨0x108700008c, [], 0x0, 0x0, 0x0, 0, 0x0⟩,
  ⟨0x1087000090, [], 0x3b, 0x0, 0x0, 0, 0x39⟩,
  ⟨0x1087000094, [], 0x0, 0x0, 0x0, 0, 0x0⟩,
  ⟨0x10870000a0, [], 0xff1, 0x0, 0x0, 0, 0x400⟩,
  ⟨0x10870000a4, [], 0x0, 0x0, 0x0, 0, 0x0⟩,
  ⟨0x10870000b0, [], 0xfffff1, 0x8, 0x0, 0, 0x186a00⟩,
  ⟨0x1087000100, [(4, 0x20)], 0xfffff003, 0x8, 0x0, 0, 0x100000⟩,
  ⟨0x1087000104, [(4, 0x20)], 0x3fffffff, 0x0, 0x0, 0, 0x0⟩,
  ⟨0x1087000108, [(4, 0x20)], 0xffffffff, 0x0, 0x0, 0, 0x0⟩,
  ⟨0x108700010c, [(4, 0x20)], 0xffff, 0x0, 0x0, 0, 0x0⟩,
  ⟨0x1087000110, [(4, 0x20)], 0xffffffff, 0x0, 0x0, 0, 0x3b9aca00⟩,
  ⟨0x1087000114, [(4, 0x20)], 0xffffffff, 0x0, 0x0, 0, 0x8⟩,
  ⟨0x1087000200, [(5, 0x20)], 0xffff0007, 0x0, 0x0, 0, 0x0⟩,
  ⟨0x1087000204, [(5, 0x20)], 0x0, 0x0, 0x0, 0, 0x0⟩,
  ⟨0x1087000208, [(5, 0x20)], 0x0, 0x0, 0x0, 0, 0x0⟩,
  ⟨0x108700020c, [(5, 0x20)], 0x0, 0x0, 0x0, 0, 0x0⟩,
  ⟨0x1087000210, [(5, 0x20)], 0x0, 0x0, 0x0, 0, 0x0⟩,
  ⟨0x1087000214, [(5, 0x20)], 0x0, 0x0, 0x0, 0, 0x0⟩,
  ⟨0x1087000300, [(16, 0x4)], 0x1ffff, 0x0, 0x0, 0, 0x0⟩,
  ⟨0x1087000380, [], 0xf7f, 0x0, 0x0, 0, 0xa40⟩,
  ⟨0x1087000384, [], 0xffff, 0x0, 0x0, 0, 0x0⟩,
  ⟨0x1087000388, [(4, 0x4)], 0xffffffff, 0x0, 0x0, 0, 0x0⟩,
  ⟨0x1087000398, [], 0xffffffff, 0x0, 0x0, 0, 0x0⟩,
  ⟨0x108700039c, [], 0x0, 0x0, 0x0, 0, 0x0⟩,
  ⟨0x10870003a0, [], 0x0, 0x0, 0x0, 0, 0x0⟩,
  ⟨0x10870003a4, [], 0x8f3fffff, 0x0, 0x0, 0, 0x60802ac⟩,
  ⟨0x10870003a8, [], 0x0, 0x0, 0x0, 0, 0x0⟩,
  ⟨0x10870003ac, [], 0x0, 0x0, 0x0, 0, 0x0⟩]

/-- Registers of 13_datum_network_time. -/
def regs13DatumNetworkB : List RegDesc := [
  ⟨0x1087000400, [(16, 0x40), (5, 0x8)], 0xffffffff, 0x0, 0x0, 0, 0x0⟩,
  ⟨0x1087000404, [(16, 0x40), (5, 0x8)], 0xffffffff, 0x0, 0x0, 0, 0x0⟩,
  ⟨0x1087000800, [(32, 0x8)], 0x0, 0x0, 0x0, 0, 0x0⟩,
  ⟨0x1087000804, [(32, 0x8)], 0x0, 0x0, 0x0, 0, 0x0⟩]

/-- Registers of 14_fabric_and_call_migration. -/
def regs14FabricAnd : List RegDesc := [
  ⟨0x1088000000, [], 0x1, 0x0, 0x8000001c, 0x1088000000, 0x0⟩,
  ⟨0x1088000004, [], 0x0, 0x0, 0x0, 0, 0x0⟩,
  ⟨0x1088000008, [], 0x0, 0x0, 0x3fff, 0x1088000000, 0x0⟩,
  ⟨0x108800000c, [], 0x80003fff, 0x0, 0x0, 0, 0x0⟩,
  ⟨0x1088000010, [], 0x0, 0x0, 0x0, 0, 0x0⟩,
  ⟨0x1088000014, [], 0x0, 0x0, 0x0, 0, 0x0⟩,
  ⟨0x1088000018, [], 0x0, 0x0, 0x0, 0, 0x0⟩,
  ⟨0x1088000020, [], 0x7fff, 0x0, 0x0, 0, 0x7f06⟩,
  ⟨0x1088000024, [], 0x3fffffff, 0x0, 0x0, 0, 0x4020040⟩,
  ⟨0x1088000028, [], 0x0, 0x0, 0x1fff, 0x1088000000, 0x400⟩,
  ⟨0x108800002c, [], 0xfff, 0x0, 0x0, 0, 0x977⟩,
  ⟨0x1088000030, [], 0xffffffff, 0x0, 0x0, 0, 0x20a023f⟩,
  ⟨0x1088000034, [], 0xffff, 0x0, 0x0, 0, 0x0⟩,
  ⟨0x1088000038, [], 0xf, 0x0, 0x0, 0, 0x0⟩,
  ⟨0x108800003c, [], 0x0, 0x0, 0x0, 0, 0x0⟩,
  ⟨0x1088000040, [], 0x0, 0x1ff, 0x0, 0, 0x0⟩,
  ⟨0x1088000044, [], 0x1ff, 0x0, 0x0, 0, 0x0⟩,
  ⟨0x1088000050, [(8, 0x4)], 0x0, 0x0, 0x0, 0, 0x0⟩,
  ⟨0x1088000070, [], 0x0, 0x0, 0x0, 0, 0x0⟩,
  ⟨0x1088000074, [], 0x0, 0x0, 0x0, 0, 0x0⟩,
  ⟨0x1088000078, [], 0x0, 0x0, 0x0, 0, 0x0⟩,
  ⟨0x108800007c, [], 0x0, 0x0, 0x0, 0, 0x0⟩,
  ⟨0x1088000080, [], 0x0, 0x0, 0x0, 0, 0x0⟩,
  ⟨0x1088000084, [(4, 0x4)], 0xffffffff, 0x0, 0x0, 0, 0x0⟩,
  ⟨0x1088000094, [], 0x0, 0x60000000, 0x0, 0, 0x0⟩,
  ⟨0x1088000098, [], 0x0, 0x0, 0x0, 0, 0x0⟩,
  ⟨0x108800009c, [], 0x0, 0x0, 0x0, 0, 0x0⟩,
  ⟨0x10880000a0, [], 0x13cf, 0x0, 0x0, 0, 0x4⟩,
  ⟨0x10880000a4, [], 0x7fffc0, 0x0, 0x0, 0, 0x0⟩,
  ⟨0x10880000a8, [], 0x0, 0x0, 0x0, 0, 0x0⟩,
  ⟨0x10880000ac, [], 0x0, 0x0, 0x0, 0, 0x0⟩,
  ⟨0x10880000c0, [], 0x0, 0x0, 0x0, 0, 0x0⟩,
  ⟨0x10880000c4, [], 0x0, 0x0, 0x0, 0, 0x0⟩,
  ⟨0x10880000c8, [], 0x0, 0x0, 0x0, 0, 0x0⟩,
  ⟨0x10880000cc, [], 0x0, 0x0, 0x0, 0, 0x0⟩,
  ⟨0x10880000d0, [], 0x0, 0x0, 0x0, 0, 0x0⟩,
  ⟨0x10880000d4, [], 0x0, 0x0, 0x0, 0, 0x0⟩,
  ⟨0x10880000d8, [], 0x0, 0x0, 0x0, 0, 0x0⟩,
  ⟨0x1088000400, [(64, 0x20), (8, 0x4)], 0x0, 0x0, 0x0, 0, 0x0⟩,
  ⟨0x1088000c00, [(16, 0x40)], 0xfc003fff, 0x0, 0x0, 0, 0x0⟩,
  ⟨0x1088000c04, [(16, 0x40)], 0xffffffff, 0x0, 0x0, 0, 0x0⟩,
  ⟨0x1088000c08, [(16, 0x40)], 0xffff, 0x0, 0x0, 0, 0x0⟩,
  ⟨0x1088000c0c, [(16, 0x40)], 0xffffffff, 0x0, 0x0, 0, 0x0⟩,
  ⟨0x1088000c10, [(16, 0x40)], 0x0, 0x0, 0x0, 0, 0x0⟩,
  ⟨0x1088000c14, [(16, 0x40)], 0x0, 0x0, 0x0, 0, 0x0⟩,
  ⟨0x1088000c18, [(16, 0x40)], 0x0, 0x0, 0x0, 0, 0x0⟩,
  ⟨0x1088000c1c, [(16, 0x40)], 0x0, 0x0, 0x0, 0, 0x0⟩,
  ⟨0x1088000c20, [(16, 0x40)], 0x0, 0x0, 0x0, 0, 0x0⟩,
  ⟨0x1088000c24, [(16, 0x40)], 0x0, 0x0, 0x0, 0, 0x0⟩]

/-- Registers of 15_benchmark_management. -/
def regs15BenchmarkManagement : List RegDesc := [
  ⟨0x1089000000, [], 0x0, 0x0, 0x0, 0, 0x0⟩,
  ⟨0x1089000004, [(4, 0x4)], 0xffffffff, 0x0, 0x0, 0, 0x0⟩,
  ⟨0x1089000014, [], 0x0, 0x60000000, 0x0, 0, 0x0⟩,
  ⟨0x1089000018, [(4, 0x4)], 0x0, 0x0, 0x0, 0, 0x0⟩,
  ⟨0x1089000028, [], 0xffffffff, 0x0, 0x0, 0, 0x0⟩,
  ⟨0x108900002c, [], 0xffff, 0x0, 0x0, 0, 0x0⟩,
  ⟨0x1089000030, [], 0x0, 0x1f, 0x0, 0, 0x0⟩,
  ⟨0x1089000034, [], 0x1f, 0x0, 0x0, 0, 0x0⟩,
  ⟨0x1089000040, [], 0x0, 0x0, 0x0, 0, 0x0⟩,
  ⟨0x1089000044, [], 0x0, 0x0, 0x0, 0, 0x0⟩,
  ⟨0x1089000050, [], 0x0, 0x0, 0x0, 0, 0x0⟩,
  ⟨0x1089000054, [], 0xff, 0x0, 0x0, 0, 0x1e⟩,
  ⟨0x1089000058, [], 0xfffff000, 0x0, 0x0, 0, 0x0⟩,
  ⟨0x1089000060, [], 0x0, 0x0, 0x0, 0, 0x0⟩,
  ⟨0x1089000064, [], 0x0, 0x0, 0x0, 0, 0x0⟩,
  ⟨0x1089000100, [(40, 0x4)], 0x0, 0x0, 0x0, 0, 0x0⟩,
  ⟨0x1089000200, [(40, 0x4)], 0xffffffff, 0x0, 0x0, 0, 0x0⟩]

/-- Registers of 16_modes_clocks_reset. -/
def regs16ModesClocks : List RegDesc := [
  ⟨0x108a000000, [], 0x0, 0x0, 0x0, 0, 0x2⟩,
  ⟨0x108a000004, [], 0x0, 0x80, 0x0, 0, 0x0⟩,
  ⟨0x108a000008, [], 0x0, 0x7, 0x0, 0, 0x0⟩,
  ⟨0x108a00000c, [], 0x7, 0x0, 0x0, 0, 0x0⟩,
  ⟨0x108a000010, [], 0x0, 0x0, 0x0, 0, 0x0⟩,
  ⟨0x108a000014, [], 0x0, 0x7f, 0x0, 0, 0x1⟩,
  ⟨0x108a000018, [], 0x3, 0x0, 0x0, 0, 0x0⟩,
  ⟨0x108a000040, [(4, 0x4)], 0xffffffff, 0x0, 0x0, 0, 0x0⟩,
  ⟨0x108a000050, [(4, 0x4)], 0x0, 0x0, 0x0, 0, 0x0⟩,
  ⟨0x108a000060, [(2, 0x4)], 0xffffffff, 0x0, 0x0, 0, 0x0⟩,
  ⟨0x108a000068, [(2, 0x4)], 0x0, 0x0, 0x0, 0, 0x0⟩,
  ⟨0x108a000080, [], 0x0, 0xe, 0x0, 0, 0x0⟩]

/-- Registers of 17_errors_and_conservation. -/
def regs17ErrorsAnd : List RegDesc := [
  ⟨0x108b000000, [], 0x0, 0x0, 0x0, 0, 0x0⟩,
  ⟨0x108b000008, [], 0x0, 0xf, 0x0, 0, 0x0⟩,
  ⟨0x108b00000c, [], 0xf, 0x0, 0x0, 0, 0x0⟩,
  ⟨0x108b000010, [(6, 0x4)], 0x0, 0x0, 0x0, 0, 0x0⟩,
  ⟨0x108b000028, [], 0x0, 0x0, 0x0, 0, 0x0⟩,
  ⟨0x108b00002c, [], 0x0, 0x0, 0x0, 0, 0x0⟩,
  ⟨0x108b000030, [(6, 0x4)], 0x0, 0x0, 0x0, 0, 0x0⟩,
  ⟨0x108b000050, [], 0x0, 0x0, 0x0, 0, 0x0⟩,
  ⟨0x108b000054, [], 0x0, 0x0, 0x0, 0, 0x0⟩,
  ⟨0x108b000058, [], 0x0, 0x0, 0x0, 0, 0x0⟩,
  ⟨0x108b00005c, [], 0x0, 0x0, 0x0, 0, 0x0⟩,
  ⟨0x108b000060, [], 0x0, 0x0, 0x0, 0, 0x0⟩,
  ⟨0x108b000064, [], 0x0, 0x17f, 0x0, 0, 0x0⟩]

/-- Every register of the part. -/
def regTable : List RegDesc :=
  regs02TileProgramming ++ regs04TileMemory ++ regs05TraverseScheduler ++ regs18HostView ++ regs06JitterQueues ++ regs07SampleRate ++ regs09BilletAnd ++ regs10DramController ++ regs11CipherEngine ++ regs12EthernetPorts ++ regs12EthernetPortsB ++ regs13DatumNetwork ++ regs13DatumNetworkB ++ regs14FabricAnd ++ regs15BenchmarkManagement ++ regs16ModesClocks ++ regs17ErrorsAnd

/-- The register at address `a`, if one is listed there (R459). -/
def regAt (a : Nat) : Option RegDesc := regTable.find? (fun r => r.at a)

/-- Reset value of DMC_PORTp_CFG: class and latency target of Table 10.4, in units of 10 ns. -/
def portCfgReset (p : Nat) : Word :=
  if p < 12 then 0x10000C8 else if p = 12 then 0x1000064 else if p = 13 then 0x1000190
  else if p = 14 then 0x0000064 else 0x10000C8

/-- The registers with a reset value other than 0, other than DMC_PORTp_CFG. -/
def resetRows : List RegDesc := [
  ⟨0x10400f0038, [(96, 0x100000)], 0, 0, 0, 0, 0x10e⟩,
  ⟨0x10400f0090, [(96, 0x100000), (2, 0x20)], 0, 0, 0, 0, 0x20⟩,
  ⟨0x1080000008, [], 0, 0, 0, 0, 0x4⟩,
  ⟨0x1081000064, [], 0, 0, 0, 0, 0x6⟩,
  ⟨0x10810000dc, [], 0, 0, 0, 0, 0x100000⟩,
  ⟨0x1082000100, [(16, 0x10)], 0, 0, 0, 0, 0x4⟩,
  ⟨0x1083000100, [(16, 0x10)], 0, 0, 0, 0, 0x4⟩,
  ⟨0x1083001100, [(4, 0x10)], 0, 0, 0, 0, 0x4⟩,
  ⟨0x1084000040, [], 0, 0, 0, 0, 0x1f419014⟩,
  ⟨0x1084000044, [], 0, 0, 0, 0, 0x400010⟩,
  ⟨0x1084000048, [], 0, 0, 0, 0, 0x10a⟩,
  ⟨0x108400004c, [], 0, 0, 0, 0, 0x80000064⟩,
  ⟨0x1084000050, [], 0, 0, 0, 0, 0x33⟩,
  ⟨0x1084000054, [], 0, 0, 0, 0, 0x10010⟩,
  ⟨0x1085000100, [(64, 0x10000)], 0, 0, 0, 0, 0x4⟩,
  ⟨0x1085008000, [], 0, 0, 0, 0, 0x140⟩,
  ⟨0x1085008008, [], 0, 0, 0, 0, 0x14⟩,
  ⟨0x1086000050, [], 0, 0, 0, 0, 0x6401f4⟩,
  ⟨0x1086000400, [(4, 0x10)], 0, 0, 0, 0, 0x4⟩,
  ⟨0x1086001000, [(16, 0x1000)], 0, 0, 0, 0, 0x8⟩,
  ⟨0x1086001008, [(16, 0x1000)], 0, 0, 0, 0, 0x3f⟩,
  ⟨0x1086011008, [(16, 0x1000)], 0, 0, 0, 0, 0x6⟩,
  ⟨0x1086021000, [(16, 0x1000)], 0, 0, 0, 0, 0x4⟩,
  ⟨0x1087000038, [], 0, 0, 0, 0, 0x2710⟩,
  ⟨0x1087000050, [], 0, 0, 0, 0, 0x3e8⟩,
  ⟨0x1087000060, [], 0, 0, 0, 0, 0x620⟩,
  ⟨0x1087000064, [], 0, 0, 0, 0, 0x3e8⟩,
  ⟨0x1087000068, [], 0, 0, 0, 0, 0x1e0064⟩,
  ⟨0x108700006c, [], 0, 0, 0, 0, 0x68db8bb⟩,
  ⟨0x1087000090, [], 0, 0, 0, 0, 0x39⟩,
  ⟨0x10870000a0, [], 0, 0, 0, 0, 0x400⟩,
  ⟨0x10870000b0, [], 0, 0, 0, 0, 0x186a00⟩,
  ⟨0x1087000100, [(4, 0x20)], 0, 0, 0, 0, 0x100000⟩,
  ⟨0x1087000110, [(4, 0x20)], 0, 0, 0, 0, 0x3b9aca00⟩,
  ⟨0x1087000114, [(4, 0x20)], 0, 0, 0, 0, 0x8⟩,
  ⟨0x1087000380, [], 0, 0, 0, 0, 0xa40⟩,
  ⟨0x10870003a4, [], 0, 0, 0, 0, 0x60802ac⟩,
  ⟨0x1088000020, [], 0, 0, 0, 0, 0x7f06⟩,
  ⟨0x1088000024, [], 0, 0, 0, 0, 0x4020040⟩,
  ⟨0x1088000028, [], 0, 0, 0, 0, 0x400⟩,
  ⟨0x108800002c, [], 0, 0, 0, 0, 0x977⟩,
  ⟨0x1088000030, [], 0, 0, 0, 0, 0x20a023f⟩,
  ⟨0x10880000a0, [], 0, 0, 0, 0, 0x4⟩,
  ⟨0x1089000054, [], 0, 0, 0, 0, 0x1e⟩,
  ⟨0x1089001008, [], 0, 0, 0, 0, 0x1⟩,
  ⟨0x108a000000, [], 0, 0, 0, 0, 0x2⟩,
  ⟨0x108a000014, [], 0, 0, 0, 0, 0x1⟩]

/-- Reset value of the register at address `a` (the Reset columns of the register tables; 0 where a table gives 0 or no register stands there). -/
def resetOf (a : Nat) : Word :=
  if Reg.DMC_PORT_CFG 0 ≤ a ∧ a ≤ Reg.DMC_PORT_CFG 15 ∧ a % 4 = 0 then portCfgReset ((a - Reg.DMC_PORT_CFG 0) / 4)
  else match resetRows.find? (fun r => r.at a) with
    | some r => r.reset
    | none => 0

end Sys2Proof.Machine
end

