-- ==== Sys2Proof/Machine/State.lean ====
section
/-! DEFINITION. The state of the part as plain data, the reasons a command can stop, and the state after power-on reset. -/

namespace Sys2Proof.Machine

/-- The state of the part. -/
structure State where
  /-- Every register, by physical address; an unlisted address holds its reset value (`resetOf`). -/
  regs : SMap Word
  /-- Lower words of wide registers written but not yet taken over by the write of the highest word (R7). -/
  staged : SMap (Option Word)
  /-- The latches of wide reads (R7): by latch, the address its words were taken from and the upper words. -/
  latches : SMap (Nat × List Word)
  /-- Shared SRAM, by offset from 0x0010_0000_0000: the general region and the packet buffers' bytes. -/
  sram : List Host.Cell
  /-- The DRAM devices, by storage cell (channel, rank, bank, row, byte in the row), check region included. -/
  dram : List Host.Cell
  /-- Management SRAM (0.5 MiB, R15, R399), by offset; the event log in it is `bmk.log`. No command of the spec writes the rest. -/
  mgmtSram : List Host.Cell
  /-- The L2 caches of the application cores (1 MiB each, R15, R461), core `c` from offset 2^20 × c. No command of the spec fills a line. -/
  l2 : List Host.Cell
  dmc : Dmc
  err : Err
  /-- The 96 media tiles, by global index (R9). -/
  tiles : SMap Tile
  /-- Their pipelines (R40 to R49): bundles in flight and stall counters. -/
  pipes : SMap Pipe
  trv : Trv
  jq : Jq
  /-- The index of the next entry to fetch of each ring, by the address of its CFG register (the model's own field). -/
  ringNext : SMap Nat
  /-- When the next entry of each ring became the next one to fetch, by the address of its CFG register (R293). -/
  ringSince : SMap Nat
  sre : Sre
  bil : Bil
  dfl : Dfl
  cip : Cip
  dtm : Dtm
  bmk : Bmk
  pkt : Pkt
  fab : Fab
  pwr : Pwr
  /-- The monotonic counter (R328). -/
  mono : BitVec 64
  /-- What the last access or request answered (the model's own field). -/
  resp : Resp
  /-- Pulses given on each pulse interrupt line (R466). -/
  pulses : SMap Nat
  /-- Draws taken from the free values of Config (the model's own field). -/
  freeCtr : Nat
  /-- An excursion outside the limits of R2 has occurred since the last power-on reset. -/
  void : Bool
  /-- Commands waiting, first in, first out (the model's own field). -/
  pending : List Instr
  deriving DecidableEq, Repr

/-- Why a command stops the model. -/
inductive Fault where
  /-- Raised by every command but POWER_ON_RESET and SUPPLY_REMOVED after an EXCURSION: R2 leaves the part's behaviour undefined until the next power-on reset. Safe: nothing is claimed of it. -/
  | excursion
  deriving DecidableEq, Repr

/-- Why a command has no meaning in the model. -/
inductive Refusal where
  /-- Raised by an arm of exec that has no meaning yet. Safe. -/
  | notModelled (mnemonic : String)
  deriving DecidableEq, Repr

/-- The part right after power-on reset. -/
def State.reset : State :=
  { regs := [], staged := [], latches := [], sram := [], dram := [], mgmtSram := [], l2 := [], dmc := Dmc.reset, err := Err.reset,
    tiles := [], pipes := [], trv := Trv.reset, jq := Jq.reset,
    ringNext := [], ringSince := [], cip := Cip.reset, dtm := Dtm.reset, bmk := Bmk.reset, pkt := Pkt.reset, fab := Fab.reset, pwr := Pwr.reset, sre := Sre.reset, bil := Bil.reset, dfl := Dfl.reset,
    mono := 0, resp := .idle, pulses := [], freeCtr := 0, void := false, pending := [] }

end Sys2Proof.Machine
end

