-- ==== Sys2Proof/Machine/Ops.lean ====
section
/-! DEFINITION. The shared operations: registers, interrupts, error records, free values, and the checks every register access passes. -/

namespace Sys2Proof.Machine

/-! ### Registers -/

/-- The value of the register at `a`. -/
def rd (s : State) (a : Nat) : Word := SMap.get (resetOf a) s.regs a

/-- Give the register at `a` the value `v`. -/
def wr (s : State) (a : Nat) (v : Word) : State := { s with regs := SMap.put (resetOf a) s.regs a v }

/-- Field `[hi:lo]` of the register at `a`. -/
def rdf (s : State) (a hi lo : Nat) : Nat := fld (rd s a) hi lo

/-- Bit `n` of the register at `a`. -/
def rdb (s : State) (a n : Nat) : Bool := (rd s a).getLsbD n

/-- Write field `[hi:lo]` of the register at `a`. -/
def wrf (s : State) (a hi lo x : Nat) : State := wr s a (setFld (rd s a) hi lo x)

/-- Write bit `n` of the register at `a`. -/
def wrb (s : State) (a n : Nat) (b : Bool) : State := wrf s a n n b.toNat

/-- Set the bits of `m` in the register at `a`: an interrupt or sticky status. -/
def orr (s : State) (a : Nat) (m : Word) : State := wr s a (rd s a ||| m)

/-- Add `n` to a counter register; it wraps. -/
def addc (s : State) (a n : Nat) : State := wr s a (rd s a + BitVec.ofNat 32 n)

/-- Add 1 to a counter register; it wraps. -/
def inc (s : State) (a : Nat) : State := addc s a 1

/-- A value of two registers, low word first. -/
def rd2 (s : State) (lo hi : Nat) : Nat := (rd s lo).toNat + 2 ^ 32 * (rd s hi).toNat

/-- Write a value of two registers, low word first. -/
def wr2 (s : State) (lo hi x : Nat) : State :=
  wr (wr s lo (BitVec.ofNat 32 x)) hi (BitVec.ofNat 32 (x >>> 32))

/-- A lower word of a wide value, written, waits for the highest word (R7). -/
def stage (s : State) (a : Nat) (v : Word) : State := { s with staged := SMap.put none s.staged a (some v) }

/-- The lower word that waits at `a`, `d` when none does. -/
def stagedOr (s : State) (a : Nat) (d : Word) : Word := (SMap.get none s.staged a).getD d

/-! ### Answers, free values, pulses -/

/-- Answer the requester. -/
def reply (s : State) (r : Resp) : State := { s with resp := r }

/-- One more draw taken from the free values of Config. -/
def drawn (s : State) : State := { s with freeCtr := s.freeCtr + 1 }

/-- A pulse on interrupt line `l` (R466). -/
def pulse (s : State) (l : Nat) : State := { s with pulses := SMap.put 0 s.pulses l (SMap.get 0 s.pulses l + 1) }

/-- Time is at least `t` counts of the monotonic counter. -/
def notBefore (s : State) (t : Nat) : State :=
  if s.mono.toNat < t then { s with mono := BitVec.ofNat 64 t } else s

/-! ### Mode -/

/-- The current mode (R426). -/
def mode (s : State) : Nat := rdf s Reg.PWR_MODE 3 0

/-- The part is in M10 FREEZE (R450). -/
def frozen (s : State) : Bool := mode s == 10

/-- The blocks are at rest: the part has no power (M0) or sleeps (M1), where nothing runs but what R323, R440 and Table 16.2 name, or Benchmark holds every other block in reset in recovery (R413). -/
def asleep (s : State) : Bool := decide (mode s ≤ 1) || s.bmk.recovery

/-- What a meaning ends in: after an excursion the part's behaviour is undefined (R2). -/
def liveAny (s t : State) : Host.Outcome State Fault Refusal :=
  if s.void then .fault .excursion else .next t

/-- What a meaning of a block that needs power ends in: at rest it does nothing (Table 16.1, R413, R439). -/
def live (s t : State) : Host.Outcome State Fault Refusal := liveAny s (if asleep s then s else t)

/-- What a meaning of Benchmark and of the always-on domain ends in: they work in recovery too (R413). -/
def liveBmk (s t : State) : Host.Outcome State Fault Refusal := liveAny s (if mode s ≤ 1 then s else t)

/-! ### Error records -/

/-- A record leaves its block for the ERR block (R442). -/
def raise (s : State) (r : ErrIn) : State := { s with err := { s.err with arrivals := s.err.arrivals ++ [r] } }

/-- Source codes of Table 15.3. -/
def srcTile : Nat := 1
def srcTrv : Nat := 2
def srcJq : Nat := 3
def srcSre : Nat := 4
def srcBil : Nat := 5
def srcDfl : Nat := 6
def srcDmc : Nat := 7
def srcCip : Nat := 8
def srcEth : Nat := 9
def srcPkt : Nat := 10
def srcDtm : Nat := 11
def srcFab : Nat := 12
def srcClk : Nat := 13
def srcPwr : Nat := 14
def srcErr : Nat := 15

/-- An ACCESS record (Table 17.2): write, wrong width or alignment, requester port, physical address. -/
def accessRec (src : Nat) (write bad : Bool) (port addr : Nat) : ErrIn :=
  { src := src, sev := 1, code := 1, arg := BitVec.ofNat 32 (2 ^ 31 * write.toNat + 2 ^ 30 * bad.toNat + 2 ^ 24 * port),
    loc := addr % 2 ^ 48, pkg := false }

/-- A packed location code without its package (Table 1.3). -/
def locCode (quadrant cluster tile bank word bit : Nat) : Nat :=
  2 ^ 47 * quadrant + 2 ^ 44 * cluster + 2 ^ 40 * tile + 2 ^ 35 * bank + 2 ^ 8 * word + bit

/-- A corrected-error record (MEM_CORR). -/
def corrRec (src loc : Nat) : ErrIn := { src := src, sev := 1, code := 0x10, arg := 0, loc := loc, pkg := true }

/-- An uncorrectable-error record (MEM_UNC) with the reader of Table 17.2. -/
def uncRec (src reader loc : Nat) : ErrIn :=
  { src := src, sev := 3, code := 0x11, arg := BitVec.ofNat 32 reader, loc := loc, pkg := true }

/-! ### Register access (R458 to R465) -/

/-- The block that owns the page at `a`, as the src of an ACCESS record. -/
def pageSrc (a : Nat) : Nat :=
  if 0x1040000000 ≤ a ∧ a < 0x1046000000 then srcTile
  else if 0x1080000000 ≤ a ∧ a < 0x1081000000 then srcTrv
  else if a / 2 ^ 24 = 0x1081 then srcJq
  else if a / 2 ^ 24 = 0x1082 then srcSre
  else if a / 2 ^ 12 = 0x1083000 then srcBil
  else if a / 2 ^ 12 = 0x1083001 then srcDfl
  else if a / 2 ^ 24 = 0x1084 then srcDmc
  else if a / 2 ^ 24 = 0x1085 then srcCip
  else if 0x1086001000 ≤ a ∧ a < 0x1086011000 then srcEth
  else if a / 2 ^ 24 = 0x1086 then srcPkt
  else if a / 2 ^ 24 = 0x1087 then srcDtm
  else if a / 2 ^ 24 = 0x1088 then srcFab
  else if a / 2 ^ 24 = 0x1089 then 0
  else if 0x108A000040 ≤ a ∧ a < 0x108A000060 then srcClk
  else if a / 2 ^ 24 = 0x108A then srcPwr
  else srcErr

/-- The ownership unit of address `a` (Table 18.2); none for the host control page and for memory. -/
def unitOf (a : Nat) : Option Nat :=
  if 0x1040000000 ≤ a ∧ a < 0x1046000000 then some ((a - 0x1040000000) / 2 ^ 20)
  else if 0x1081200000 ≤ a ∧ a < 0x1081400000 then some (96 + (a - 0x1081200000) / 2 ^ 12)
  else if 0x1085000000 ≤ a ∧ a < 0x1085400000 then some (608 + (a - 0x1085000000) / 2 ^ 16)
  else if 0x1086000000 ≤ a ∧ a < 0x1086032000 then some (672 + (a - 0x1086000000) / 2 ^ 12)
  else match a / 2 ^ 12 with
    | 0x1080000 => some 722
    | 0x1080001 => some 723
    | 0x1081000 => some 724
    | 0x1082000 => some 725
    | 0x1083000 => some 726
    | 0x1083001 => some 727
    | 0x1084000 => some 728
    | 0x1087000 => some 729
    | 0x1088000 => some 730
    | 0x1089000 => some 731
    | 0x108A000 => some 732
    | 0x108B000 => some 733
    | _ => none

/-- Owner of ownership unit `u` (R463): 0 to 14 a domain, 15 shared. -/
def unitOwner (s : State) (u : Nat) : Nat :=
  rdf s (Reg.BMK_OWN (u / 8)) (4 * (u % 8) + 3) (4 * (u % 8))

/-- Domain of core `c` (R462). -/
def coreDomain (s : State) (c : Nat) : Nat := rdf s Reg.BMK_CORE_DOM (4 * c + 3) (4 * c)

/-- Core `c` runs: released, not offline, and the part past its boot (R469 to R471, Table 16.1). -/
def coreRuns (s : State) (c : Nat) : Bool := rdb s Reg.BMK_CORE_STAT c && decide (3 ≤ mode s)

/-- Clock domain `d` is gated (R436). -/
def gated (s : State) (d : Nat) : Bool := rdb s (Reg.CLK_GATE_STAT (d / 32)) (d % 32)

/-- Software has asked to gate domain `d`: its engine takes no new work (R436). -/
def gateAsked (s : State) (d : Nat) : Bool := rdb s (Reg.CLK_GATE (d / 32)) (d % 32)

/-- The clock of the tile pair whose window holds `a` runs (R67); any other address has none to ask. -/
def clocked (s : State) (a : Nat) : Bool := !(0x1040000000 ≤ a && a < 0x1046000000) || !gated s ((a - 0x1040000000) / 2 ^ 21)

/-- Is the access permitted by ownership (R462, R463) and by the clock of a tile window (R67)? -/
def permitted (s : State) (c a : Nat) (write : Bool) : Bool :=
  let ok := match unitOf a with
    | some u => unitOwner s u == 15 || unitOwner s u == coreDomain s c
    | none => !(write && a / 2 ^ 12 == 0x1089001) || coreDomain s c == 0
  ok && clocked s a

/-- The part discards a write, or answers a read with an error response, and logs the access (R459). -/
def refuseAccess (s : State) (src : Nat) (who : Who) (a : Nat) (write bad : Bool) : State :=
  let port := match who with
    | .core _ => 12
    | .bmk => 15
  let s := raise s (accessRec src write bad port a)
  if write then s else reply s .error

/-- A register access by `who`: checked, then performed by `f`. A core that does not run makes none. Ownership is not asked of Benchmark (R464); the window of a gated tile pair answers nobody (R67). -/
def swAccess (s : State) (who : Who) (a : Nat) (write : Bool) (f : State → State) : State :=
  match who with
  | .bmk => if clocked s a then f s else refuseAccess s (pageSrc a) who a write false
  | .core c =>
    if !coreRuns s c.val then s
    else if permitted s c.val a write then f s
    else refuseAccess s (pageSrc a) who a write false

/-- A register write. -/
def swWrite (s : State) (who : Who) (a : Nat) (f : State → State) : State := swAccess s who a true f

/-- A register read: `f` gives the state after it and the value. -/
def swRead (s : State) (who : Who) (a : Nat) (f : State → State × Word) : State :=
  swAccess s who a false (fun s => let r := f s; reply r.1 (.word r.2))

/-- The lock of the register's block is set (Table 0.3, RWL). -/
def lockedReg (s : State) (d : RegDesc) : Bool := d.lock != 0 && rdb s d.lock 31

/-- What a write of `v` leaves in a register of descriptor `d` that held `old`: writable bits replaced, bits written 1 cleared (Table 0.3). -/
def stored (d : RegDesc) (locked : Bool) (old v : Word) : Word :=
  let m := d.rw ||| (if locked then 0 else d.rwl)
  (old &&& ~~~ m &&& ~~~ (v &&& d.w1c)) ||| (v &&& m)

/-- The plain effect of a register write at `a` (Table 0.3). -/
def plainWrite (s : State) (a : Nat) (v : Word) : State :=
  match regAt a with
  | some d => wr s a (stored d (lockedReg s d) (rd s a) v)
  | none => s

end Sys2Proof.Machine
end

