-- ==== Sys2Proof/Machine/Rings.lean ====
section
/-! DEFINITION. Shared SRAM and the rings in it: ring header, producer and consumer words, enabling, overfill, choosing a ring (R209, R210, R211, and what R228, R286, R313, R316 and R389 change). -/

namespace Sys2Proof.Machine

/-! ### Bytes of a memory -/

/-- `n` bytes from cell `k`. -/
def getBytes (m : List Host.Cell) (k : Nat) : Nat → List Byte
  | 0 => []
  | n + 1 => SMap.get 0 m k :: getBytes m (k + 1) n

/-- Put bytes at cell `k` upward. -/
def putBytes (m : List Host.Cell) (k : Nat) : List Byte → List Host.Cell
  | [] => m
  | b :: bs => putBytes (SMap.put 0 m k b) (k + 1) bs

/-- The canonical form of a memory: cells rising, none listed that reads as an unlisted one does (zero). -/
def Memory.wf (m : List Host.Cell) : Bool := SMap.wf (fun _ => 0) m

/-- Base of shared SRAM (R458). -/
def sramBase : Nat := 0x1000000000

/-- `[a, a+n)` lies in the shared SRAM general region (Table 1.7). -/
def inGeneral (a n : Nat) : Bool := decide (0x10006C0000 ≤ a ∧ a + n ≤ 0x1000800000)

/-- Bytes of shared SRAM at offset `o`. -/
def sramGet (s : State) (o n : Nat) : List Byte := getBytes s.sram o n

/-- Write bytes of shared SRAM at offset `o`, by the part itself. -/
def sramPut (s : State) (o : Nat) (bs : List Byte) : State := { s with sram := putBytes s.sram o bs }

/-! ### Rings -/

/-- Where the registers of a ring are, the bytes of an entry, and the interrupt bit of its overfill. -/
structure RingDesc where
  cfg : Nat
  base : Nat
  cons : Nat
  prod : Nat
  esize : Nat
  int : Nat
  bit : Nat
  deriving DecidableEq, Repr

/-- The registers of each ring (R218, R228, R240, R286, R313, R316, R389). -/
def ringDesc : RingRef → RingDesc
  | .sre r => ⟨Reg.SRE_RING_CFG r, Reg.SRE_RING_BASE r, Reg.SRE_RING_CONS r, Reg.SRE_RING_PROD r, 64, Reg.SRE_INT_STAT, 4⟩
  | .bil r => ⟨Reg.BIL_RING_CFG r, Reg.BIL_RING_BASE r, Reg.BIL_RING_CONS r, Reg.BIL_RING_PROD r, 32, Reg.BIL_INT_STAT, 2⟩
  | .dfl r => ⟨Reg.DFL_RING_CFG r, Reg.DFL_RING_BASE r, Reg.DFL_RING_CONS r, Reg.DFL_RING_PROD r, 64, Reg.DFL_INT_STAT, 2⟩
  | .cip p => ⟨Reg.CIP_U_RING_CFG p, Reg.CIP_U_RING_BASE p, Reg.CIP_U_RING_CONS p, Reg.CIP_U_RING_PROD p, 64, Reg.CIP_U_INT_STAT p, 4⟩
  | .gret r => ⟨Reg.PKT_GRET_CFG r, Reg.PKT_GRET_BASE r, Reg.PKT_GRET_CONS r, Reg.PKT_GRET_PROD r, 4, Reg.PKT_INT_STAT, 2⟩
  | .txr r => ⟨Reg.PKT_TXR_CFG r, Reg.PKT_TXR_BASE r, Reg.PKT_TXR_CONS r, Reg.PKT_TXR_PROD r, 64, Reg.PKT_INT_STAT, 2⟩
  | .fab => ⟨Reg.FAB_TXR_CFG, Reg.FAB_TXR_BASE, Reg.FAB_TXR_CONS, Reg.FAB_TXR_PROD, 32, Reg.FAB_INT_STAT, 8⟩

/-- Every ring of the part. -/
def allRings : List RingRef :=
  (List.finRange 16).map .sre ++ (List.finRange 16).map .bil ++ (List.finRange 4).map .dfl ++
  (List.finRange 64).map .cip ++ (List.finRange 4).map .gret ++ (List.finRange 16).map .txr ++ [.fab]

def ringOn (s : State) (r : RingRef) : Bool := rdb s (ringDesc r).cfg 12
def ringErr (s : State) (r : RingRef) : Bool := rdb s (ringDesc r).cfg 11
def ringPrio (s : State) (r : RingRef) : Nat := rdf s (ringDesc r).cfg 7 6

/-- Entries of a ring: 2^k. -/
def ringSize (s : State) (r : RingRef) : Nat := 2 ^ rdf s (ringDesc r).cfg 3 0

/-- Byte offset of a ring in shared SRAM. -/
def ringBase (s : State) (r : RingRef) : Nat := rdf s (ringDesc r).base 22 6 * 64

/-- Offset of entry `i` (R209). -/
def ringEntry (s : State) (r : RingRef) (i : Nat) : Nat := ringBase s r + 64 + (ringDesc r).esize * (i % ringSize s r)

/-- Index of the next entry to fetch (the model's own field: consumer index plus jobs fetched and not completed). -/
def ringNext (s : State) (r : RingRef) : Nat := SMap.get 0 s.ringNext (ringDesc r).cfg

/-- The next entry of the ring has waited since now. -/
def ringStamp (s : State) (r : RingRef) : State := { s with ringSince := SMap.put 0 s.ringSince (ringDesc r).cfg s.mono.toNat }

def setRingNext (s : State) (r : RingRef) (i : Nat) : State :=
  ringStamp { s with ringNext := SMap.put 0 s.ringNext (ringDesc r).cfg (i % 2 ^ 32) } r

/-- A job can be fetched from the ring: enabled, free of error, non-empty. -/
def ringReady (s : State) (r : RingRef) : Bool :=
  ringOn s r && !ringErr s r && (rd s (ringDesc r).prod).toNat != ringNext s r

/-- The best of the ready rings: lowest prio, the first in the given order among equals (R211). -/
def bestRing (s : State) : List RingRef → Option RingRef
  | [] => none
  | r :: rs =>
    match bestRing s rs with
    | none => if ringReady s r then some r else none
    | some b => if ringReady s r && decide (ringPrio s r ≤ ringPrio s b) then some r else some b

/-- The numbers 0 to `n` − 1 in ascending order, starting after `last`. -/
def after (n last : Nat) : List Nat := (List.range n).map (fun i => (last + 1 + i) % n)

/-- Write a ring's consumer word (R209): header bytes 4 to 7. -/
def putCons (s : State) (r : RingRef) (v : Word) : State :=
  wr (sramPut s (ringBase s r + 4) (leBytes 4 v.toNat)) (ringDesc r).cons v

/-- The consumer word advances by one entry, and the CONS register with it. -/
def advanceCons (s : State) (r : RingRef) : State := putCons s r (rd s (ringDesc r).cons + 1)

/-- The ring header and the entries lie in offsets 0x006C_0000 to 0x007F_FFFF (Table 7.11). -/
def ringFits (base esize k : Nat) : Bool := inGeneral (sramBase + base) (64 + esize * 2 ^ k)

/-- A write of `v` to a ring's CFG register (R209, Table 7.11): engine and k are ignored while the ring is enabled, enabling zeroes the consumer word and PROD, and a write of enable = 0 clears err. -/
def ringCfgWrite (s : State) (who : Who) (r : RingRef) (v : Word) : State :=
  let d := ringDesc r
  let old := rd s d.cfg
  let m := match regAt d.cfg with
    | some x => x.rw
    | none => 0
  let on := old.getLsbD 12
  let k := if on then fld old 3 0 else max 4 (min 10 (fld v 3 0))
  let new := setFld ((old &&& ~~~ m) ||| (v &&& m)) 3 0 k
  let new := if on then setFld new 5 4 (fld old 5 4) else new
  let new := if v.getLsbD 12 then new else setBit new 11 false
  if v.getLsbD 12 && !ringFits (ringBase s r) d.esize k then refuseAccess s (pageSrc d.cfg) who d.cfg true false
  else
    let s := wr s d.cfg new
    if v.getLsbD 12 && !on then setRingNext (wr (putCons s r 0) d.prod 0) r 0 else s

/-- A write of `v` to a ring's BASE register: ignored while enabled (Table 7.11). -/
def ringBaseWrite (s : State) (r : RingRef) (v : Word) : State :=
  if ringOn s r then s else plainWrite s (ringDesc r).base v

/-- The ring's engine reads the producer word of an enabled ring and checks it for overfill (R210). -/
def ringNotice (s : State) (r : RingRef) : State :=
  let d := ringDesc r
  let w := BitVec.ofNat 32 (leNat (sramGet s (ringBase s r) 4))
  let s := if (rd s d.prod).toNat = ringNext s r then ringStamp s r else s
  let s := wr s d.prod w
  if ringSize s r < (w - rd s d.cons).toNat then orr (wrb s d.cfg 11 true) d.int (BitVec.ofNat 32 (2 ^ d.bit)) else s

/-- A write of `[o, o+n)` covers a byte of the producer word of an enabled ring. -/
def touches (s : State) (o n : Nat) (r : RingRef) : Bool :=
  ringOn s r && decide (o < ringBase s r + 4 ∧ ringBase s r < o + n)

/-- A write of shared SRAM at offset `o` by an agent other than the engines' own ring words: every write to the producer word of an enabled ring is reported (R210). -/
def sramWrite (s : State) (o : Nat) (bs : List Byte) : State :=
  let s := sramPut s o bs
  foldS (fun s r => if touches s o bs.length r then ringNotice s r else s) allRings s

/-- RING_ENABLE (R209): a write of a ring's CFG register. -/
def execRingEnable (who : Who) (ring : RingRef) (value : Word) (s : State) : Host.Outcome State Fault Refusal :=
  live s (swWrite s who (ringDesc ring).cfg (fun s => ringCfgWrite s who ring value))

/-- The block of a region of shared SRAM (Table 1.7). -/
def sramSrc (o : Nat) : Nat :=
  if o < 0x400000 then srcJq
  else if o < 0x600000 then srcPkt
  else if o < 0x680000 then srcTrv
  else if o < 0x6C0000 then srcCip
  else Config.undecodedSrc.toNat

/-- A software write of a word of shared SRAM: only the general region takes one (R142, R170, R278, R302). -/
def sramSoftWrite (s : State) (who : Who) (a : Nat) (v : Word) : State :=
  if inGeneral a 4 then sramWrite s (a - sramBase) (leBytes 4 v.toNat) else refuseAccess s (sramSrc (a - sramBase)) who a true false

/-- PRODUCER_WORD_WRITE (R210): a write of a ring's producer word in shared SRAM. -/
def execProducerWordWrite (who : Who) (ring : RingRef) (value : Word) (s : State) : Host.Outcome State Fault Refusal :=
  let a := sramBase + ringBase s ring
  live s (swWrite s who a (fun s => sramSoftWrite s who a value))

end Sys2Proof.Machine
end

