-- ==== Sys2Proof/Machine/DmcQueue.lean ====
section
/-! DEFINITION. The address map to DRAM (R244, R245), the channel queues and their scheduling (R255 to R263): a request enters its queue, the best-keyed one gets each command slot, and a column access completes it. -/

namespace Sys2Proof.Machine

/-- The fabric address the part holds, 0 while none is valid (R379). -/
def package (s : State) : Nat := if rdb s Reg.FAB_STAT 31 then rdf s Reg.FAB_STAT 29 16 else 0

/-! ### Geometry (R244, R245) -/

/-- Populated channels. -/
def dmcChans (s : State) : Nat := if rdb s Reg.DMC_CFG 0 then 4 else 2

/-- log2 of the populated channels. -/
def dmcCb (s : State) : Nat := if rdb s Reg.DMC_CFG 0 then 2 else 1

/-- `dens`: log2 of the capacity in GiB. -/
def dmcDens (s : State) : Nat := rdf s Reg.DMC_CFG 3 2

/-- Two ranks per channel. -/
def dmcTwoRanks (s : State) : Bool := rdb s Reg.DMC_CFG 4

/-- Capacity of a channel in bytes. -/
def dmcCap (s : State) : Nat := 2 ^ (30 + dmcDens s)

/-- Bytes of data of a channel: 7C/8. -/
def dmcData (s : State) : Nat := 7 * (dmcCap s / 8)

/-- Size of installed DRAM (R244). -/
def installed (s : State) : Nat := dmcChans s * dmcData s

/-- The channel of physical address `a`. -/
def chanOf (s : State) (a : Nat) : Nat :=
  let b (j : Nat) : Nat := (a.testBit (6 + j) ^^ parity 27 (slice a 34 8 &&& (rd s (Reg.DMC_CHAN_MASK j)).toNat)).toNat
  if dmcCb s = 2 then b 0 + 2 * b 1 else b 0

/-- The channel-local data address of physical address `a`. -/
def localOf (s : State) (a : Nat) : Nat := 64 * (a >>> (6 + dmcCb s)) + a % 64

/-- The physical address of local address `l` in channel `ch`: the inverse of `chanOf` and `localOf`. -/
def physOf (s : State) (ch l : Nat) : Nat :=
  let hi := (l / 64) <<< (6 + dmcCb s) + l % 64
  let fix (a j : Nat) : Nat := if chanOf s a % 2 ^ (j + 1) / 2 ^ j = ch / 2 ^ j % 2 then a else a + 2 ^ (6 + j)
  if dmcCb s = 2 then fix (fix hi 0) 1 else fix hi 0

/-- The bank of physical channel address `p`. -/
def bankOf (s : State) (p : Nat) : Nat :=
  let m := slice p (29 + dmcDens s) 16
  let b (j : Nat) : Nat := (p.testBit (12 + j) ^^ parity 18 (m &&& (rd s (Reg.DMC_BANK_MASK j)).toNat)).toNat
  b 0 + 2 * b 1 + 4 * b 2 + 8 * b 3

/-- The rank of physical channel address `p`. -/
def rankOf (s : State) (p : Nat) : Nat := if dmcTwoRanks s then (p.testBit (29 + dmcDens s)).toNat else 0

/-- The row of physical channel address `p`. -/
def rowOf (s : State) (p : Nat) : Nat :=
  if dmcTwoRanks s then slice p (28 + dmcDens s) 16 else slice p (29 + dmcDens s) 16

/-- The storage cell of physical channel address `p` of channel `ch`. -/
def cellOf (s : State) (ch p : Nat) : Nat :=
  4096 * (2 ^ 18 * (16 * (2 * ch + rankOf s p) + bankOf s p) + rowOf s p) + p % 4096

/-! ### Queues (R256) -/

/-- Requests queued on channel `ch`. -/
def dmcQueue (s : State) (ch : Nat) : List DmcReq := SMap.get [] s.dmc.queue ch

def setDmcQueue (s : State) (ch : Nat) (q : List DmcReq) : State :=
  { s with dmc := { s.dmc with queue := SMap.put [] s.dmc.queue ch q } }

/-- Requests held at port `p`. -/
def dmcHeld (s : State) (p : Nat) : List PortReq := SMap.get [] s.dmc.held p

def setDmcHeld (s : State) (p : Nat) (q : List PortReq) : State :=
  { s with dmc := { s.dmc with held := SMap.put [] s.dmc.held p q } }

/-- Entries port `p` holds in queue `q`. -/
def portCount (q : List DmcReq) (p : Nat) : Nat := (q.filter (fun r => r.port == p)).length

/-- A channel queue has an entry for port `p`: 4 reserved for each port, 32 shared (R256). -/
def entryFree (q : List DmcReq) (p : Nat) : Bool :=
  (p < 16 && portCount q p < 4) || ((List.range 16).map (fun x => portCount q x - 4)).sum + portCount q 16 < 32

/-- The class of a request: its own, or its port's default (R255). -/
def reqClass (s : State) (rq : Requester) : Nat := rq.cls.getD (rdf s (Reg.DMC_PORT_CFG rq.port) 25 24)

/-- A source gets its answer. -/
def answerReq (s : State) (port src : Nat) (a : Resp) : State :=
  reply { s with dmc := { s.dmc with answers := s.dmc.answers ++ [⟨port, src, a⟩] } } a

/-- No answer has been given yet. -/
def noAnswers (s : State) : State := { s with dmc := { s.dmc with answers := [] } }

/-! ### Banks (R261, R263) -/

/-- Bank index of physical channel address `p`: (channel × 2 + rank) × 16 + bank. -/
def bankIx (s : State) (ch p : Nat) : Nat := (ch * 2 + rankOf s p) * 16 + bankOf s p

/-- A CK cycle of the active set point, in 1/64 counts of the monotonic counter (Table 10.3). -/
def ck64 (s : State) : Nat := [75, 100, 150, 300].getD (rdf s Reg.DMC_FREQ 1 0) 300

/-- The timing set in force. -/
def activeSet (s : State) : Nat := (rdb s Reg.DMC_FREQ 2).toNat

/-- The bank's row closed. -/
def closedBank (b : Bank) : Bank := { b with openRow := none, prevRow := b.openRow.or b.prevRow, hits := 0, kept := none }

/-- Bank `i`: a row kept open with nothing queued closes after DMC_SCHED.timeout × 4 CK cycles (R261). -/
def bank (s : State) (i : Nat) : Bank :=
  let b := SMap.get Bank.reset s.dmc.banks i
  match b.kept with
  | some t => if rdf s Reg.DMC_SCHED 23 16 * 4 * ck64 s ≤ (s.mono.toNat - t) * 64 then closedBank b else b
  | none => b

def setBank (s : State) (i : Nat) (b : Bank) : State :=
  { s with dmc := { s.dmc with banks := SMap.put Bank.reset s.dmc.banks i b } }

/-- A new request finds its bank's row state (R261). -/
def historyUpdate (b : Bank) (row : Nat) : Bank :=
  match b.openRow with
  | some r => { b with h := if r = row then min 3 (b.h + 1) else b.h - 1, kept := none }
  | none => if b.prevRow = some row then { b with h := b.h - 1 } else b

/-- Rows of a bank. -/
def rowCount (s : State) : Nat := if dmcTwoRanks s then 2 ^ (13 + dmcDens s) else 2 ^ (14 + dmcDens s)

/-- Rows r − 1 and r + 1, where they exist. -/
def neighbours (s : State) (r : Nat) : List Nat := (if 0 < r then [r - 1] else []) ++ (if r + 1 < rowCount s then [r + 1] else [])

/-- The random event of an activate (R263). -/
def nrefDraw (s : State) : Bool :=
  rdb s Reg.DMC_NREF 8 && Config.nrefEvent (if s.dmc.seed.isSome then rdf s Reg.DMC_NREF 3 0 else 6) s.freeCtr

/-- Row `row` of bank `i` is activated: the neighbours that an earlier row left to do come first, and a new event leaves those of this row (R263). -/
def activate (s : State) (i row : Nat) : State :=
  let b := bank s i
  let hit := nrefDraw s
  let new := if hit then neighbours s row else []
  let same : Bool := b.prevRow == some row
  let b' := { b with openRow := some row, hits := 0, kept := none,
                     neigh := if same then b.neigh ++ new else new, swept := if same then b.swept else b.neigh }
  let s := drawn (setBank s i b')
  { s with dmc := { s.dmc with nrefs := s.dmc.nrefs + hit.toNat } }

/-! ### Urgency and keys (R258, R259) -/

/-- Age of a request in counts of 0.8 ns. -/
def reqAge (s : State) (r : DmcReq) : Nat := s.mono.toNat - r.arrival

/-- A latency target in counts × 2: the field's unit is 10 ns, 12.5 counts. -/
def target2 (s : State) (p : Nat) : Nat := rdf s (Reg.DMC_PORT_CFG p) 9 0 * 25

/-- Urgency of an age against a port's target (R258). -/
def ageUrgency (s : State) (p age : Nat) : Nat :=
  let t := target2 s p
  if t ≤ age * 2 then 3 else if 3 * t ≤ age * 8 then 2 else if t ≤ age * 4 then 1 else 0

/-- Urgency of port `p` on channel `ch`: that of its oldest request. -/
def portUrgency (s : State) (ch p : Nat) : Nat :=
  match (dmcQueue s ch).find? (fun r => r.port == p) with
  | some r => if p < 16 then ageUrgency s p (reqAge s r) else 0
  | none => 0

/-- DMC_URG: for each port the highest urgency it has on any channel. -/
def dmcUrg (s : State) : Word :=
  BitVec.ofNat 32 (((List.range 16).map (fun p =>
    max (max (portUrgency s 0 p) (portUrgency s 1 p)) (max (portUrgency s 2 p) (portUrgency s 3 p)) * 4 ^ p)).sum)

/-- Age promotion (R259): at most one class per limit. -/
def promote (s : State) : Nat → Nat → Nat
  | 0, _ => 0
  | ec + 1, t =>
    let lim := rdf s Reg.DMC_AGE_LIM (10 * ec + 9) (10 * ec) * 125
    if lim ≤ t then promote s ec (t - lim) else ec + 1

/-- The effective class of entry `i` of channel `ch` (R259). -/
def effClass (s : State) (ch i : Nat) (r : DmcReq) : Nat :=
  let q := dmcQueue s ch
  let oldest := (q.take i).all (fun x => x.port != r.port)
  if oldest && portUrgency s ch r.port == 3 then 0 else promote s r.cls (reqAge s r)

/-- The row of a request's block. -/
def reqRow (s : State) (r : DmcReq) : Nat := rowOf s r.loc

/-- The request's row is open in its bank. -/
def reqHit (s : State) (r : DmcReq) : Bool := (bank s (bankIx s r.ch r.loc)).openRow == some (reqRow s r)

/-- The key of R259 as one number, smaller first: effective class, 3 − urgency, hit, arrival order. -/
def reqKey (s : State) (ch i : Nat) (r : DmcReq) : Nat :=
  ((effClass s ch i r * 4 + (3 - portUrgency s ch r.port)) * 2 + (!reqHit s r).toNat) * 128 + i

/-- The entry of smallest key among those of `ready` (the entries whose bank and bus timing allow a command now). -/
def bestEntry (s : State) (ch : Nat) (ready : List Nat) : Option (Nat × DmcReq) :=
  let c := ((dmcQueue s ch).zipIdx.filter (fun x => ready.contains x.2)).map (fun x => (reqKey s ch x.2 x.1, x.2, x.1))
  match c.foldl (fun best x => match best with
    | none => some x
    | some b => if x.1 < b.1 then some x else some b) (none : Option (Nat × Nat × DmcReq)) with
  | some (_, i, r) => some (i, r)
  | none => none

/-- A request of the same effective class waits for another row of the bank (R260). -/
def otherRowWaits (s : State) (ch i : Nat) (r : DmcReq) : Bool :=
  (dmcQueue s ch).zipIdx.any (fun x =>
    x.2 != i && effClass s ch x.2 x.1 == effClass s ch i r && bankIx s ch x.1.loc == bankIx s ch r.loc && reqRow s x.1 != reqRow s r)

/-! ### Commands (R258, R260, R261) -/

/-- A request completes: its lateness is counted, and its source gets the answer still owed (R258). -/
def completeReq (s : State) (r : DmcReq) : State :=
  let late := r.port < 16 && target2 s r.port < reqAge s r * 2
  let s := if late then orr (inc s (Reg.DMC_PORT_LATE r.port)) Reg.DMC_INT_STAT 2 else s
  match r.answer with
  | some a => answerReq s r.port r.src a
  | none => s

/-- The column access of entry `i`: the request leaves the queue and completes, and the row stays open or closes (R258, R261). -/
def columnAccess (s : State) (ch i : Nat) (r : DmcReq) : State :=
  let bi := bankIx s ch r.loc
  let b := bank s bi
  let q := (dmcQueue s ch).eraseIdx i
  let s := completeReq (setDmcQueue s ch q) r
  if q.any (fun x => bankIx s ch x.loc == bi) then setBank s bi { b with hits := b.hits + 1 }
  else if 2 ≤ b.h then setBank s bi { b with hits := b.hits + 1, kept := some s.mono.toNat }
  else setBank s bi (closedBank b)

/-- The command of entry `i`: activate, precharge or column access. -/
def issueCommand (s : State) (ch i : Nat) (r : DmcReq) : State :=
  let bi := bankIx s ch r.loc
  let b := bank s bi
  match b.openRow with
  | none => activate s bi (reqRow s r)
  | some row =>
    if row = reqRow s r && !(rdf s Reg.DMC_SCHED 7 0 ≤ b.hits && otherRowWaits s ch i r) then columnAccess s ch i r
    else setBank s bi (closedBank b)

/-- Command slots of channel `ch`, every entry able to issue, until its queue meets `stop`; the fuel bounds them. -/
def runChannel (ch : Nat) (stop : List DmcReq → Bool) : Nat → State → State
  | 0, s => s
  | n + 1, s =>
    if stop (dmcQueue s ch) then s
    else match bestEntry s ch (List.range 96) with
      | some (i, r) => runChannel ch stop n (issueCommand s ch i r)
      | none => s

/-- Slots enough for any queue: each request takes at most an activate, a precharge and a column access, and the cap of R260 adds few. -/
def slotFuel : Nat := 1024

/-- The channel issues commands until port `p` has an entry. -/
def makeRoom (s : State) (ch p : Nat) : State := runChannel ch (fun q => entryFree q p) slotFuel s

/-- A request enters its channel queue, once there is an entry for it. -/
def enter (s : State) (r : DmcReq) : State :=
  let s := makeRoom s r.ch r.port
  let i := bankIx s r.ch r.loc
  let s := setBank s i (historyUpdate (bank s i) (reqRow s r))
  setDmcQueue s r.ch (dmcQueue s r.ch ++ [r])

/-- The request of `rq` for physical channel address `loc` of channel `ch`, arriving now. -/
def newReq (s : State) (rq : Requester) (write : Bool) (ch loc : Nat) (answer : Option Resp) : DmcReq :=
  ⟨write, rq.port, rq.src, reqClass s rq, ch, loc, answer, s.mono.toNat⟩

/-- A write request of `rq` enters. -/
def enterWrite (s : State) (rq : Requester) (ch loc : Nat) : State := enter s (newReq s rq true ch loc none)

/-- A request enters and is waited for: what has a better key goes first. -/
def serveReqNow (s : State) (r : DmcReq) : State := runChannel r.ch (fun q => !q.contains r) slotFuel (enter s r)

/-- A read of `rq` that is waited for. -/
def serveRead (s : State) (rq : Requester) (ch loc : Nat) : State := serveReqNow s (newReq s rq false ch loc none)

/-- Every request in the queue of channel `ch` completes. -/
def completeQueue (s : State) (ch : Nat) : State := foldS completeReq (dmcQueue s ch) (setDmcQueue s ch [])

/-- Every request in the queues completes (R270, R272). -/
def completeQueues (s : State) : State := foldS completeQueue [0, 1, 2, 3] s

/-- Every row closed and every bank refreshed at once (Table 10.2): what self-refresh entry begins with. -/
def allBankRefresh (s : State) : State :=
  { s with dmc := { s.dmc with
      banks := s.dmc.banks.filterMap (fun x =>
        let b : Bank := { closedBank x.2 with prevRow := none, owed := 0 }
        if b = Bank.reset then none else some (x.1, b))
      allRefreshed := s.mono.toNat } }

end Sys2Proof.Machine
end

