-- ==== Sys2Proof/Machine/MemPort.lean ====
section
/-! DEFINITION. Inline ECC (R248 to R253), the freeze of the DRAM controller (R272), the end of a frequency change (R270), and the reads and writes that every engine makes through its requester port. A request's data moves when it enters its channel queue, which is when R257 fixes what it reads or writes. -/

namespace Sys2Proof.Machine

/-- Location code of codeword `k` of the block at `p` (R250). -/
def dramLoc (s : State) (ch p k bit : Nat) : Nat :=
  locCode 6 ch (rankOf s p) (bankOf s p) (512 * rowOf s p + 8 * slice p 11 6 + k) bit

/-- Physical channel address of the check byte of local address `l` (R249). -/
def chkAddr (s : State) (l : Nat) : Nat := dmcData s + l / 8

/-! ### The ECC cache (R251) -/

/-- The ECC cache of channel `ch`. -/
def chkCache (s : State) (ch : Nat) : List ChkBlock := SMap.get [] s.dmc.cache ch

def setChkCache (s : State) (ch : Nat) (c : List ChkBlock) : State :=
  { s with dmc := { s.dmc with cache := SMap.put [] s.dmc.cache ch c } }

/-- Write one block of a channel's storage. -/
def putBlock (s : State) (ch p : Nat) (bs : List Byte) : State := { s with dram := putBytes s.dram (cellOf s ch p) bs }

/-- Write a cached check block back if it is dirty. -/
def chkWriteBack (ch : Nat) (s : State) (e : ChkBlock) : State := if e.dirty then putBlock s ch (e.blk * 64) e.bytes else s

/-- Evict a check block: a dirty one is written back in the class of the access `rq` that caused it (R251). -/
def chkEvict (rq : Requester) (ch : Nat) (s : State) (e : ChkBlock) : State :=
  if e.dirty then enterWrite (chkWriteBack ch s e) rq ch (e.blk * 64) else s

/-- Check block `blk` of channel `ch`, from the cache or read from DRAM in the class of the access `rq`, and the state with it at the head of the cache; a cache of more than 64 evicts the least recently used (R251). -/
def chkFetch (s : State) (rq : Requester) (ch blk : Nat) : ChkBlock × State :=
  match (chkCache s ch).find? (fun e => e.blk == blk) with
  | some e => (e, setChkCache s ch (e :: (chkCache s ch).filter (fun x => x.blk != blk)))
  | none =>
    let s := serveRead s rq ch (blk * 64)
    let e : ChkBlock := ⟨blk, false, getBytes s.dram (cellOf s ch (blk * 64)) 64⟩
    let c := e :: chkCache s ch
    if 64 < c.length then
      let s := match c.getLast? with
        | some old => chkEvict rq ch s old
        | none => s
      (e, setChkCache s ch c.dropLast)
    else (e, setChkCache s ch c)

/-- The check byte of the codeword at local address `l`. -/
def chkByte (s : State) (rq : Requester) (ch l : Nat) : Byte × State :=
  let p := chkAddr s l
  let r := chkFetch s rq ch (p / 64)
  (r.1.bytes.getD (p % 64) 0, r.2)

/-- Set the check byte of the codeword at local address `l`, in the cache. -/
def setChkByte (s : State) (rq : Requester) (ch l : Nat) (b : Byte) : State :=
  let p := chkAddr s l
  let r := chkFetch s rq ch (p / 64)
  let e : ChkBlock := ⟨p / 64, true, r.1.bytes.set (p % 64) b⟩
  setChkCache r.2 ch (e :: (chkCache r.2 ch).drop 1)

/-- Write every dirty check block back. -/
def chkFlush (s : State) (ch : Nat) : State :=
  let c := chkCache s ch
  setChkCache (foldS (chkWriteBack ch) c s) ch (c.map (fun e => { e with dirty := false }))

/-- Write every dirty check block of every channel back. -/
def chkFlushAll (s : State) : State := foldS chkFlush [0, 1, 2, 3] s

/-! ### Freeze (R272, R273) -/

/-- The DRAM controller is frozen. -/
def dmcFrozen (s : State) : Bool := rdb s Reg.DMC_STAT 4

/-- DMC_STAT.ready equals enable and not frozen. -/
def dmcReady (s : State) : State := wrb s Reg.DMC_STAT 0 (rdb s Reg.DMC_CTRL 0 && !dmcFrozen s)

/-- A held request is answered with an error response. -/
def refuseHeld (s : State) (r : PortReq) : State := answerReq s r.rq.port r.rq.src .error

/-- The requests held at port `p` are answered with error responses. -/
def refusePort (s : State) (p : Nat) : State := foldS refuseHeld (dmcHeld s p) (setDmcHeld s p [])

/-- The controller enters the frozen state (R272): it completes what its queues hold, writes the check blocks back, and from then on answers every port but 15 with error responses. -/
def dmcFreeze (s : State) : State :=
  let s := dmcReady (wrb s Reg.DMC_STAT 4 true)
  foldS refusePort (List.range 15) (chkFlushAll (completeQueues s))

/-- The first freezing error of the controller itself is recorded (R272, R273). -/
def dmcFreezeWith (s : State) (loc info : Nat) : State :=
  if dmcFrozen s then s
  else
    let s := wr2 s Reg.DMC_ERR_LOC_LO Reg.DMC_ERR_LOC_HI (loc + 2 ^ 50 * package s)
    dmcFreeze (wr s Reg.DMC_ERR_INFO (BitVec.ofNat 32 (info + 2 ^ 31)))

/-! ### Blocks with ECC (R248 to R254) -/

/-- Seeding has passed the group of local address `l` (R490). -/
def seeded (s : State) (ch l : Nat) : Bool := decide (l < SMap.get 0 s.dmc.seedPos ch)

/-- The reader of an uncorrectable-error record, by requester port; a scrubber read gives 4 (R253). -/
def portReader (port : Nat) : Nat := if port < 12 then 2 else if port = 13 ∨ port = 14 then 3 else if port = 16 then 4 else 5

/-- Write a corrected codeword back and count it (R252). `w` holds the 64 data bits and, above them, the check byte. -/
def fixCodeword (s : State) (rq : Requester) (ch l w bit : Nat) : State :=
  let s := enterWrite (putBlock s ch l (leBytes 8 w)) rq ch l
  let s := if 64 ≤ bit then setChkByte s rq ch l (BitVec.ofNat 8 (w >>> 64)) else s
  let s := orr (inc s Reg.DMC_ECC_CORR) Reg.DMC_INT_STAT 4
  raise s (corrRec srcDmc (dramLoc s ch l (slice l 5 3) bit))

/-- Check the codeword at local address `l`: its bytes, corrected, and whether it is uncorrectable. -/
def checkWord (s : State) (rq : Requester) (ch l : Nat) : List Byte × Bool × State :=
  let d := getBytes s.dram (cellOf s ch l) 8
  let c := chkByte s rq ch l
  match eccDecode 64 7 (leNat d + 2 ^ 64 * c.1.toNat) with
  | .good _ => (d, false, c.2)
  | .fixed x w bit => (leBytes 8 x, false, fixCodeword c.2 rq ch l w bit)
  | .bad => (d, true, c.2)

/-- Check codewords of a block from local address `l`, `n` of them; answers the corrected bytes and the first uncorrectable codeword. -/
def checkWords (rq : Requester) : Nat → State → Nat → Nat → List Byte × Option Nat × State
  | 0, s, _, _ => ([], none, s)
  | n + 1, s, ch, l =>
    let c := checkWord s rq ch l
    let r := checkWords rq n c.2.2 ch (l + 8)
    (c.1 ++ r.1, if c.2.1 then some l else r.2.1, r.2.2)

/-- An uncorrectable codeword: count, record, freeze (R253). -/
def uncorrectable (s : State) (rq : Requester) (ch l : Nat) : State :=
  let s := orr (inc s Reg.DMC_ECC_UNC) Reg.DMC_INT_STAT 8
  let loc := dramLoc s ch l (slice l 5 3) 255
  dmcFreezeWith (raise s (uncRec srcDmc (portReader rq.port) loc)) loc (ch * 16 + rq.port % 16)

/-- Read the 64-byte block at local address `l` of channel `ch` with its ECC; none for an uncorrectable error. -/
def readBlockAt (s : State) (rq : Requester) (ch l : Nat) : Option (List Byte) × State :=
  if seeded s ch l then
    let r := checkWords rq 8 s ch l
    match r.2.1 with
    | some bad => (none, uncorrectable r.2.2 rq ch bad)
    | none => (some r.1, r.2.2)
  else (some (getBytes s.dram (cellOf s ch l) 64), s)

/-- Write whole codewords and their check bytes at local address `l`. -/
def writeWords (rq : Requester) (ch l : Nat) : Nat → List Byte → State → State
  | 0, _, s => s
  | n + 1, bs, s =>
    let d := bs.take 8
    let s := putBlock s ch l d
    let s := setChkByte s rq ch l (BitVec.ofNat 8 (eccEncode 64 7 (leNat d) >>> 64))
    writeWords rq ch (l + 8) n (bs.drop 8) s

/-- Does installed DRAM hold `[a, a+n)` (R247)? -/
def inDram (s : State) (a n : Nat) : Bool := decide (a + n ≤ installed s)

/-- What the controller says to a request before any DRAM access: served, an error response that is logged, or a silent error response (R247, R272, R274). -/
inductive PortCheck where
  | serve
  | logged
  | silent
  deriving DecidableEq, Repr

/-- The check of a request for `[a, a+n)` at port `port`. -/
def portCheck (s : State) (port a n : Nat) : PortCheck :=
  if dmcFrozen s && port != 15 then .silent
  else if !rdb s Reg.DMC_CTRL 0 then .logged
  else if !inDram s a n then .logged
  else .serve

/-- A request the controller turns away: the ACCESS record it logs. -/
def portRefuse (s : State) (c : PortCheck) (port a : Nat) (write : Bool) : State :=
  match c with
  | .logged => raise s (accessRec srcDmc write false port a)
  | _ => s

/-- The data of the block at physical address `64 × b`. -/
def blockData (s : State) (rq : Requester) (b : Nat) : Option (List Byte) × State :=
  match portCheck s rq.port (b * 64) 64 with
  | .serve => readBlockAt s rq (chanOf s (b * 64)) (localOf s (b * 64))
  | c => (none, portRefuse s c rq.port (b * 64) false)

/-- Read the block at physical address `64 × b`: the request is queued and waited for. -/
def dramReadBlock (s : State) (rq : Requester) (b : Nat) : Option (List Byte) × State :=
  match blockData s rq b with
  | (some d, s) => (some d, serveRead s rq (chanOf s (b * 64)) (localOf s (b * 64)))
  | (none, s) => (none, s)

/-- Write bytes at physical address `a`, within one block: the request is queued. A write of part of a codeword reads the block first (R251). -/
def dramWriteBlock (s : State) (rq : Requester) (a : Nat) (bs : List Byte) : Bool × State :=
  match portCheck s rq.port (a / 64 * 64) 64 with
  | .serve =>
    let ch := chanOf s a
    let l := localOf s a
    if a % 8 = 0 ∧ bs.length % 8 = 0 then (true, enterWrite (writeWords rq ch l (bs.length / 8) bs s) rq ch (l / 64 * 64))
    else
      match readBlockAt (serveRead s rq ch (l / 64 * 64)) rq ch (l / 64 * 64) with
      | (some old, s) =>
        (true, enterWrite (writeWords rq ch (l / 64 * 64) 8 (patch old (l % 64) bs) s) rq ch (l / 64 * 64))
      | (none, s) => (false, s)
  | c => (false, portRefuse s c rq.port a true)

/-! ### Requests held at a port (R256) -/

/-- A request enters its channel queue: a write is acknowledged then (R257), a read answered when it completes, and either with an error response when the controller turns it away or its block is uncorrectable. -/
def enterQueue (s : State) (r : PortReq) : State :=
  if r.write then
    let w := dramWriteBlock s r.rq r.addr r.data
    answerReq w.2 r.rq.port r.rq.src (if w.1 then .ack else .error)
  else match blockData s r.rq (r.addr / 64) with
    | (some d, s) => reply (enter s (newReq s r.rq false (chanOf s r.addr) (localOf s r.addr / 64 * 64) (some (.bytes d)))) .held
    | (none, s) => answerReq s r.rq.port r.rq.src .error

/-- The requests held at port `p` enter before a later one of the port. -/
def clearPort (s : State) (p : Nat) : State := foldS enterQueue (dmcHeld s p) (setDmcHeld s p [])

/-! ### Retraining and the end of a frequency change (R266 to R270) -/

def retrain (s : State) (ch : Nat) : Retrain := SMap.get Retrain.reset s.dmc.retrain ch

def setRetrain (s : State) (ch : Nat) (r : Retrain) : State :=
  { s with dmc := { s.dmc with retrain := SMap.put Retrain.reset s.dmc.retrain ch r } }

/-- A command-path error of a kind on a channel (R271, R273). -/
def commandError (s : State) (kind ch port : Nat) : State :=
  let s := orr (inc s Reg.DMC_CMD_ERRS) Reg.DMC_INT_STAT 0x10
  let s := raise s { src := srcDmc, sev := 3, code := 0x30, arg := BitVec.ofNat 32 (kind * 256 + ch * 16), loc := 0, pkg := true }
  dmcFreezeWith s 0 (2 ^ 30 + kind * 256 + ch * 16 + port)

/-- What a readback finds on a channel: no change of its delay, a new delay, or one that would leave its range (R268). -/
def moveDelay (d : Option (Option Nat)) (ch : Nat) (s : State) : State :=
  match d with
  | some (some x) => setRetrain s ch { retrain s ch with delay := some x }
  | some none => commandError s 4 ch 0
  | none => s

/-- A retraining of every channel at time now, with what it finds on each. -/
def retrainAll (delays : List (Option Nat)) (s : State) : State :=
  foldS (fun s ch =>
    moveDelay delays[ch]? ch (setRetrain (inc s Reg.DMC_RETRAIN_COUNT) ch { retrain s ch with last := s.mono.toNat }))
    (List.range (dmcChans s)) s

/-- Steps 4 to 7 of a change to set point `t`, without the release of the held requests (R270). -/
def finishFreq (s : State) (t : Nat) (delays : List (Option Nat)) : State :=
  let s := wrf s Reg.DMC_FREQ 1 0 t
  let s := wrb s Reg.DMC_FREQ 2 (!rdb s Reg.DMC_FREQ 2)
  let s := retrainAll delays { s with dmc := { s.dmc with freq := .idle, selfRefresh := false } }
  orr (inc (wrb s Reg.DMC_STAT 3 false) Reg.DMC_FREQ_COUNT) Reg.DMC_INT_STAT 0x40

/-- What the readbacks of all channels find now. -/
def readbacks (s : State) : List (Option Nat) := (List.range 4).map (Config.readback s.freeCtr)

/-- A request that meets a frequency change waits for its end. -/
def awaitFreq (s : State) : State :=
  match s.dmc.freq with
  | .changing t => finishFreq s t []
  | _ => s

/-! ### Reads and writes of engines -/

/-- A request of `rq` waits for the end of a frequency change and for the requests held at its port (R256, R270). -/
def portTurn (s : State) (rq : Requester) : State := clearPort (awaitFreq s) rq.port

/-- Read blocks `b`, `b+1`, …; none at the first error response. -/
def readBlocks (rq : Requester) : Nat → Nat → State → Option (List Byte) × State
  | 0, _, s => (some [], s)
  | n + 1, b, s =>
    match dramReadBlock s rq b with
    | (none, s) => (none, s)
    | (some d, s) =>
      match readBlocks rq n (b + 1) s with
      | (some t, s) => (some (d ++ t), s)
      | (none, s) => (none, s)

/-- An access of `rq` to shared SRAM outside its general region, or above it, is answered with an error response and logged (R142, R170, R278, R302). -/
def sramRefuse (s : State) (rq : Requester) (a : Nat) (write : Bool) : State :=
  raise s (accessRec (sramSrc (a - sramBase)) write false rq.port a)

/-- `rq` reads `n` bytes at physical address `a`; none is an error response. -/
def memRead (s : State) (rq : Requester) (a n : Nat) : Option (List Byte) × State :=
  if n = 0 then (some [], s)
  else if a < sramBase then
    match readBlocks rq ((a + n - 1) / 64 + 1 - a / 64) (a / 64) (portTurn s rq) with
    | (some d, s) => (some (sub d (a % 64) n), s)
    | (none, s) => (none, s)
  else if inGeneral a n then (some (getBytes s.sram (a - sramBase) n), s)
  else (none, sramRefuse s rq a false)

/-- Write bytes block by block from physical address `a`; the fuel is the number of blocks. -/
def writeBlocks (rq : Requester) : Nat → Nat → List Byte → State → Bool × State
  | 0, _, _, s => (true, s)
  | n + 1, a, bs, s =>
    let k := 64 - a % 64
    match dramWriteBlock s rq a (bs.take k) with
    | (false, s) => (false, s)
    | (true, s) => if bs.drop k = [] then (true, s) else writeBlocks rq n (a + k) (bs.drop k) s

/-- `rq` writes bytes at physical address `a`; false is an error response. -/
def memWrite (s : State) (rq : Requester) (a : Nat) (bs : List Byte) : Bool × State :=
  if bs = [] then (true, s)
  else if a < sramBase then writeBlocks rq ((a + bs.length - 1) / 64 + 1 - a / 64) a bs (portTurn s rq)
  else if inGeneral a bs.length then (true, sramWrite s (a - sramBase) bs)
  else (false, sramRefuse s rq a true)

/-- A write whose error response nobody waits for. -/
def memWrite_ (s : State) (rq : Requester) (a : Nat) (bs : List Byte) : State := (memWrite s rq a bs).2

/-- Make a job's writes in order; false at an error response. -/
def memWrites (rq : Requester) : List (Nat × List Byte) → State → Bool × State
  | [], s => (true, s)
  | (a, b) :: t, s =>
    match memWrite s rq a b with
    | (true, s) => memWrites rq t s
    | (false, s) => (false, s)

/-! ### The requesters (Table 10.4) -/

/-- DMA channel `chan` of tile `n`, in the class of its control register. -/
def dmaPort (n chan cls : Nat) : Requester := ⟨n / 8, 2 * (n % 8) + chan, some cls⟩

/-- The sources of port 13: 0 Traverse, 1 to 4 the sample-rate engines, 5 the billet engine, 6 the deflate engine, 7 the cipher engine. -/
def accelPort (src cls : Nat) : Requester := ⟨13, src, some cls⟩

/-- The packet path, in the default class of port 14. -/
def pktPort : Requester := ⟨14, 0, none⟩

/-- Benchmark, in the default class of port 15. -/
def bmkPort : Requester := ⟨15, 0, none⟩

/-- The fabric router, in the default class of port 15. -/
def fabPort : Requester := ⟨15, 1, none⟩

/-- An access by software. -/
def whoPort : Who → Requester
  | .core c => ⟨12, c.val, none⟩
  | .bmk => bmkPort

end Sys2Proof.Machine
end

