-- ==== Sys2Proof/Machine/Operands.lean ====
section
/-! DEFINITION. The operand forms of the tile: registers by class (R76), lanes, double-tenths, byte views (R24, R97), predicates (R21, R77), address registers and rings (R33). -/

namespace Sys2Proof.Machine

/-- Tile `n`. -/
def tileAt (s : State) (n : Nat) : Tile := SMap.get Tile.reset s.tiles n

/-- Replace tile `n`. -/
def setTile (s : State) (n : Nat) (t : Tile) : State := { s with tiles := SMap.put Tile.reset s.tiles n t }

/-- Change tile `n`. -/
def modTile (s : State) (n : Nat) (f : Tile → Tile) : State := setTile s n (f (tileAt s n))

/-! ### Registers -/

def getV (t : Tile) (i : Nat) : BitVec 167 := SMap.get 0 t.v i
def putV (t : Tile) (i : Nat) (x : BitVec 167) : Tile := { t with v := SMap.put 0 t.v i x }
def getS (t : Tile) (i : Nat) : Word := SMap.get 0 t.s i
def putS (t : Tile) (i : Nat) (x : Word) : Tile := { t with s := SMap.put 0 t.s i x }

/-- P0 always reads as 0xFFFF (R21). -/
def getP (t : Tile) (i : Nat) : BitVec 16 := if i = 0 then 0xFFFF else SMap.get 0 t.p i

/-- Writes to P0 are ignored (R21). -/
def putP (t : Tile) (i : Nat) (x : BitVec 16) : Tile := if i = 0 then t else { t with p := SMap.put 0 t.p i x }

def getA (t : Tile) (i : Nat) : BitVec 13 := SMap.get 0 t.a i
def putA (t : Tile) (i : Nat) (x : Nat) : Tile := { t with a := SMap.put 0 t.a i (BitVec.ofNat 13 x) }
def getABase (t : Tile) (i : Nat) : BitVec 13 := SMap.get 0 t.abase i
def putABase (t : Tile) (i : Nat) (x : Nat) : Tile := { t with abase := SMap.put 0 t.abase i (BitVec.ofNat 13 x) }
def getALen (t : Tile) (i : Nat) : BitVec 14 := SMap.get 0 t.alen i
def putALen (t : Tile) (i : Nat) (x : Nat) : Tile := { t with alen := SMap.put 0 t.alen i (BitVec.ofNat 14 x) }

/-- ring(A*i*, *n*): the value R33 gives A*i* after an update by `n`. -/
def ring (t : Tile) (i : Nat) (n : Int) : Nat :=
  let a : Int := (getA t i).toNat
  let b : Int := (getABase t i).toNat
  let l : Int := (getALen t i).toNat
  let r := if l = 0 then a + n else b + (a - b + n) % l
  (r % 8192).toNat

/-! ### Lanes of a word (R23) -/

/-- Mantissa of lane `i`. -/
def laneM {w : Nat} (v : BitVec w) (i : Nat) : Int := sext 10 (v.toNat >>> (10 * i))

/-- Exponent of a word. -/
def expOf (v : BitVec 167) : Int := sext 6 (v.toNat >>> 160)

/-- Tag of a word. -/
def tagOf (v : BitVec 167) : Nat := (v.toNat >>> 166) % 2

/-- Data bits of a word. -/
def dataOf (v : BitVec 167) : Nat := v.toNat % 2 ^ 160

/-- A word of data bits, exponent and tag. -/
def mkWord (data : Nat) (e : Int) (tag : Nat) : BitVec 167 :=
  BitVec.ofNat 167 (data % 2 ^ 160 + 2 ^ 160 * trunc 6 e + 2 ^ 166 * tag)

/-- Data bits of 16 mantissas, lane 0 first. -/
def packLanes : List Int → Nat
  | [] => 0
  | m :: ms => trunc 10 m + 1024 * packLanes ms

/-- The 16 lane numbers. -/
def lanes : List Nat := [0, 1, 2, 3, 4, 5, 6, 7, 8, 9, 10, 11, 12, 13, 14, 15]

/-- The mantissas of a word. -/
def mants (v : BitVec 167) : List Int := lanes.map (laneM v)

/-- Double-tenth mantissa of lane `i` of the pair `hi`, `lo` (R24). -/
def laneD (hi lo : BitVec 167) (i : Nat) : Int := laneM hi i * 1024 + ((lo.toNat >>> (10 * i)) % 1024 : Nat)

/-- The double-tenth mantissas of a pair. -/
def mantsD (hi lo : BitVec 167) : List Int := lanes.map (laneD hi lo)

/-- Merge new mantissas into old ones under a lane mask. -/
def mergeLanes (mask : BitVec 16) (new old : List Int) : List Int :=
  lanes.map (fun i => if mask.getLsbD i then new.getD i 0 else old.getD i 0)

/-- Byte `j` of the byte view of a pair (R97). -/
def viewByte (hi lo : BitVec 167) (j : Nat) : Byte :=
  BitVec.ofNat 8 (if j < 20 then hi.toNat >>> (8 * j) else lo.toNat >>> (8 * (j - 20)))

/-- The 40 bytes of the byte view of a pair. -/
def viewBytes (hi lo : BitVec 167) : List Byte := leBytes 20 (dataOf hi) ++ leBytes 20 (dataOf lo)

/-! ### Accumulators -/

/-- Lane `i` of accumulator `n`. -/
def getAcc (t : Tile) (n i : Nat) : Int := sint (SMap.get 0 t.acc (16 * n + i))
def putAcc (t : Tile) (n i : Nat) (x : Int) : Tile := { t with acc := SMap.put 0 t.acc (16 * n + i) (ofSint 56 x) }

/-- ACCE of accumulator `n`. -/
def getAcce (t : Tile) (n : Nat) : Int := sint (SMap.get 0 t.acce n)
def putAcce (t : Tile) (n : Nat) (e : Int) : Tile := { t with acce := SMap.put 0 t.acce n (ofSint 8 e) }

/-- ACCV of accumulator `n`. -/
def getAccv (t : Tile) (n : Nat) : BitVec 16 := SMap.get 0 t.accv n
def putAccv (t : Tile) (n : Nat) (x : BitVec 16) : Tile := { t with accv := SMap.put 0 t.accv n x }

/-- One ACCV bit. -/
def setAccvBit (t : Tile) (n i : Nat) (b : Bool) : Tile := putAccv t n (setBit (getAccv t n) i b)

end Sys2Proof.Machine
end

