-- ==== Sys2Proof/Machine/Flags.lean ====
section
/-! DEFINITION. Rounding, narrowing with SATF (R25 to R28), accumulation with ACCV (R30 to R32). -/

namespace Sys2Proof.Machine

/-- rnd of R26: a rational `num / den` to an integer in rounding mode `m` (Table 2.2). `den` is positive. -/
def rndQ (m : Nat) (num : Int) (den : Nat) : Int :=
  let q := num / (den : Int)
  let r := num % (den : Int)
  match m with
  | 0 => if 2 * r < den then q else if (den : Int) < 2 * r then q + 1 else if q % 2 = 0 then q else q + 1
  | 1 => if 2 * r < den then q else if (den : Int) < 2 * r then q + 1 else if 0 ≤ num then q + 1 else q
  | 2 => if num < 0 ∧ r ≠ 0 then q + 1 else q
  | _ => q

/-- rnd(num / den × 2^s). -/
def rndShift (m : Nat) (num : Int) (den : Nat) (s : Int) : Int :=
  if 0 ≤ s then rndQ m (num * (2 ^ s.toNat : Nat)) den else rndQ m num (den * 2 ^ (-s).toNat)

/-- An exact lane result, `num / den`; an exponent `k` common to the lanes goes with it (R25). -/
abbrev Exact := Int × Nat

/-- A mantissa and whether it saturated. -/
abbrev Narrowed := Int × Bool

/-- Narrow one lane at exponent `e` to width `w`. -/
def narrowLane (m w : Nat) (k e : Int) (x : Exact) : Narrowed :=
  let r := rndShift m x.1 x.2 (k - e + (w - 1 : Nat))
  let hi : Int := (2 ^ (w - 1) : Nat) - 1
  let lo : Int := -(2 ^ (w - 1) : Nat)
  if hi < r then (hi, true) else if r < lo then (lo, true) else (r, false)

/-- narrow_fixed of R25. -/
def narrowFixed (m w : Nat) (xs : List Exact) (k e : Int) : List Narrowed := xs.map (narrowLane m w k e)

/-- The exponents of a tenth, rising. -/
def exponents : List Int := (List.range 64).map (fun (i : Nat) => (i : Int) - 32)

/-- The exponent narrow_norm of R25 chooses. -/
def normExp (m w : Nat) (xs : List Exact) (k : Int) : Int :=
  if xs.all (fun x => x.1 == 0) then -32
  else (exponents.find? (fun e => (narrowFixed m w xs k e).all (fun r => !r.2))).getD 31

/-- How a result is narrowed: normalised, or at a fixed exponent. -/
inductive Narrow where
  | norm
  | fixed (e : Int)
  deriving DecidableEq, Repr

/-- The exponent of a full-width write. -/
def narrowExp (m w : Nat) (n : Narrow) (xs : List Exact) (k : Int) : Int :=
  match n with
  | .norm => normExp m w xs k
  | .fixed e => e

/-- The SATF bits that a list of narrowed lanes sets, under a mask. -/
def satMask (mask : BitVec 16) (rs : List Narrowed) : BitVec 16 :=
  BitVec.ofNat 16 ((lanes.map (fun i => if mask.getLsbD i && (rs.getD i (0, false)).2 then 2 ^ i else 0)).sum)

/-- Set SATF bits; they are sticky (R28). -/
def setSat (t : Tile) (m : BitVec 16) : Tile := { t with satf := t.satf ||| m }

/-- Whole numbers as exact results. -/
def exactInts (xs : List Int) : List Exact := xs.map (fun x => (x, 1))

/-- Write exact results to vector register `d` (R25, R27, R77, R78): with every lane active at the exponent of `n` with tag `tag`, under a partial mask at the destination's current exponent, its exponent and tag kept. -/
def writeTenth (t : Tile) (m d : Nat) (mask : BitVec 16) (n : Narrow) (xs : List Exact) (k : Int) (tag : Nat) : Tile :=
  let old := getV t d
  if mask = 0xFFFF then
    let e := narrowExp m 10 n xs k
    let r := narrowFixed m 10 xs k e
    setSat (putV t d (mkWord (packLanes (r.map (·.1))) e tag)) (satMask mask r)
  else
    let r := narrowFixed m 10 xs k (expOf old)
    let ms := mergeLanes mask (r.map (·.1)) (mants old)
    setSat (putV t d (mkWord (packLanes ms) (expOf old) (tagOf old))) (satMask mask r)

/-- The hi and lo mantissas of 20-bit ones (R24). -/
def hiMant (x : Int) : Int := x / 1024
def loMant (x : Int) : Int := x % 1024

/-- Write exact results to the double-tenth pair `d`, `d`+1 (R24, R25, R27). -/
def writePair (t : Tile) (m d : Nat) (mask : BitVec 16) (n : Narrow) (xs : List Exact) (k : Int) (tag : Nat) : Tile :=
  let hi := getV t d
  let lo := getV t (d + 1)
  if mask = 0xFFFF then
    let e := narrowExp m 20 n xs k
    let r := narrowFixed m 20 xs k e
    let ms := r.map (·.1)
    setSat (putV (putV t d (mkWord (packLanes (ms.map hiMant)) e tag)) (d + 1) (mkWord (packLanes (ms.map loMant)) e tag))
      (satMask mask r)
  else
    let r := narrowFixed m 20 xs k (expOf hi)
    let ms := mergeLanes mask (r.map (·.1)) (mantsD hi lo)
    setSat (putV (putV t d (mkWord (packLanes (ms.map hiMant)) (expOf hi) (tagOf hi))) (d + 1)
      (mkWord (packLanes (ms.map loMant)) (expOf lo) (tagOf lo))) (satMask mask r)

/-! ### Accumulation -/

/-- wrap56 (R30). -/
def wrap56 (x : Int) : Int := (x + (2 ^ 55 : Nat)) % (2 ^ 56 : Nat) - (2 ^ 55 : Nat)

/-- align of the file's helpers: exact for a left shift, rounded for a right shift. -/
def align (m : Nat) (p s : Int) : Int := if 0 ≤ s then p * (2 ^ s.toNat : Nat) else rndQ m p (2 ^ (-s).toNat)

/-- acc_add: add `x` to lane `i` of accumulator `n`; ACCV is set on a wrap (R30, R32). -/
def accAdd (t : Tile) (n i : Nat) (x : Int) : Tile :=
  let a := getAcc t n i + x
  let t := putAcc t n i (wrap56 a)
  if a < -(2 ^ 55 : Nat) ∨ (2 ^ 55 : Nat) - 1 < a then setAccvBit t n i true else t

/-- Clear lane `i` of accumulator `n` with its ACCV bit. -/
def accClearLane (t : Tile) (n i : Nat) : Tile := setAccvBit (putAcc t n i 0) n i false

end Sys2Proof.Machine
end

