-- ==== Sys2Proof/Machine/TilePipe.lean ====
section
/-! DEFINITION. The pipeline of a tile (R28, R39 to R44, R49, R53, R115): which results are still under way, when the next bundle can issue, and the stall cycles that this costs. -/

namespace Sys2Proof.Machine

/-- What a bundle asks of the pipeline: registers it reads, registers it writes with their classes, the accumulator it adds to, whether it reads SATF, and its demands on the data banks. -/
structure Demand where
  reads : List Nat
  writes : List (Nat × Nat)
  mac : Option Nat
  satRead : Bool
  stores : List (Nat × Nat)
  loads : List Nat
  deriving DecidableEq, Repr

/-- The pipeline of tile `n`. -/
def pipeAt (s : State) (n : Nat) : Pipe := SMap.get Pipe.reset s.pipes n

/-- Change it. -/
def modPipe (s : State) (n : Nat) (f : Pipe → Pipe) : State := { s with pipes := SMap.put Pipe.reset s.pipes n (f (pipeAt s n)) }

/-- The slots that the stores in E3 take of bank `b` (R48). -/
def storeSlots (p : Pipe) (b : Nat) : Nat :=
  (((p.flights.filter (fun f => f.age == 2)).flatMap (·.stores)).filter (fun x => x.1 == b)).foldl (fun n x => n + x.2) 0

/-- A load in E2 is denied a slot of its bank: the bank has two, and the stores in E3 come first (R48, R49). -/
def denied (p : Pipe) (f : Flight) : Bool :=
  f.age == 1 && !f.retried && f.loads.any (fun b => decide (2 < storeSlots p b + f.loads.count b))

/-- The bundle stays in its stage for a cycle: its load is denied, or its corrected word holds it in E3 (R49, R53). -/
def stays (p : Pipe) (f : Flight) : Bool := denied p f || (f.age == 2 && f.fixed)

/-- One more cycle in the stages. -/
def Flight.older (f : Flight) : Flight := { f with age := f.age + 1 }

/-- The cycle in which the bundle is held has passed. -/
def Flight.held (f : Flight) : Flight := { f with retried := f.retried || f.age == 1, fixed := f.fixed && f.age != 2 }

/-- One tile cycle: the oldest bundle that stays holds every younger one with it; a denied load counts a stall (R49). -/
def pipeCycle (p : Pipe) : Pipe :=
  let fs := p.flights.reverse
  let free := fs.takeWhile (fun f => !stays p f)
  let kept := fs.drop free.length
  { p with
    flights := (free.map Flight.older ++ kept.map Flight.held).reverse.filter (fun f => decide (f.age < 5))
    gap := p.gap - 1
    blocked := !kept.isEmpty
    bankStalls := if p.flights.any (denied p) then p.bankStalls + 1 else p.bankStalls }

/-- The youngest bundle in flight that writes register `r`, with the class of the write, and whether it is the directly preceding bundle. -/
def lastWrite (p : Pipe) (r : Nat) : Option (Flight × Nat × Bool) :=
  match p.flights with
  | [] => none
  | f :: fs =>
    match f.writes.find? (fun w => w.1 == r) with
    | some w => some (f, w.2, true)
    | none => fs.findSome? (fun f => (f.writes.find? (fun w => w.1 == r)).map (fun w => (f, w.2, false)))

/-- A read of `r` must wait: its last write has not completed, and is no running sum that the part forwards (R42, R43). -/
def readWaits (p : Pipe) (mac : Option Nat) (r : Nat) : Bool :=
  match lastWrite p r with
  | none => false
  | some (f, l, prev) => decide (f.age < l) && !(prev && mac == some r && f.mac == some r)

/-- A write of `r` of class `l` must wait for an older one that would land after it (R44). -/
def writeWaits (p : Pipe) (r l : Nat) : Bool :=
  p.flights.any (fun f => f.writes.any (fun w => w.1 == r && decide (f.age + l < w.2)))

/-- The SATF bits that bundles in flight set in this cycle or later (R28). -/
def landing (p : Pipe) : BitVec 16 :=
  p.flights.foldl (fun m f => f.sat.foldl (fun m x => if f.age < x.1 then m ||| x.2 else m) m) 0

/-- SATF is still to be written by a bundle in flight. -/
def satWaits (p : Pipe) : Bool := p.flights.any (fun f => f.sat.any (fun x => decide (f.age < x.1)))

/-- The register interlock holds the bundle (R42 to R44). P0 is never written (R21). -/
def interlocked (p : Pipe) (d : Demand) : Bool :=
  d.reads.any (fun r => r != 48 && readWaits p d.mac r) || d.writes.any (fun w => writeWaits p w.1 w.2) || (d.satRead && satWaits p)

/-- The bundle can issue in this cycle. -/
def pipeReady (p : Pipe) (d : Demand) : Bool := !p.blocked && p.gap == 0 && !interlocked p d

/-- Cycles pass until the bundle can issue; one that the register interlock alone costs counts a stall. -/
def pipeWait (d : Demand) : Nat → Pipe → Pipe
  | 0, p => p
  | n + 1, p =>
    if pipeReady p d then p
    else
      let q := pipeCycle p
      pipeWait d n { q with
        owed := p.owed + 1
        ilStalls := if p.blocked || p.gap != 0 then p.ilStalls else p.ilStalls + 1 }

/-- The bundle comes to issue as soon as it can: the cycle after the last issue, and the stalls. No wait lasts 16 cycles. -/
def pipeEnter (d : Demand) (p : Pipe) : Pipe := pipeWait d 16 { pipeCycle p with owed := 0 }

/-- The bundle has issued; the next one follows in the next cycle, or `gap` cycles later (R39, R115). -/
def pipeIssue (d : Demand) (gap : Nat) (p : Pipe) : Pipe :=
  { p with
    flights := ⟨0, d.writes, d.mac, p.sat, d.stores, d.loads, false, p.fixed⟩ :: p.flights
    gap := gap + 1, sat := [], fixed := false }

/-- The bundles in flight complete: the tile waits, stops or is reset (R111). -/
def pipeDrain (p : Pipe) : Pipe := { p with flights := [], gap := 0, blocked := false, owed := 0, sat := [], fixed := false }

/-- The bundle that issues sets SATF bits, with the class of its instruction. -/
def satNote (s : State) (n l : Nat) (m : BitVec 16) : State :=
  if m = 0 then s else modPipe s n (fun p => { p with sat := (l, m) :: p.sat })

end Sys2Proof.Machine
end

