-- ==== Sys2Proof/Machine/TileMem.lean ====
section
/-! DEFINITION. Tile memories with ECC (R46 to R56), and the tile faults (R129 to R132). -/

namespace Sys2Proof.Machine

/-- Location code of tile `n` (Table 1.4). -/
def tileLoc (n bank word bit : Nat) : Nat := locCode (n / 24) (n / 8 % 3) (n % 8) bank word bit

/-- Location code of data word `a`: its bank and row (R46). -/
def dmemLoc (n a bit : Nat) : Nat := tileLoc n (a % 8) (a / 8) bit

/-- Location code of bundle `b`. -/
def imemLoc (n b bit : Nat) : Nat := tileLoc n 16 b bit

/-- Count a corrected error, record it and queue the write-back (R53). -/
def tileCorrected (s : State) (n : Nat) (imem : Bool) (a bit : Nat) (word : Nat) : State :=
  let s := inc s (Reg.TILE_ECC_CORR n)
  let s := wr s (Reg.TILE_ECC_LAST n) (BitVec.ofNat 32 (2 ^ 31 * imem.toNat + 2 ^ 16 * a + bit))
  let s := raise s (corrRec srcTile (if imem then imemLoc n a bit else dmemLoc n a bit))
  modTile s n (fun t => { t with writeBacks := t.writeBacks ++ [⟨imem, a, word⟩] })

/-- Read data word `a` of tile `n` with its ECC, for reader `reader` (Table 17.2); none for an uncorrectable error. -/
def tmRead (s : State) (n a reader : Nat) : Option (BitVec 167) × State :=
  match eccDecode 167 8 (SMap.get 0 (tileAt s n).dmem a).toNat with
  | .good d => (some (BitVec.ofNat 167 d), s)
  | .fixed d w bit => (some (BitVec.ofNat 167 d), tileCorrected s n false a bit w)
  | .bad => (none, raise s (uncRec srcTile reader (dmemLoc n a 255)))

/-- Read bundle `b` of tile `n` with its ECC. -/
def imRead (s : State) (n b reader : Nat) : Option Bundle × State :=
  match eccDecode 128 8 (SMap.get 0 (tileAt s n).imem b).toNat with
  | .good d => (some (BitVec.ofNat 128 d), s)
  | .fixed d w bit => (some (BitVec.ofNat 128 d), tileCorrected s n true b bit w)
  | .bad => (none, raise s (uncRec srcTile reader (imemLoc n b 255)))

/-- Store data word `a` with fresh ECC (R56); a queued write-back of the word is cancelled (R53). -/
def tmWrite (s : State) (n a : Nat) (x : BitVec 167) : State :=
  modTile s n (fun t => { t with
    dmem := SMap.put 0 t.dmem a (BitVec.ofNat 176 (eccEncode 167 8 x.toNat)),
    writeBacks := t.writeBacks.filter (fun w => w.imem || w.addr != a) })

/-- Store bundle `b` with fresh ECC. -/
def imWrite (s : State) (n b : Nat) (x : Bundle) : State :=
  modTile s n (fun t => { t with
    imem := SMap.put 0 t.imem b (BitVec.ofNat 137 (eccEncode 128 8 x.toNat)),
    writeBacks := t.writeBacks.filter (fun w => !w.imem || w.addr != b) })

/-! ### Faults -/

/-- Codes of Table 4.9. -/
def fltIllegal : Nat := 1
def fltLoop : Nat := 2
def fltTag : Nat := 3
def fltMemD : Nat := 4
def fltMemI : Nat := 5
def fltAlign : Nat := 6
def fltTask : Nat := 7
def fltQueue : Nat := 8

/-- The tile stops with its TRV_TSTOP bit set (R118, R468). -/
def tileStopEvent (s : State) (n : Nat) : State := orr s (Reg.TRV_TSTOP (n / 32)) (BitVec.ofNat 32 (2 ^ (n % 32)))

/-- A tile fault (R132): run cleared, fault registers written, record and event sent. `pc` is the faulting bundle. -/
def tileFault (s : State) (n pc code slots info loc : Nat) : State :=
  let f := BitVec.ofNat 32 (2 ^ 31 + 2 ^ 16 * pc + slots * 256 + code)
  let s := modPipe (wrb s (Reg.TILE_CTRL n) 0 false) n pipeDrain
  let s := modTile s n (fun t => { t with faulted := true, wait := none, answer := none, late := none })
  let s := wr s (Reg.TILE_FAULT n) f
  let s := wr s (Reg.TILE_FAULT_INFO n) (BitVec.ofNat 32 info)
  let s := inc s (Reg.TILE_FAULT_COUNT n)
  let s := raise s { src := srcTile, sev := 2, code := 0x20, arg := f, loc := loc, pkg := true }
  orr s (Reg.TRV_TFAULT (n / 32)) (BitVec.ofNat 32 (2 ^ (n % 32)))

/-- A fault that a load or partial store finds after issue (R131); the first one of the bundle stays. -/
def lateFault (s : State) (n code info loc : Nat) : State :=
  modTile s n (fun t => match t.late with
    | some _ => t
    | none => { t with late := some (code, 8, info, loc) })

/-- A tile load reads word `a`; a corrected word holds the bundle in E3 for a cycle (R53). -/
def loadRead (s : State) (n a : Nat) : Option (BitVec 167) × State :=
  let r := tmRead s n a 0
  match eccDecode 167 8 (SMap.get 0 (tileAt s n).dmem a).toNat with
  | .fixed _ _ _ => (r.1, modPipe r.2 n (fun p => { p with fixed := true }))
  | _ => r

/-- A tile load of word `a` (R54, R58): none, and a fault, for an uncorrectable word or a trapped tag. -/
def tileLoad (s : State) (n a : Nat) : Option (BitVec 167) × State :=
  match loadRead s n a with
  | (none, s) => (none, lateFault s n fltMemD 0 (dmemLoc n a 255))
  | (some w, s) =>
    if tagOf w = 1 && rdb s (Reg.TILE_CTRL n) 15 then (none, lateFault s n fltTag a (tileLoc n 0 0 0)) else (some w, s)

/-- A partial store (R47, R56): the selected lanes of `x` are merged into the corrected old word. -/
def tilePartial (s : State) (n a : Nat) (f : BitVec 167 → BitVec 167) : State :=
  match tmRead s n a 0 with
  | (none, s) => lateFault s n fltMemD 0 (dmemLoc n a 255)
  | (some w, s) => tmWrite s n a (f w)

/-- A store under a predicate (R105): full, partial, or nothing. -/
def tileStoreP (s : State) (n a : Nat) (mask : BitVec 16) (x : BitVec 167) : State :=
  if mask = 0xFFFF then tmWrite s n a x
  else if mask = 0 then s
  else tilePartial s n a (fun w => mkWord (packLanes (mergeLanes mask (mants x) (mants w))) (expOf w) (tagOf w))

end Sys2Proof.Machine
end

