-- ==== Sys2Proof/Machine/TileIssue.lean ====
section
/-! DEFINITION. Issue of a bundle (R40, R41, R45, R111, R130): the instructions of its slots are checked together, wait together, and take effect together on what the registers held before the bundle. -/

namespace Sys2Proof.Machine

/-- Bits of TILE_FAULT.slots (Table 4.11). -/
def slotM : Nat := 8
def slotX : Nat := 4
def slotA : Nat := 2
def slotC : Nat := 1

/-- What an instruction waits for (R111). -/
inductive Blocking where
  | dma (chan : Nat) (both : Bool)
  | ask
  | queue (op : JqOp) (sa : Nat)
  deriving DecidableEq, Repr

/-- One instruction of a bundle, ready to issue: the slot it stands in; whether its encoding is legal; the registers it writes (R45); whether it is a load; whether R37 bars it from the end bundle of a block repeat; what it waits for; the faults found at issue (code and info); its effect, given the tile number, the answer and the tile before the bundle; the bundle issued next where it is not the following one, with whether a branch goes there; its latency class (Table 2.3; address and repeat registers take class L1); the registers it reads; the accumulator it adds to as a multiply-accumulate; whether it reads SATF; its store slots by bank and the banks of its loads; and the cycles it costs the next bundle beside those of a branch (R39). -/
structure SlotOp where
  slot : Nat
  legal : Bool
  writes : List Nat
  load : Bool
  ctl : Bool
  block : Tile → Option Blocking
  dyn : State → Nat → Tile → Option (Nat × Nat)
  eff : Nat → Option Answer → Tile → State → State
  next : Tile → Option (Nat × Bool)
  lat : Nat
  reads : List Nat
  mac : Option Nat
  satRead : Bool
  stores : Tile → List (Nat × Nat)
  loads : Tile → List Nat
  gap : Tile → Nat

/-- An instruction of latency class `lat` that reads the registers `reads`, with an effect on its own tile alone: `f` takes the rounding mode and the tile before the bundle. -/
def regOp (slot lat : Nat) (reads : List Nat) (legal : Bool) (writes : List Nat) (f : Nat → Tile → Tile → Tile) : SlotOp :=
  { slot := slot, legal := legal, writes := writes, load := false, ctl := false, block := fun _ => none,
    dyn := fun _ _ _ => none,
    eff := fun n _ old s => modTile s n (f (rdf s (Reg.TILE_CTRL n) 11 10) old),
    next := fun _ => none, lat := lat, reads := reads, mac := none, satRead := false,
    stores := fun _ => [], loads := fun _ => [], gap := fun _ => 0 }

/-- One that narrows: the pipeline notes the SATF bits it sets (R28). -/
def satOp (slot lat : Nat) (reads : List Nat) (legal : Bool) (writes : List Nat) (f : Nat → Tile → Tile → Tile) : SlotOp :=
  { regOp slot lat reads legal writes f with
    eff := fun n _ old s =>
      let m := rdf s (Reg.TILE_CTRL n) 11 10
      satNote (modTile s n (f m old)) n lat (f m old { tileAt s n with satf := 0 }).satf }

/-! Register names for R45: V, S, P, ACC, A, ABASE, ALEN and LP in one numbering. -/

def rV (i : Nat) : Nat := i
def rS (i : Nat) : Nat := 32 + i
def rP (i : Nat) : Nat := 48 + i
def rAcc (i : Nat) : Nat := 56 + i
def rA (kind i : Nat) : Nat := 64 + 8 * kind + i
def rLp (k : Nat) : Nat := 96 + k

/-- A pair of vector registers. -/
def rPair (i : Nat) : List Nat := [rV i, rV (i + 1)]

/-- The registers that a lane mask reads: the predicate, and, since a partial one merges, the destination (R27). P0 always reads as all lanes (R21). -/
def rMask (p : BitVec 3) (ds : List Nat) : List Nat := if p = 0 then [] else rP p.toNat :: ds

/-- What a bundle asks of the pipeline. -/
def demandOf (t : Tile) (ops : List SlotOp) (lit : Bool) : Demand :=
  { reads := ops.flatMap (·.reads)
    writes := ops.flatMap (fun o => o.writes.map (fun r => (r, if 64 ≤ r then 1 else o.lat))) ++ (if lit then [(rS 15, 1)] else [])
    mac := ops.findSome? (·.mac)
    satRead := ops.any (·.satRead)
    stores := ops.flatMap (fun o => o.stores t)
    loads := ops.flatMap (fun o => o.loads t) }

/-- Some register stands twice in a list. -/
def dupReg : List Nat → Bool
  | [] => false
  | r :: rs => rs.contains r || dupReg rs

/-- Does an instruction write a register that another of the bundle, or the literal, writes too? An illegal encoding names no register. -/
def clashes (ops : List SlotOp) (lit : Bool) (o : SlotOp) : Bool :=
  let all := (ops.filter (·.legal)).flatMap (·.writes) ++ (if lit then [rS 15] else [])
  o.writes.any (fun r => 1 < all.count r)

/-- The slots whose instruction meets a condition, as TILE_FAULT.slots. -/
def slotsWhere (ops : List SlotOp) (p : SlotOp → Bool) : Nat := ops.foldl (fun m o => if p o then m ||| o.slot else m) 0

/-- The level of the repeats whose body ends at `pc` (R36). -/
def endsLoop (t : Tile) (pc : Nat) : Bool :=
  [0, 1, 2].any (fun k => (SMap.get LoopLv.reset t.lp k).active && (SMap.get LoopLv.reset t.lp k).stop == pc)

/-- The first fault of a bundle at issue, in the order of R130: code, slots, info. A LOOP in the end bundle of an active level is R37's case (info 5), which every such LOOP would otherwise hide behind a case of R35. DEDUCED. -/
def issueFault (s : State) (n : Nat) (t : Tile) (ops : List SlotOp) (lit : Bool) : Option (Nat × Nat × Nat) :=
  let d (o : SlotOp) : Option (Nat × Nat) := o.dyn s n t
  let has (c : Nat) (o : SlotOp) : Bool := match d o with
    | some (c', _) => c' == c
    | none => false
  let info (c : Nat) : Nat := ((ops.filterMap d).find? (fun x => x.1 == c)).elim 0 (·.2)
  let ill := slotsWhere ops (fun o => !o.legal || clashes ops lit o || has fltIllegal o) ||| (if lit && ops.any (fun o => o.legal && o.writes.contains (rS 15)) then slotA else 0)
  let ctl := slotsWhere ops (fun o => o.ctl && endsLoop t t.pc.toNat)
  if ill ≠ 0 then some (fltIllegal, ill, 0)
  else if ctl ≠ 0 then some (fltLoop, ctl, 5)
  else if slotsWhere ops (has fltLoop) ≠ 0 then some (fltLoop, slotsWhere ops (has fltLoop), info fltLoop)
  else if slotsWhere ops (has fltAlign) ≠ 0 then some (fltAlign, slotsWhere ops (has fltAlign), info fltAlign)
  else if slotsWhere ops (has fltTask) ≠ 0 then some (fltTask, slotsWhere ops (has fltTask), 0)
  else none

/-! ### Block repeats (R36, R38) -/

def getLp (t : Tile) (k : Nat) : LoopLv := SMap.get LoopLv.reset t.lp k
def putLp (t : Tile) (k : Nat) (l : LoopLv) : Tile := { t with lp := SMap.put LoopLv.reset t.lp k l }

/-- The bundle after `pc`, evaluating the levels that end there from the innermost outward (R36). -/
def loopNext (pc : Nat) : List Nat → Tile → Tile
  | [], t => { t with pc := BitVec.ofNat 11 (pc + 1) }
  | k :: ks, t =>
    let l := getLp t k
    if l.active && l.stop == pc then
      if 1 < l.count then { putLp t k { l with count := l.count - 1 } with pc := BitVec.ofNat 11 l.start }
      else loopNext pc ks (putLp t k { l with active := false })
    else loopNext pc ks t

/-- A taken branch deactivates the levels whose body does not hold the target (R38). -/
def loopLeave (target : Nat) (t : Tile) : Tile :=
  foldS (fun t k =>
    let l := getLp t k
    if l.active && !(l.start ≤ target && target ≤ l.stop) then putLp t k { l with active := false } else t) [2, 1, 0] t

/-! ### Waiting (R111, R113) -/

/-- Channel `c` of tile `n` is idle: busy 0 and pending 0. -/
def dmaIdle (t : Tile) (c : Nat) : Bool :=
  let d := SMap.get DmaChan.reset t.dma c
  d.active.isNone && d.waiting.isNone

/-- The DMA part of a wait is met (R110). -/
def dmaMet (t : Tile) : Blocking → Bool
  | .dma c both => if both then dmaIdle t 0 && dmaIdle t 1 else dmaIdle t c
  | _ => true

/-- Is it a request to an outside engine? -/
def Blocking.outside : Blocking → Bool
  | .dma _ _ => false
  | _ => true

/-- The tile's ask or queue request leaves it (R111, R119, R121). An ask of a tile that holds a node carries its end. -/
def sendRequest (s : State) (n : Nat) (b : Blocking) : State :=
  match b with
  | .dma _ _ => s
  | .ask =>
    let r := rd s (Reg.TILE_TASK n)
    let ends := if r.getLsbD 31 then some (fld r 14 0) else none
    let s := if r.getLsbD 31 then wrb s (Reg.TILE_TASK n) 31 false else s
    { s with trv := { s.trv with inbox := s.trv.inbox ++ [.ask n ends] } }
  | .queue op sa => { s with jq := { s.jq with reqs := s.jq.reqs ++ [⟨n, op, sa⟩] } }

/-- TILE_FAULT.active. -/
def faultActive (s : State) (n : Nat) : Bool := rdb s (Reg.TILE_FAULT n) 31

/-- Run the tile, unless a fault is active (R133); during a fill the run is deferred (R68). -/
def tileRun (s : State) (n : Nat) : State :=
  if faultActive s n then s
  else if (tileAt s n).fill then modTile s n (fun t => { t with fillRun := true })
  else wrb (modPipe s n pipeDrain) (Reg.TILE_CTRL n) 0 true

/-- What happens to the tile after a bundle that waited (R113, R135). A run that software asked for since the reset follows it (R20). -/
def settleAfter (s : State) (n : Nat) (a : After) : State :=
  match a with
  | .run => s
  | .stop => s
  | .reset run =>
    let go := run || rdb s (Reg.TILE_CTRL n) 0
    let s := wrb (modTile s n Tile.resetArch) (Reg.TILE_CTRL n) 0 false
    if go then tileRun s n else s

/-- The tile waits for nothing, and its new bundle has found no fault yet. -/
def clearWait (s : State) (n : Nat) : State := modTile s n (fun t => { t with wait := none, answer := none, late := none })

/-- The PC after the bundle at `pc`: a level that the bundle itself sets up does not yet count its end (R36). -/
def advanced (old t : Tile) : Tile :=
  if endsLoop old old.pc.toNat then loopNext old.pc.toNat [2, 1, 0] t else { t with pc := BitVec.ofNat 11 (old.pc.toNat + 1) }

/-- The PC after a bundle that the tile `old` issued: where an instruction sends it, else as R36 says (R40). -/
def advancePc (s : State) (n : Nat) (ops : List SlotOp) (old : Tile) : State :=
  match ops.findSome? (fun o => o.next old) with
  | some (target, branch) =>
    modTile s n (fun t => { (if branch then loopLeave target t else t) with pc := BitVec.ofNat 11 target })
  | none => modTile s n (advanced old)

/-- The effects of the slots: loads first, then the A slot, then the others, all on the registers of `old` (R40, R41). -/
def runSlots (s : State) (n : Nat) (ops : List SlotOp) (ans : Option Answer) (old : Tile) : State :=
  let run (p : SlotOp → Bool) (s : State) : State := foldS (fun s o => o.eff n ans old s) (ops.filter p) s
  let s := run (·.load) s
  let s := run (fun o => !o.load && o.slot == slotA) s
  run (fun o => !o.load && o.slot != slotA) s

/-- The pipeline after a bundle that the tile `old` issued: a taken branch costs 2 cycles (R115), a stopped tile lets its bundles complete. -/
def pipeAfter (s : State) (n : Nat) (ops : List SlotOp) (lit : Bool) (old : Tile) : State :=
  let branch := ops.any (fun o => (o.next old).elim false (·.2))
  let gap := if branch then 2 else (ops.map (fun o => o.gap old)).sum
  let s := modPipe s n (pipeIssue (demandOf old ops lit) gap)
  if rdb s (Reg.TILE_CTRL n) 0 then s else modPipe s n pipeDrain

/-- The bundle issues: the slots' effects and the literal, then the PC, and what follows a wait (R40, R41). A fault that a load finds stays in the tile for `settleLate` (R131). -/
def complete (s : State) (n : Nat) (ops : List SlotOp) (lit : Option Word) (ans : Option Answer) : State :=
  let old := tileAt s n
  let s := runSlots (clearWait s n) n ops ans old
  let s := match lit with
    | some w => modTile s n (fun t => putS t 15 w)
    | none => s
  settleAfter (pipeAfter (advancePc s n ops old) n ops lit.isSome old) n (old.wait.elim After.run (·.after))

/-- A bundle at the issue point of tile `n`, its registers free: it faults, waits or issues. `after` is what follows it when it waits. -/
def issueNow (s : State) (n : Nat) (ops : List SlotOp) (lit : Option Word) (raw : Bundle) (after : After) : State :=
  let t := tileAt s n
  match issueFault s n t ops lit.isSome with
  | some (code, slots, info) => tileFault s n t.pc.toNat code slots info (tileLoc n 0 0 0)
  | none =>
    let bs := ops.filterMap (fun o => o.block t)
    let met := bs.all (dmaMet t)
    match bs.find? Blocking.outside, t.wait with
    | none, _ =>
      if met then complete s n ops lit none
      else modPipe (modTile s n (fun t => { t with wait := some (t.wait.getD ⟨raw, false, false, after⟩) })) n pipeDrain
    | some b, none =>
      sendRequest (modPipe (modTile s n (fun t => { t with wait := some ⟨raw, true, false, after⟩ })) n pipeDrain) n b
    | some b, some w =>
      match t.answer with
      | none => s
      | some .queueFault =>
        match b with
        | .queue _ sa => settleAfter (tileFault s n t.pc.toNat fltQueue slotC sa (tileLoc n 0 0 0)) n w.after
        | _ => s
      | some a => if met then complete s n ops lit (some a) else s

/-- A bundle comes to the issue point as soon as the pipeline lets it (R42); one that waits there already is not held again. -/
def enterPipe (s : State) (n : Nat) (ops : List SlotOp) (lit : Bool) : State :=
  if (tileAt s n).wait.isSome then s else modPipe s n (pipeEnter (demandOf (tileAt s n) ops lit))

/-- A bundle comes to the issue point of tile `n`. -/
def issueOps (s : State) (n : Nat) (ops : List SlotOp) (lit : Option Word) (raw : Bundle) (after : After) : State :=
  issueNow (enterPipe s n ops lit.isSome) n ops lit raw after

/-- Is the clock or power of tile `n` off (R67, R437)? -/
def tileOff (s : State) (n : Nat) : Bool :=
  gated s (n / 2) || rdb s (Reg.PWR_PGATE_STAT (n / 64)) (n / 2 % 32)

/-- Tile `n` can issue: it runs, waits for nothing, is clocked, and the part is not frozen (R451). A running tile whose memories software fills issues nothing until the fill ends: R68 names the accesses that wait, and the tile's own fetches and loads are not among them. DESIGN CHOICE. -/
def canIssue (s : State) (n : Nat) : Bool :=
  rdb s (Reg.TILE_CTRL n) 0 && (tileAt s n).wait.isNone && !(tileAt s n).fill && !tileOff s n && !frozen s

/-- A bundle that holds one instruction reaches issue on tile `n`. -/
def issueRow (s : State) (n : Nat) (op : SlotOp) (raw : Bundle) : State :=
  if canIssue s n then issueOps s n [op] none raw .run else s

/-- A bundle of one slot: STD header and the slot's bits at its place (Table 3.1). -/
def bundleX (x : BitVec 32) : Bundle := BitVec.ofNat 128 (2 ^ 124 + 2 ^ 56 * x.toNat)
def bundleA (x : BitVec 32) : Bundle := BitVec.ofNat 128 (2 ^ 124 + 2 ^ 24 * x.toNat)
def bundleM (x : BitVec 36) : Bundle := BitVec.ofNat 128 (2 ^ 124 + 2 ^ 88 * x.toNat)
def bundleC (x : BitVec 24) : Bundle := BitVec.ofNat 128 (2 ^ 124 + x.toNat)

end Sys2Proof.Machine
end

