-- ==== Sys2Proof/Machine/TileX.lean ====
section
/-! DEFINITION. The X slot: multiply-accumulates, products, accumulator set-up, moves and reads (R80 to R88, Table 3.5). -/

namespace Sys2Proof.Machine

/-- The fields of an X-slot instruction after its opcode (Table 3.3). -/
structure XArgs where
  d : BitVec 5
  a : BitVec 5
  b : BitVec 5
  p : BitVec 3
  mod : BitVec 8
  deriving DecidableEq, Repr

/-- Register classes of Table 3.5 (R76). -/
def okPair (r : BitVec 5) : Bool := r.toNat % 2 == 0
def okAcc (r : BitVec 5) : Bool := r.toNat < 4
def okScal (r : BitVec 5) : Bool := r.toNat < 16
def okPred (r : BitVec 5) : Bool := r.toNat < 8

/-- No mod bit outside `m` is set (R79). -/
def modIn {w : Nat} (mod : BitVec w) (m : Nat) : Bool := mod.toNat &&& m == mod.toNat

/-- Apply `f` to each lane of a list that the mask holds. -/
def eachLane (mask : BitVec 16) (f : Tile → Nat → Tile) (ls : List Nat) (t : Tile) : Tile :=
  foldS (fun t i => if mask.getLsbD i then f t i else t) ls t

/-- Two word sources' exponents and ACCE make the alignment shift of R30 (`f` is 18 or 38). -/
def macShift (old : Tile) (x : XArgs) (f : Int) : Int :=
  expOf (getV old x.a.toNat) + expOf (getV old x.b.toNat) - f - getAcce old x.d.toNat

/-- One lane of a multiply-accumulate: cleared first when z is set, then the term is added (R82). -/
def macLane (m : Nat) (x : XArgs) (i : Nat) (p sh : Int) (t : Tile) : Tile :=
  let n := x.d.toNat
  let t := if x.mod.getLsbD 5 then accClearLane t n i else t
  accAdd t n i (align m (if x.mod.getLsbD 7 then -p else p) sh)

/-- The second factor of lane `i`: the lane, or the broadcast lane (R82, R84). -/
def bLane (x : XArgs) (b : BitVec 167) (i : Nat) : Int :=
  laneM b (if x.mod.getLsbD 6 then fld x.mod 3 0 else i)

/-- MAC (R82). -/
def macF (x : XArgs) (m : Nat) (old t : Tile) : Tile :=
  let va := getV old x.a.toNat
  let vb := getV old x.b.toNat
  eachLane (getP old x.p.toNat) (fun t i => macLane m x i (laneM va i * bLane x vb i) (macShift old x 18) t) lanes t

def opMac (x : XArgs) : SlotOp := 
  { regOp slotX 3 (rAcc x.d.toNat :: rV x.a.toNat :: rV x.b.toNat :: rMask x.p []) (okAcc x.d && modIn x.mod 0xEF) [rAcc x.d.toNat] (macF x) with mac := some (rAcc x.d.toNat) }

/-- The lanes of a group of MACD or MULD. -/
def groupLanes (g : Nat) : List Nat := [4 * g, 4 * g + 1, 4 * g + 2, 4 * g + 3]

/-- Double-tenth mantissa of lane `i` of the pair at register `r`. -/
def pairM (t : Tile) (r i : Nat) : Int := laneD (getV t r) (getV t (r + 1)) i

/-- MACD (R82): the four lanes of its group. -/
def macdF (x : XArgs) (m : Nat) (old t : Tile) : Tile :=
  eachLane (getP old x.p.toNat)
    (fun t i => macLane m x i (pairM old x.a.toNat i * pairM old x.b.toNat i) (macShift old x 38) t)
    (groupLanes (fld x.mod 1 0)) t

def opMacd (x : XArgs) : SlotOp :=
  { regOp slotX 3 (rAcc x.d.toNat :: rPair x.a.toNat ++ rPair x.b.toNat ++ rMask x.p []) (okAcc x.d && okPair x.a && okPair x.b && modIn x.mod 0xA3) [rAcc x.d.toNat] (macdF x) with mac := some (rAcc x.d.toNat) }

/-- The exact complex product of R83 for lane `i`: the real part in even lanes, the imaginary part in odd ones. -/
def cmacP (x : XArgs) (old : Tile) (i : Nat) : Int :=
  let va := getV old x.a.toNat
  let vb := getV old x.b.toNat
  let k := i / 2
  let ar := laneM va (2 * k)
  let ai := laneM va (2 * k + 1)
  let br := laneM vb (2 * k)
  let bi := if x.mod.getLsbD 1 then -laneM vb (2 * k + 1) else laneM vb (2 * k + 1)
  if i % 2 = 0 then ar * br - ai * bi else ar * bi + ai * br

/-- CMAC (R83): lanes 0 to 7, or 8 to 15 with half. -/
def cmacF (x : XArgs) (m : Nat) (old t : Tile) : Tile :=
  eachLane (getP old x.p.toNat) (fun t i => macLane m x i (cmacP x old i) (macShift old x 18) t)
    (if x.mod.getLsbD 0 then lanes.drop 8 else lanes.take 8) t

def opCmac (x : XArgs) : SlotOp := 
  { regOp slotX 3 (rAcc x.d.toNat :: rV x.a.toNat :: rV x.b.toNat :: rMask x.p []) (okAcc x.d && modIn x.mod 0xA3) [rAcc x.d.toNat] (cmacF x) with mac := some (rAcc x.d.toNat) }

/-- AADD (R82). -/
def aaddF (x : XArgs) (m : Nat) (old t : Tile) : Tile :=
  let va := getV old x.a.toNat
  let sh := expOf va - 9 - getAcce old x.d.toNat
  eachLane (getP old x.p.toNat)
    (fun t i => accAdd t x.d.toNat i (align m (if x.mod.getLsbD 7 then -laneM va i else laneM va i) sh)) lanes t

def opAadd (x : XArgs) : SlotOp := 
  { regOp slotX 3 (rAcc x.d.toNat :: rV x.a.toNat :: rMask x.p []) (okAcc x.d && x.b == 0 && modIn x.mod 0x80) [rAcc x.d.toNat] (aaddF x) with mac := some (rAcc x.d.toNat) }

/-- clamp of the file's helpers. -/
def clampE (e : Int) : Int := clampInt (-32) 31 e

/-- MUL (R84). -/
def mulF (x : XArgs) (m : Nat) (old t : Tile) : Tile :=
  let va := getV old x.a.toNat
  let vb := getV old x.b.toNat
  let e := expOf va + expOf vb
  writeTenth t m x.d.toNat (getP old x.p.toNat) (if x.mod.getLsbD 7 then .norm else .fixed (clampE e))
    (exactInts (lanes.map (fun i => laneM va i * bLane x vb i))) (e - 18) (tagOf va)

def opMul (x : XArgs) : SlotOp := 
  satOp slotX 3 (rV x.a.toNat :: rV x.b.toNat :: rMask x.p [rV x.d.toNat]) (modIn x.mod 0xCF) [rV x.d.toNat] (mulF x)

/-- The mask of a group's lanes. -/
def groupMask (g : Nat) : BitVec 16 := BitVec.ofNat 16 (15 * 16 ^ g)

/-- MULD (R85): the lanes of its group, at the destination pair's current exponent. -/
def muldF (x : XArgs) (m : Nat) (old t : Tile) : Tile :=
  let e := expOf (getV old x.a.toNat) + expOf (getV old x.b.toNat)
  writePair t m x.d.toNat (getP old x.p.toNat &&& groupMask (fld x.mod 1 0)) .norm
    (exactInts (lanes.map (fun i => pairM old x.a.toNat i * pairM old x.b.toNat i))) (e - 38) 0

def opMuld (x : XArgs) : SlotOp :=
  satOp slotX 4 (rPair x.d.toNat ++ rPair x.a.toNat ++ rPair x.b.toNat ++ rMask x.p []) (okPair x.d && okPair x.a && okPair x.b && modIn x.mod 3)
    [rV x.d.toNat, rV (x.d.toNat + 1)] (muldF x)

/-- Clear accumulator `n` and give it the exponent of mod (R86). -/
def accSetup (x : XArgs) (t : Tile) : Tile :=
  putAcce (eachLane 0xFFFF (fun t i => accClearLane t x.d.toNat i) lanes t) x.d.toNat (sext 8 x.mod.toNat)

/-- ACLR (R86). -/
def aclrF (x : XArgs) (_ : Nat) (_ t : Tile) : Tile := accSetup x t

/-- Table 3.5 gives ACLR's a and b as 0; a value that is not is judged as a bit that the entry reserves. DEDUCED. -/
def opAclr (x : XArgs) : SlotOp := regOp slotX 3 [] (okAcc x.d && x.a == 0 && x.b == 0 && x.p == 0) [rAcc x.d.toNat] (aclrF x)

/-- ALD (R86). -/
def aldF (x : XArgs) (m : Nat) (old t : Tile) : Tile :=
  let va := getV old x.a.toNat
  let sh := expOf va - 9 - sext 8 x.mod.toNat
  eachLane 0xFFFF (fun t i => accAdd t x.d.toNat i (align m (laneM va i) sh)) lanes (accSetup x t)

def opAld (x : XArgs) : SlotOp := regOp slotX 3 [rV x.a.toNat] (okAcc x.d && x.b == 0 && x.p == 0) [rAcc x.d.toNat] (aldF x)

/-- ALDD (R86). -/
def alddF (x : XArgs) (m : Nat) (old t : Tile) : Tile :=
  let sh := expOf (getV old x.a.toNat) - 19 - sext 8 x.mod.toNat
  eachLane 0xFFFF (fun t i => accAdd t x.d.toNat i (align m (pairM old x.a.toNat i) sh)) lanes (accSetup x t)

def opAldd (x : XArgs) : SlotOp :=
  regOp slotX 3 (rPair x.a.toNat) (okAcc x.d && okPair x.a && x.b == 0 && x.p == 0) [rAcc x.d.toNat] (alddF x)

/-- One lane of AOP: MOV copies the lane and its ACCV bit; ADD and SUB write the wrapped sum and set ACCV when it lies out of range (R87). -/
def aopLane (x : XArgs) (old t : Tile) (i : Nat) : Tile :=
  let a := getAcc old x.a.toNat i
  let b := getAcc old x.b.toNat i
  match fld x.mod 1 0 with
  | 0 => setAccvBit (putAcc t x.d.toNat i a) x.d.toNat i ((getAccv old x.a.toNat).getLsbD i)
  | 1 => accAdd t x.d.toNat i (a + b - getAcc t x.d.toNat i)
  | _ => accAdd t x.d.toNat i (a - b - getAcc t x.d.toNat i)

/-- AOP (R87). -/
def aopF (x : XArgs) (_ : Nat) (old t : Tile) : Tile :=
  putAcce (eachLane (getP old x.p.toNat) (aopLane x old) lanes t) x.d.toNat (getAcce old x.a.toNat)

def opAop (x : XArgs) : SlotOp :=
  regOp slotX 3 (rAcc x.a.toNat :: rAcc x.b.toNat :: rMask x.p [rAcc x.d.toNat]) (okAcc x.d && okAcc x.a && okAcc x.b && modIn x.mod 3 && fld x.mod 1 0 != 3) [rAcc x.d.toNat] (aopF x)

/-- The lanes of an accumulator, as exact results. -/
def accLanes (t : Tile) (n : Nat) : List Exact := exactInts (lanes.map (getAcc t n))

/-- How ANRM and ANRD narrow (R88). -/
def anrNarrow (x : XArgs) : Narrow := if x.mod.getLsbD 7 then .fixed (sext 6 x.mod.toNat) else .norm

/-- ANRM (R88); the tag is 0 (R78). -/
def anrmF (x : XArgs) (m : Nat) (old t : Tile) : Tile :=
  writeTenth t m x.d.toNat (getP old x.p.toNat) (anrNarrow x) (accLanes old x.a.toNat) (getAcce old x.a.toNat) 0

def opAnrm (x : XArgs) : SlotOp := 
  satOp slotX 3 (rAcc x.a.toNat :: rMask x.p [rV x.d.toNat]) (okAcc x.a && x.b == 0 && modIn x.mod 0xBF) [rV x.d.toNat] (anrmF x)

/-- ANRD (R88). -/
def anrdF (x : XArgs) (m : Nat) (old t : Tile) : Tile :=
  writePair t m x.d.toNat (getP old x.p.toNat) (anrNarrow x) (accLanes old x.a.toNat) (getAcce old x.a.toNat) 0

def opAnrd (x : XArgs) : SlotOp :=
  satOp slotX 3 (rAcc x.a.toNat :: rMask x.p (rPair x.d.toNat)) (okPair x.d && okAcc x.a && x.b == 0 && modIn x.mod 0xBF)
    [rV x.d.toNat, rV (x.d.toNat + 1)] (anrdF x)

/-- NOP of the X slot (Table 3.5): its d, a, b and mod are 0; a p that is not 0 is no cause of R79. -/
def opNopX (x : XArgs) : SlotOp := regOp slotX 1 [] (x.d == 0 && x.a == 0 && x.b == 0 && x.mod == 0) [] (fun _ _ t => t)

/-- MAC (R82). -/
def execMac (tile : Fin 96) (d a b : BitVec 5) (p : BitVec 3) (mod : BitVec 8) (s : State) :
    Host.Outcome State Fault Refusal :=
  live s (issueRow s tile.val (opMac ⟨d, a, b, p, mod⟩) 0)

/-- MACD (R82). -/
def execMacd (tile : Fin 96) (d a b : BitVec 5) (p : BitVec 3) (mod : BitVec 8) (s : State) :
    Host.Outcome State Fault Refusal :=
  live s (issueRow s tile.val (opMacd ⟨d, a, b, p, mod⟩) 0)

/-- CMAC (R83). -/
def execCmac (tile : Fin 96) (d a b : BitVec 5) (p : BitVec 3) (mod : BitVec 8) (s : State) :
    Host.Outcome State Fault Refusal :=
  live s (issueRow s tile.val (opCmac ⟨d, a, b, p, mod⟩) 0)

/-- AADD (R82). -/
def execAadd (tile : Fin 96) (d a b : BitVec 5) (p : BitVec 3) (mod : BitVec 8) (s : State) :
    Host.Outcome State Fault Refusal :=
  live s (issueRow s tile.val (opAadd ⟨d, a, b, p, mod⟩) 0)

/-- MUL (R84). -/
def execMul (tile : Fin 96) (d a b : BitVec 5) (p : BitVec 3) (mod : BitVec 8) (s : State) :
    Host.Outcome State Fault Refusal :=
  live s (issueRow s tile.val (opMul ⟨d, a, b, p, mod⟩) 0)

/-- MULD (R85). -/
def execMuld (tile : Fin 96) (d a b : BitVec 5) (p : BitVec 3) (mod : BitVec 8) (s : State) :
    Host.Outcome State Fault Refusal :=
  live s (issueRow s tile.val (opMuld ⟨d, a, b, p, mod⟩) 0)

/-- ACLR (R86). -/
def execAclr (tile : Fin 96) (d a b : BitVec 5) (p : BitVec 3) (mod : BitVec 8) (s : State) :
    Host.Outcome State Fault Refusal :=
  live s (issueRow s tile.val (opAclr ⟨d, a, b, p, mod⟩) 0)

/-- ALD (R86). -/
def execAld (tile : Fin 96) (d a b : BitVec 5) (p : BitVec 3) (mod : BitVec 8) (s : State) :
    Host.Outcome State Fault Refusal :=
  live s (issueRow s tile.val (opAld ⟨d, a, b, p, mod⟩) 0)

/-- ALDD (R86). -/
def execAldd (tile : Fin 96) (d a b : BitVec 5) (p : BitVec 3) (mod : BitVec 8) (s : State) :
    Host.Outcome State Fault Refusal :=
  live s (issueRow s tile.val (opAldd ⟨d, a, b, p, mod⟩) 0)

/-- AOP (R87). -/
def execAop (tile : Fin 96) (d a b : BitVec 5) (p : BitVec 3) (mod : BitVec 8) (s : State) :
    Host.Outcome State Fault Refusal :=
  live s (issueRow s tile.val (opAop ⟨d, a, b, p, mod⟩) 0)

/-- ANRM (R88). -/
def execAnrm (tile : Fin 96) (d a b : BitVec 5) (p : BitVec 3) (mod : BitVec 8) (s : State) :
    Host.Outcome State Fault Refusal :=
  live s (issueRow s tile.val (opAnrm ⟨d, a, b, p, mod⟩) 0)

/-- ANRD (R88). -/
def execAnrd (tile : Fin 96) (d a b : BitVec 5) (p : BitVec 3) (mod : BitVec 8) (s : State) :
    Host.Outcome State Fault Refusal :=
  live s (issueRow s tile.val (opAnrd ⟨d, a, b, p, mod⟩) 0)

end Sys2Proof.Machine
end

