-- ==== Sys2Proof/Machine/TileA.lean ====
section
/-! DEFINITION. The A slot: vector arithmetic, shuffles, converters and the scalar ALU (R89 to R101, Table 3.7). A field that an instruction's entry does not name is not judged (R79 lists what is). -/

namespace Sys2Proof.Machine

/-- The fields of an A-V instruction after its opcode (Table 3.4). -/
structure AArgs where
  d : BitVec 5
  a : BitVec 5
  b : BitVec 5
  p : BitVec 3
  mod : BitVec 7
  deriving DecidableEq, Repr

/-- The fields of an A-I instruction after its opcode. -/
structure IArgs where
  d : BitVec 5
  a : BitVec 5
  imm : BitVec 15
  deriving DecidableEq, Repr

/-- Sources of a two-word operation, their lanes aligned exactly to the lower exponent: mantissas of each, and the exponent of the unit (R90). -/
def aligned (va vb : BitVec 167) : List Int × List Int × Int :=
  let e := min (expOf va) (expOf vb)
  ((mants va).map (· * (2 ^ (expOf va - e).toNat : Nat)), (mants vb).map (· * (2 ^ (expOf vb - e).toNat : Nat)), e - 9)

/-- The larger of the two sources' exponents. -/
def maxExp (va vb : BitVec 167) : Int := max (expOf va) (expOf vb)

/-- A two-source vector instruction: lane function, mask, narrowing. -/
def vec2 (m : Nat) (x : AArgs) (old t : Tile) (mask : BitVec 16) (n : Narrow) (f : List Int → List Int → List Int) : Tile :=
  let va := getV old x.a.toNat
  let r := aligned va (getV old x.b.toNat)
  writeTenth t m x.d.toNat mask n (exactInts (f r.1 r.2.1)) r.2.2 (tagOf va)

/-- A one-source vector instruction on mantissas whose unit has exponent `k`. -/
def vec1 (m : Nat) (x : AArgs) (old t : Tile) (mask : BitVec 16) (n : Narrow) (k : Int) (f : List Int → List Int) : Tile :=
  let va := getV old x.a.toNat
  writeTenth t m x.d.toNat mask n (exactInts (f (mants va))) k (tagOf va)

/-- The write mask of an instruction (R77). -/
def amask (x : AArgs) (old : Tile) : BitVec 16 := getP old x.p.toNat

/-- The word exponent of source a, as the unit of its mantissas. -/
def unitA (x : AArgs) (old : Tile) : Int := expOf (getV old x.a.toNat) - 9

/-- VADD, VSUB (R90). -/
def vaddF (x : AArgs) (m : Nat) (old t : Tile) : Tile :=
  let e := maxExp (getV old x.a.toNat) (getV old x.b.toNat)
  vec2 m x old t (amask x old)
    (if x.mod.getLsbD 0 then .norm else .fixed (clampE (e + if x.mod.getLsbD 2 then 1 else 0)))
    (List.zipWith (fun a b => if x.mod.getLsbD 1 then a - b else a + b))

def opVadd (x : AArgs) : SlotOp := satOp slotA (if x.mod.getLsbD 0 then 3 else 2) (rV x.a.toNat :: rV x.b.toNat :: rMask x.p [rV x.d.toNat]) (modIn x.mod 7) [rV x.d.toNat] (vaddF x)

/-- VMAX, VMIN (R90). -/
def vmaxF (x : AArgs) (m : Nat) (old t : Tile) : Tile :=
  vec2 m x old t (amask x old) (.fixed (maxExp (getV old x.a.toNat) (getV old x.b.toNat)))
    (List.zipWith (fun a b => if x.mod.getLsbD 1 then min a b else max a b))

def opVmax (x : AArgs) : SlotOp := satOp slotA 2 (rV x.a.toNat :: rV x.b.toNat :: rMask x.p [rV x.d.toNat]) (modIn x.mod 2) [rV x.d.toNat] (vmaxF x)

/-- VABS, VNEG (R90). -/
def vabsF (x : AArgs) (m : Nat) (old t : Tile) : Tile :=
  vec1 m x old t (amask x old)
    (.fixed (clampE (expOf (getV old x.a.toNat) + if x.mod.getLsbD 2 then 1 else 0))) (unitA x old)
    (List.map (fun a => if x.mod.getLsbD 1 then -a else (a.natAbs : Int)))

def opVabs (x : AArgs) : SlotOp := satOp slotA 2 (rV x.a.toNat :: rMask x.p [rV x.d.toNat]) (modIn x.mod 6) [rV x.d.toNat] (vabsF x)

/-- The bitwise operation that mod[1:0] of VLOG and PLOG selects. Tables 3.7 name ANDN only: the second source is the one complemented. DESIGN CHOICE. -/
def bitOp {w : Nat} (k : Nat) (a b : BitVec w) : BitVec w :=
  match k with
  | 0 => a &&& b
  | 1 => a ||| b
  | 2 => a ^^^ b
  | _ => a &&& ~~~ b

/-- The data bits of the lanes of a mask. -/
def laneBits (mask : BitVec 16) : TileData :=
  BitVec.ofNat 160 ((lanes.map (fun i => if mask.getLsbD i then 1023 * 1024 ^ i else 0)).sum)

/-- VLOG (R94): on data bits; under a partial predicate the destination's exponent and tag stay. -/
def vlogF (x : AArgs) (_ : Nat) (old t : Tile) : Tile :=
  let va := getV old x.a.toNat
  let vb := getV old x.b.toNat
  let vd := getV t x.d.toNat
  let r : TileData := bitOp (fld x.mod 1 0) (va.setWidth 160) (vb.setWidth 160)
  let mask := amask x old
  if mask = 0xFFFF then putV t x.d.toNat (mkWord r.toNat (expOf va) (tagOf va))
  else
    let k := laneBits mask
    putV t x.d.toNat (mkWord ((r &&& k) ||| (vd.setWidth 160 &&& ~~~ k)).toNat (expOf vd) (tagOf vd))

def opVlog (x : AArgs) : SlotOp := regOp slotA 2 (rV x.a.toNat :: rV x.b.toNat :: rMask x.p [rV x.d.toNat]) (modIn x.mod 3) [rV x.d.toNat] (vlogF x)

/-- VREXP (R90): at mod's exponent or at clamp(Sb). -/
def vrexpF (x : AArgs) (m : Nat) (old t : Tile) : Tile :=
  let e := if x.mod.getLsbD 6 then clampE (sint (getS old x.b.toNat)) else sext 6 x.mod.toNat
  vec1 m x old t (amask x old) (.fixed e) (unitA x old) id

def opVrexp (x : AArgs) : SlotOp := satOp slotA 2 (rV x.a.toNat :: (if x.mod.getLsbD 6 then [rS x.b.toNat] else []) ++ rMask x.p [rV x.d.toNat]) (!x.mod.getLsbD 6 || okScal x.b) [rV x.d.toNat] (vrexpF x)

/-- VNORM (R90). -/
def vnormF (x : AArgs) (m : Nat) (old t : Tile) : Tile := vec1 m x old t (amask x old) .norm (unitA x old) id

def opVnorm (x : AArgs) : SlotOp := satOp slotA 3 (rV x.a.toNat :: rMask x.p [rV x.d.toNat]) (x.mod == 0) [rV x.d.toNat] (vnormF x)

/-- VSCL (R91): set the exponent, or scale by 2^k. Under a partial predicate a set narrows at the destination's exponent (R27), so that it may round and set SATF there; R91's "never rounds" is taken of a write of every lane. DESIGN CHOICE. -/
def vsclF (x : AArgs) (m : Nat) (old t : Tile) : Tile :=
  let k := sext 6 x.mod.toNat
  if x.mod.getLsbD 6 then
    vec1 m x old t (amask x old) (.fixed (clampE (expOf (getV old x.a.toNat) + k))) (unitA x old + k) id
  else vec1 m x old t (amask x old) (.fixed k) (k - 9) id

def opVscl (x : AArgs) : SlotOp := satOp slotA 2 (rV x.a.toNat :: rMask x.p [rV x.d.toNat]) true [rV x.d.toNat] (vsclF x)

/-- A lane's reciprocal in units of 2^(9−e); a zero lane takes a value that saturates at every exponent (R92). -/
def recip (m : Int) : Exact := if m = 0 then ((2 ^ 200 : Nat), 1) else (if m < 0 then -1 else 1, m.natAbs)

/-- VRCP (R92): with every lane active a zero lane makes the exponent 31. -/
def vrcpF (x : AArgs) (m : Nat) (old t : Tile) : Tile :=
  let va := getV old x.a.toNat
  let n : Narrow := if (mants va).any (· == 0) then .fixed 31 else .norm
  writeTenth t m x.d.toNat (amask x old) n ((mants va).map recip) (9 - expOf va) (tagOf va)

def opVrcp (x : AArgs) : SlotOp := satOp slotA 3 (rV x.a.toNat :: rMask x.p [rV x.d.toNat]) (x.mod == 0) [rV x.d.toNat] (vrcpF x)

/-- Conditions of VCMP (R93). -/
def cmpCond (c : Nat) (a b : Int) : Bool :=
  match c with
  | 0 => a == b
  | 1 => a != b
  | 2 => a < b
  | 3 => a ≤ b
  | 4 => b < a
  | _ => b ≤ a

/-- VCMP (R93): every bit of Pd is the comparison and Pp. -/
def vcmpF (x : AArgs) (_ : Nat) (old t : Tile) : Tile :=
  let r := aligned (getV old x.a.toNat) (getV old x.b.toNat)
  let bs := if x.mod.getLsbD 3 then lanes.map (fun _ => (0 : Int)) else r.2.1
  putP t x.d.toNat (amask x old &&& BitVec.ofNat 16
    ((lanes.map (fun i => if cmpCond (fld x.mod 2 0) (r.1.getD i 0) (bs.getD i 0) then 2 ^ i else 0)).sum))

def opVcmp (x : AArgs) : SlotOp :=
  regOp slotA 1 (rV x.a.toNat :: (if x.mod.getLsbD 3 then [] else [rV x.b.toNat]) ++ rMask x.p []) (okPred x.d && modIn x.mod 15 && fld x.mod 2 0 < 6 && (!x.mod.getLsbD 3 || x.b == 0)) [rP x.d.toNat] (vcmpF x)

/-- PLOG (R89). -/
def plogF (x : AArgs) (_ : Nat) (old t : Tile) : Tile :=
  putP t x.d.toNat (bitOp (fld x.mod 1 0) (getP old x.a.toNat) (getP old x.b.toNat))

def opPlog (x : AArgs) : SlotOp :=
  regOp slotA 1 [rP x.a.toNat, rP x.b.toNat] (okPred x.d && okPred x.a && okPred x.b && modIn x.mod 3 && x.p == 0) [rP x.d.toNat] (plogF x)

/-- The 16-bit immediate of PMOVI and SMOVH: imm[15] is a[0] (Table 3.4). -/
def imm16 (x : IArgs) : Nat := x.imm.toNat + 2 ^ 15 * (x.a.toNat % 2)

/-- PMOVI (R89). -/
def pmoviF (x : IArgs) (_ : Nat) (_ t : Tile) : Tile := putP t x.d.toNat (BitVec.ofNat 16 (imm16 x))

def opPmovi (x : IArgs) : SlotOp := regOp slotA 1 [] (okPred x.d) [rP x.d.toNat] (pmoviF x)

/-- PMOV (R89): direction 0 to a predicate, 1 to a scalar. -/
def pmovF (x : AArgs) (_ : Nat) (old t : Tile) : Tile :=
  if x.mod.getLsbD 0 then putS t x.d.toNat ((getP old x.a.toNat).setWidth 32)
  else putP t x.d.toNat ((getS old x.a.toNat).setWidth 16)

def opPmov (x : AArgs) : SlotOp :=
  if x.mod.getLsbD 0 then regOp slotA 1 [rP x.a.toNat] (okScal x.d && okPred x.a && modIn x.mod 1 && x.p == 0) [rS x.d.toNat] (pmovF x)
  else regOp slotA 1 [rS x.a.toNat] (okPred x.d && okScal x.a && modIn x.mod 1 && x.p == 0) [rP x.d.toNat] (pmovF x)

/-! ### Shuffles (R94) -/

/-- Lanes picked by index. -/
def pick (f : Nat → Nat) (ms : List Int) : List Int := lanes.map (fun i => ms.getD (f i % 16) 0)

/-- VBCAST. -/
def vbcastF (x : AArgs) (m : Nat) (old t : Tile) : Tile :=
  vec1 m x old t (amask x old) (.fixed (expOf (getV old x.a.toNat))) (unitA x old) (pick (fun _ => fld x.mod 3 0))

def opVbcast (x : AArgs) : SlotOp := satOp slotA 3 (rV x.a.toNat :: rMask x.p [rV x.d.toNat]) (modIn x.mod 15) [rV x.d.toNat] (vbcastF x)

/-- VROT. -/
def vrotF (x : AArgs) (m : Nat) (old t : Tile) : Tile :=
  vec1 m x old t (amask x old) (.fixed (expOf (getV old x.a.toNat))) (unitA x old) (pick (fun i => i + fld x.mod 3 0))

def opVrot (x : AArgs) : SlotOp := satOp slotA 3 (rV x.a.toNat :: rMask x.p [rV x.d.toNat]) (modIn x.mod 15) [rV x.d.toNat] (vrotF x)

/-- VPERM: indices from the low 4 bits of Vb's mantissas. -/
def vpermF (x : AArgs) (m : Nat) (old t : Tile) : Tile :=
  let vb := getV old x.b.toNat
  vec1 m x old t (amask x old) (.fixed (expOf (getV old x.a.toNat))) (unitA x old) (pick (fun i => vb.toNat >>> (10 * i)))

def opVperm (x : AArgs) : SlotOp := satOp slotA 3 (rV x.a.toNat :: rV x.b.toNat :: rMask x.p [rV x.d.toNat]) (x.mod == 0) [rV x.d.toNat] (vpermF x)

/-- VSEL: p selects, every lane is written (R77). -/
def vselF (x : AArgs) (m : Nat) (old t : Tile) : Tile :=
  vec2 m x old t 0xFFFF (.fixed (maxExp (getV old x.a.toNat) (getV old x.b.toNat))) (mergeLanes (amask x old))

def opVsel (x : AArgs) : SlotOp := satOp slotA 2 (rV x.a.toNat :: rV x.b.toNat :: rMask x.p []) (x.mod == 0) [rV x.d.toNat] (vselF x)

/-- VZIP: lane 2j from Va, 2j+1 from Vb, both lane j + 8h. -/
def vzipF (x : AArgs) (m : Nat) (old t : Tile) : Tile :=
  let h := if x.mod.getLsbD 0 then 8 else 0
  vec2 m x old t (amask x old) (.fixed (maxExp (getV old x.a.toNat) (getV old x.b.toNat)))
    (fun a b => lanes.map (fun i => (if i % 2 = 0 then a else b).getD (i / 2 + h) 0))

def opVzip (x : AArgs) : SlotOp := satOp slotA 3 (rV x.a.toNat :: rV x.b.toNat :: rMask x.p [rV x.d.toNat]) (modIn x.mod 1) [rV x.d.toNat] (vzipF x)

/-- VUZP: lanes 0–7 from Va lanes 2j + o, 8–15 from Vb. -/
def vuzpF (x : AArgs) (m : Nat) (old t : Tile) : Tile :=
  let o := if x.mod.getLsbD 0 then 1 else 0
  vec2 m x old t (amask x old) (.fixed (maxExp (getV old x.a.toNat) (getV old x.b.toNat)))
    (fun a b => lanes.map (fun i => (if i < 8 then a else b).getD (2 * (i % 8) + o) 0))

def opVuzp (x : AArgs) : SlotOp := satOp slotA 3 (rV x.a.toNat :: rV x.b.toNat :: rMask x.p [rV x.d.toNat]) (modIn x.mod 1) [rV x.d.toNat] (vuzpF x)

/-- VCSWP (R95): times +j, or −j with sign. -/
def vcswpF (x : AArgs) (m : Nat) (old t : Tile) : Tile :=
  vec1 m x old t (amask x old) (.fixed (expOf (getV old x.a.toNat))) (unitA x old)
    (fun a => lanes.map (fun i =>
      if i % 2 = 0 then (if x.mod.getLsbD 0 then a.getD (i + 1) 0 else -a.getD (i + 1) 0)
      else (if x.mod.getLsbD 0 then -a.getD (i - 1) 0 else a.getD (i - 1) 0)))

def opVcswp (x : AArgs) : SlotOp := satOp slotA 2 (rV x.a.toNat :: rMask x.p [rV x.d.toNat]) (modIn x.mod 1) [rV x.d.toNat] (vcswpF x)

/-- BFLY (R96): sum to Vd, difference to Vd+1. -/
def bflyF (x : AArgs) (m : Nat) (old t : Tile) : Tile :=
  let e := clampE (maxExp (getV old x.a.toNat) (getV old x.b.toNat) + 1)
  let t := vec2 m x old t (amask x old) (.fixed e) (List.zipWith (· + ·))
  vec2 m { x with d := x.d + 1 } old t (amask x old) (.fixed e) (List.zipWith (· - ·))

def opBfly (x : AArgs) : SlotOp :=
  satOp slotA 3 (rV x.a.toNat :: rV x.b.toNat :: rMask x.p (rPair x.d.toNat)) (okPair x.d && x.mod == 0) [rV x.d.toNat, rV (x.d.toNat + 1)] (bflyF x)

/-! ### Companding (R97 to R100) -/

/-- ulaw_expand of R100. -/
def ulawExpand (c : Nat) : Int :=
  let u := c ^^^ 0xFF
  let t : Int := (((u % 16) * 8 + 0x84) <<< ((u >>> 4) % 8) : Nat)
  if u.testBit 7 then 0x84 - t else t - 0x84

/-- The smallest segment of a coder, 8 when none holds. -/
def segment (unit v : Nat) : Nat := (((List.range 8).find? (fun s => decide (v ≤ unit * 2 ^ s - 1))).getD 8)

/-- ulaw_compress of R100. -/
def ulawCompress (l : Int) : Nat :=
  let v := asr l 2
  let mask := if v < 0 then 0x7F else 0xFF
  let v := min v.natAbs 8159 + 33
  let seg := segment 64 v
  if seg = 8 then 0x7F ^^^ mask else ((seg * 16) ||| ((v >>> (seg + 1)) % 16)) ^^^ mask

/-- alaw_expand of R100. -/
def alawExpand (c : Nat) : Int :=
  let a := c ^^^ 0x55
  let seg := (a >>> 4) % 8
  let t := (a % 16) * 16
  let t : Nat := if seg = 0 then t + 8 else (t + 0x108) <<< (seg - 1)
  if a.testBit 7 then t else -(t : Int)

/-- alaw_compress of R100. -/
def alawCompress (l : Int) : Nat :=
  let v := asr l 3
  let mask := if 0 ≤ v then 0xD5 else 0x55
  let v : Nat := if 0 ≤ v then v.toNat else (-v - 1).toNat
  let seg := segment 32 v
  if seg = 8 then 0x7F ^^^ mask
  else
    let q := if seg < 2 then (v >>> 1) % 16 else (v >>> seg) % 16
    ((seg * 16) ||| q) ^^^ mask

/-- The kind and byte-offset rules of R98 and R99. -/
def cvtLegal (x : AArgs) : Bool :=
  let k := fld x.mod 2 0
  modIn x.mod 7 && k % 4 != 3 &&
    (if k % 4 = 2 then x.b.toNat % 2 == 0 && x.b.toNat ≤ 8 else x.b.toNat ≤ 24)

/-- The sample of lane `i` in the byte view (R98). -/
def cvtSample (x : AArgs) (bs : List Byte) (i : Nat) : Int :=
  let b := x.b.toNat
  match fld x.mod 1 0 with
  | 0 => ulawExpand (bs.getD (b + i) 0).toNat
  | 1 => alawExpand (bs.getD (b + i) 0).toNat
  | _ => sext 16 ((bs.getD (b + 2 * i) 0).toNat + 256 * (bs.getD (b + 2 * i + 1) 0).toNat)

/-- CVTI (R98); the tag is 0 (R78). -/
def cvtiF (x : AArgs) (m : Nat) (old t : Tile) : Tile :=
  let bs := viewBytes (getV old x.a.toNat) (getV old (x.a.toNat + 1))
  let xs := exactInts (lanes.map (cvtSample x bs))
  if x.mod.getLsbD 2 then writePair t m x.d.toNat (amask x old) (.fixed 0) xs (-15) 0
  else writeTenth t m x.d.toNat (amask x old) .norm xs (-15) 0

def opCvti (x : AArgs) : SlotOp :=
  let pair := x.mod.getLsbD 2
  satOp slotA 3 (rPair x.a.toNat ++ rMask x.p (if x.mod.getLsbD 2 then rPair x.d.toNat else [rV x.d.toNat])) (cvtLegal x && okPair x.a && (!pair || okPair x.d))
    (if pair then [rV x.d.toNat, rV (x.d.toNat + 1)] else [rV x.d.toNat]) (cvtiF x)

/-- The 16-bit sample of a lane, and whether it was clamped (R99). -/
def cvtLinear (m : Nat) (x : AArgs) (old : Tile) (i : Nat) : Narrowed :=
  let hi := getV old x.a.toNat
  let l := if x.mod.getLsbD 2 then rndShift m (pairM old x.a.toNat i) 1 (expOf hi - 19 + 15)
    else rndShift m (laneM hi i) 1 (expOf hi - 9 + 15)
  if 32767 < l then (32767, true) else if l < -32768 then (-32768, true) else (l, false)

/-- The bytes of a sample at their offset. -/
def cvtPut (x : AArgs) (bs : List Byte) (i : Nat) (l : Int) : List Byte :=
  let b := x.b.toNat
  match fld x.mod 1 0 with
  | 0 => bs.set (b + i) (BitVec.ofNat 8 (ulawCompress l))
  | 1 => bs.set (b + i) (BitVec.ofNat 8 (alawCompress l))
  | _ => (bs.set (b + 2 * i) (ofSint 8 l)).set (b + 2 * i + 1) (ofSint 8 (asr l 8))

/-- CVTO (R99): bytes of the active lanes; exponents, tags and the other bytes stay. -/
def cvtoF (x : AArgs) (m : Nat) (old t : Tile) : Tile :=
  let d := x.d.toNat
  let hi := getV t d
  let lo := getV t (d + 1)
  let mask := amask x old
  let rs := lanes.map (cvtLinear m x old)
  let bs := foldS (fun bs i => if mask.getLsbD i then cvtPut x bs i (rs.getD i (0, false)).1 else bs) lanes (viewBytes hi lo)
  setSat (putV (putV t d (mkWord (leNat (bs.take 20)) (expOf hi) (tagOf hi))) (d + 1)
    (mkWord (leNat (bs.drop 20)) (expOf lo) (tagOf lo))) (satMask mask rs)

def opCvto (x : AArgs) : SlotOp :=
  satOp slotA 3 ((if x.mod.getLsbD 2 then rPair x.a.toNat else [rV x.a.toNat]) ++ rPair x.d.toNat ++ rMask x.p []) (cvtLegal x && okPair x.d && (!x.mod.getLsbD 2 || okPair x.a)) [rV x.d.toNat, rV (x.d.toNat + 1)] (cvtoF x)

/-! ### Scalars (R101) -/

/-- The operation of Table 3.8. -/
def saluOp (k : Nat) (a b : Word) : Word :=
  let n := b.toNat % 32
  match k with
  | 0 => a + b
  | 1 => a - b
  | 2 => a &&& b
  | 3 => a ||| b
  | 4 => a ^^^ b
  | 5 => a <<< n
  | 6 => a.sshiftRight n
  | 7 => a >>> n
  | 8 => a * b
  | 9 => if a.slt b then a else b
  | 10 => if a.slt b then b else a
  | _ => if a.slt b then 1 else 0

/-- SALU. -/
def saluF (x : AArgs) (_ : Nat) (old t : Tile) : Tile :=
  putS t x.d.toNat (saluOp (fld x.mod 3 0) (getS old x.a.toNat) (getS old x.b.toNat))

def opSalu (x : AArgs) : SlotOp :=
  regOp slotA 1 [rS x.a.toNat, rS x.b.toNat] (okScal x.d && okScal x.a && okScal x.b && modIn x.mod 15 && fld x.mod 3 0 < 12 && x.p == 0) [rS x.d.toNat] (saluF x)

/-- SADDI. -/
def saddiF (x : IArgs) (_ : Nat) (old t : Tile) : Tile := putS t x.d.toNat (getS old x.a.toNat + x.imm.signExtend 32)

def opSaddi (x : IArgs) : SlotOp := regOp slotA 1 [rS x.a.toNat] (okScal x.d && okScal x.a) [rS x.d.toNat] (saddiF x)

/-- SANDI. -/
def sandiF (x : IArgs) (_ : Nat) (old t : Tile) : Tile := putS t x.d.toNat (getS old x.a.toNat &&& x.imm.setWidth 32)

def opSandi (x : IArgs) : SlotOp := regOp slotA 1 [rS x.a.toNat] (okScal x.d && okScal x.a) [rS x.d.toNat] (sandiF x)

/-- SMOVI: imm[19:15] is the a field. -/
def smoviF (x : IArgs) (_ : Nat) (_ t : Tile) : Tile := putS t x.d.toNat (BitVec.signExtend 32 (x.a ++ x.imm))

def opSmovi (x : IArgs) : SlotOp := regOp slotA 1 [] (okScal x.d) [rS x.d.toNat] (smoviF x)

/-- SMOVH: the upper half; the lower half stays. -/
def smovhF (x : IArgs) (_ : Nat) (old t : Tile) : Tile := putS t x.d.toNat (setFld (getS old x.d.toNat) 31 16 (imm16 x))

def opSmovh (x : IArgs) : SlotOp := regOp slotA 1 [rS x.d.toNat] (okScal x.d) [rS x.d.toNat] (smovhF x)

/-- VEXT. -/
def vextF (x : AArgs) (_ : Nat) (old t : Tile) : Tile :=
  putS t x.d.toNat (ofSint 32 (laneM (getV old x.a.toNat) (fld x.mod 3 0)))

def opVext (x : AArgs) : SlotOp := regOp slotA 2 [rV x.a.toNat] (okScal x.d && modIn x.mod 15 && x.p == 0) [rS x.d.toNat] (vextF x)

/-- VINS: one lane; other lanes, exponent and tag stay (R78). -/
def vinsF (x : AArgs) (_ : Nat) (old t : Tile) : Tile :=
  let i := fld x.mod 3 0
  putV t x.d.toNat (setFld (getV t x.d.toNat) (10 * i + 9) (10 * i) (getS old x.a.toNat).toNat)

def opVins (x : AArgs) : SlotOp := regOp slotA 2 [rS x.a.toNat, rV x.d.toNat] (okScal x.a && modIn x.mod 15 && x.p == 0) [rV x.d.toNat] (vinsF x)

/-- VGETE. -/
def vgeteF (x : AArgs) (_ : Nat) (old t : Tile) : Tile := putS t x.d.toNat (ofSint 32 (expOf (getV old x.a.toNat)))

def opVgete (x : AArgs) : SlotOp := regOp slotA 1 [rV x.a.toNat] (okScal x.d && x.mod == 0 && x.p == 0) [rS x.d.toNat] (vgeteF x)

/-- SATCLR (R28): a bit that an older bundle sets in this cycle or later stays set, as `land` says; one that the same bundle sets is set after this. -/
def satclrF (x : AArgs) (land : BitVec 16) (old t : Tile) : Tile :=
  { t with satf := t.satf &&& ~~~ getP old x.a.toNat ||| (old.satf &&& land) }

def opSatclr (x : AArgs) : SlotOp :=
  { regOp slotA 1 [rP x.a.toNat] (okPred x.a && x.d == 0 && x.b == 0 && x.mod == 0 && x.p == 0) [] (fun _ _ t => t) with
    eff := fun n _ old s => modTile s n (satclrF x (landing (pipeAt s n)) old) }

/-- SATGET (R28). -/
def satgetF (x : AArgs) (_ : Nat) (old t : Tile) : Tile := putS t x.d.toNat (old.satf.setWidth 32)

def opSatget (x : AArgs) : SlotOp :=
  { regOp slotA 1 [] (okScal x.d && x.a == 0 && x.b == 0 && x.mod == 0 && x.p == 0) [rS x.d.toNat] (satgetF x) with satRead := true }

/-- NOP of the A slot (Table 3.7): its operands and mod are 0; a p that is not 0 is no cause of R79. -/
def opNopA (x : AArgs) : SlotOp := regOp slotA 1 [] (x.d == 0 && x.a == 0 && x.b == 0 && x.mod == 0) [] (fun _ _ t => t)

/-- VADD (R90). -/
def execVadd (tile : Fin 96) (d a b : BitVec 5) (p : BitVec 3) (mod : BitVec 7) (s : State) :
    Host.Outcome State Fault Refusal :=
  live s (issueRow s tile.val (opVadd ⟨d, a, b, p, mod⟩) 0)

/-- VMAX (R90). -/
def execVmax (tile : Fin 96) (d a b : BitVec 5) (p : BitVec 3) (mod : BitVec 7) (s : State) :
    Host.Outcome State Fault Refusal :=
  live s (issueRow s tile.val (opVmax ⟨d, a, b, p, mod⟩) 0)

/-- VABS (R90). -/
def execVabs (tile : Fin 96) (d a b : BitVec 5) (p : BitVec 3) (mod : BitVec 7) (s : State) :
    Host.Outcome State Fault Refusal :=
  live s (issueRow s tile.val (opVabs ⟨d, a, b, p, mod⟩) 0)

/-- VLOG (R94). -/
def execVlog (tile : Fin 96) (d a b : BitVec 5) (p : BitVec 3) (mod : BitVec 7) (s : State) :
    Host.Outcome State Fault Refusal :=
  live s (issueRow s tile.val (opVlog ⟨d, a, b, p, mod⟩) 0)

/-- VREXP (R90). -/
def execVrexp (tile : Fin 96) (d a b : BitVec 5) (p : BitVec 3) (mod : BitVec 7) (s : State) :
    Host.Outcome State Fault Refusal :=
  live s (issueRow s tile.val (opVrexp ⟨d, a, b, p, mod⟩) 0)

/-- VNORM (R90). -/
def execVnorm (tile : Fin 96) (d a b : BitVec 5) (p : BitVec 3) (mod : BitVec 7) (s : State) :
    Host.Outcome State Fault Refusal :=
  live s (issueRow s tile.val (opVnorm ⟨d, a, b, p, mod⟩) 0)

/-- VSCL (R91). -/
def execVscl (tile : Fin 96) (d a b : BitVec 5) (p : BitVec 3) (mod : BitVec 7) (s : State) :
    Host.Outcome State Fault Refusal :=
  live s (issueRow s tile.val (opVscl ⟨d, a, b, p, mod⟩) 0)

/-- VRCP (R92). -/
def execVrcp (tile : Fin 96) (d a b : BitVec 5) (p : BitVec 3) (mod : BitVec 7) (s : State) :
    Host.Outcome State Fault Refusal :=
  live s (issueRow s tile.val (opVrcp ⟨d, a, b, p, mod⟩) 0)

/-- VCMP (R93). -/
def execVcmp (tile : Fin 96) (d a b : BitVec 5) (p : BitVec 3) (mod : BitVec 7) (s : State) :
    Host.Outcome State Fault Refusal :=
  live s (issueRow s tile.val (opVcmp ⟨d, a, b, p, mod⟩) 0)

/-- PLOG (R89). -/
def execPlog (tile : Fin 96) (d a b : BitVec 5) (p : BitVec 3) (mod : BitVec 7) (s : State) :
    Host.Outcome State Fault Refusal :=
  live s (issueRow s tile.val (opPlog ⟨d, a, b, p, mod⟩) 0)

/-- PMOV (R89). -/
def execPmov (tile : Fin 96) (d a b : BitVec 5) (p : BitVec 3) (mod : BitVec 7) (s : State) :
    Host.Outcome State Fault Refusal :=
  live s (issueRow s tile.val (opPmov ⟨d, a, b, p, mod⟩) 0)

/-- VBCAST (R94). -/
def execVbcast (tile : Fin 96) (d a b : BitVec 5) (p : BitVec 3) (mod : BitVec 7) (s : State) :
    Host.Outcome State Fault Refusal :=
  live s (issueRow s tile.val (opVbcast ⟨d, a, b, p, mod⟩) 0)

/-- VROT (R94). -/
def execVrot (tile : Fin 96) (d a b : BitVec 5) (p : BitVec 3) (mod : BitVec 7) (s : State) :
    Host.Outcome State Fault Refusal :=
  live s (issueRow s tile.val (opVrot ⟨d, a, b, p, mod⟩) 0)

/-- VPERM (R94). -/
def execVperm (tile : Fin 96) (d a b : BitVec 5) (p : BitVec 3) (mod : BitVec 7) (s : State) :
    Host.Outcome State Fault Refusal :=
  live s (issueRow s tile.val (opVperm ⟨d, a, b, p, mod⟩) 0)

/-- VSEL (R90). -/
def execVsel (tile : Fin 96) (d a b : BitVec 5) (p : BitVec 3) (mod : BitVec 7) (s : State) :
    Host.Outcome State Fault Refusal :=
  live s (issueRow s tile.val (opVsel ⟨d, a, b, p, mod⟩) 0)

/-- VZIP (R94). -/
def execVzip (tile : Fin 96) (d a b : BitVec 5) (p : BitVec 3) (mod : BitVec 7) (s : State) :
    Host.Outcome State Fault Refusal :=
  live s (issueRow s tile.val (opVzip ⟨d, a, b, p, mod⟩) 0)

/-- VUZP (R94). -/
def execVuzp (tile : Fin 96) (d a b : BitVec 5) (p : BitVec 3) (mod : BitVec 7) (s : State) :
    Host.Outcome State Fault Refusal :=
  live s (issueRow s tile.val (opVuzp ⟨d, a, b, p, mod⟩) 0)

/-- VCSWP (R95). -/
def execVcswp (tile : Fin 96) (d a b : BitVec 5) (p : BitVec 3) (mod : BitVec 7) (s : State) :
    Host.Outcome State Fault Refusal :=
  live s (issueRow s tile.val (opVcswp ⟨d, a, b, p, mod⟩) 0)

/-- BFLY (R96). -/
def execBfly (tile : Fin 96) (d a b : BitVec 5) (p : BitVec 3) (mod : BitVec 7) (s : State) :
    Host.Outcome State Fault Refusal :=
  live s (issueRow s tile.val (opBfly ⟨d, a, b, p, mod⟩) 0)

/-- CVTI (R98). -/
def execCvti (tile : Fin 96) (d a b : BitVec 5) (p : BitVec 3) (mod : BitVec 7) (s : State) :
    Host.Outcome State Fault Refusal :=
  live s (issueRow s tile.val (opCvti ⟨d, a, b, p, mod⟩) 0)

/-- CVTO (R99). -/
def execCvto (tile : Fin 96) (d a b : BitVec 5) (p : BitVec 3) (mod : BitVec 7) (s : State) :
    Host.Outcome State Fault Refusal :=
  live s (issueRow s tile.val (opCvto ⟨d, a, b, p, mod⟩) 0)

/-- SALU (R101). -/
def execSalu (tile : Fin 96) (d a b : BitVec 5) (p : BitVec 3) (mod : BitVec 7) (s : State) :
    Host.Outcome State Fault Refusal :=
  live s (issueRow s tile.val (opSalu ⟨d, a, b, p, mod⟩) 0)

/-- VEXT (R89). -/
def execVext (tile : Fin 96) (d a b : BitVec 5) (p : BitVec 3) (mod : BitVec 7) (s : State) :
    Host.Outcome State Fault Refusal :=
  live s (issueRow s tile.val (opVext ⟨d, a, b, p, mod⟩) 0)

/-- VINS (R89). -/
def execVins (tile : Fin 96) (d a b : BitVec 5) (p : BitVec 3) (mod : BitVec 7) (s : State) :
    Host.Outcome State Fault Refusal :=
  live s (issueRow s tile.val (opVins ⟨d, a, b, p, mod⟩) 0)

/-- VGETE (R89). -/
def execVgete (tile : Fin 96) (d a b : BitVec 5) (p : BitVec 3) (mod : BitVec 7) (s : State) :
    Host.Outcome State Fault Refusal :=
  live s (issueRow s tile.val (opVgete ⟨d, a, b, p, mod⟩) 0)

/-- SATCLR (R28). -/
def execSatclr (tile : Fin 96) (d a b : BitVec 5) (p : BitVec 3) (mod : BitVec 7) (s : State) :
    Host.Outcome State Fault Refusal :=
  live s (issueRow s tile.val (opSatclr ⟨d, a, b, p, mod⟩) 0)

/-- SATGET (R28). -/
def execSatget (tile : Fin 96) (d a b : BitVec 5) (p : BitVec 3) (mod : BitVec 7) (s : State) :
    Host.Outcome State Fault Refusal :=
  live s (issueRow s tile.val (opSatget ⟨d, a, b, p, mod⟩) 0)

/-- PMOVI (R89). -/
def execPmovi (tile : Fin 96) (d a : BitVec 5) (imm : BitVec 15) (s : State) :
    Host.Outcome State Fault Refusal :=
  live s (issueRow s tile.val (opPmovi ⟨d, a, imm⟩) 0)

/-- SADDI (R89). -/
def execSaddi (tile : Fin 96) (d a : BitVec 5) (imm : BitVec 15) (s : State) :
    Host.Outcome State Fault Refusal :=
  live s (issueRow s tile.val (opSaddi ⟨d, a, imm⟩) 0)

/-- SANDI (R89). -/
def execSandi (tile : Fin 96) (d a : BitVec 5) (imm : BitVec 15) (s : State) :
    Host.Outcome State Fault Refusal :=
  live s (issueRow s tile.val (opSandi ⟨d, a, imm⟩) 0)

/-- SMOVI (R89). -/
def execSmovi (tile : Fin 96) (d a : BitVec 5) (imm : BitVec 15) (s : State) :
    Host.Outcome State Fault Refusal :=
  live s (issueRow s tile.val (opSmovi ⟨d, a, imm⟩) 0)

/-- SMOVH (R89). -/
def execSmovh (tile : Fin 96) (d a : BitVec 5) (imm : BitVec 15) (s : State) :
    Host.Outcome State Fault Refusal :=
  live s (issueRow s tile.val (opSmovh ⟨d, a, imm⟩) 0)

end Sys2Proof.Machine
end

