-- ==== Sys2Proof/Machine/TileC.lean ====
section
/-! DEFINITION. The C slot: branches, block repeats, stops, Traverse, doorbells and queue access (R114 to R128). An instruction is its opcode and its field bits [17:0] (Table 4.5). -/

namespace Sys2Proof.Machine

/-- Field bits [17:14], [13:10] and the target of a C-slot instruction. -/
def cHi (f : BitVec 18) : Nat := fld f 17 14
def cLo (f : BitVec 18) : Nat := fld f 13 10
def cTarget (f : BitVec 18) : Nat := fld f 10 0

/-- A C-slot instruction without an effect of its own. -/
def ctlOp (legal : Bool) (writes : List Nat) : SlotOp :=
  { slot := slotC, legal := legal, writes := writes, load := false, ctl := false, block := fun _ => none,
    dyn := fun _ _ _ => none, eff := fun _ _ _ s => s, next := fun _ => none,
    lat := 1, reads := [], mac := none, satRead := false, stores := fun _ => [], loads := fun _ => [], gap := fun _ => 0 }

/-- A condition of Table 4.6. -/
def brCond (t : Tile) (f : BitVec 18) : Bool :=
  let v := getS t (cHi f)
  let p := getP t (cHi f)
  match fld f 13 11 with
  | 0 => true
  | 1 => v == 0
  | 2 => v != 0
  | 3 => v.msb
  | 4 => !v.msb
  | 5 => p != 0
  | 6 => p == 0
  | _ => p == 0xFFFF

/-- BR (R115). -/
def opBr (f : BitVec 18) : SlotOp :=
  { ctlOp (if fld f 13 11 = 0 then cHi f == 0 else fld f 13 11 < 5 || cHi f < 8) [] with
    ctl := true
    reads := if fld f 13 11 = 0 then [] else if fld f 13 11 < 5 then [rS (cHi f)] else [rP (cHi f)]
    next := fun t => if brCond t f then some (cTarget f, true) else none }

/-- CALL (R115, R116). -/
def opCall (f : BitVec 18) : SlotOp :=
  { ctlOp (fld f 13 11 == 0) [rS (cHi f)] with
    ctl := true
    eff := fun n _ old s => modTile s n (fun t => putS t (cHi f) ((old.pc + 1).setWidth 32))
    next := fun _ => some (cTarget f, true) }

/-- RET (R115). -/
def opRet (f : BitVec 18) : SlotOp :=
  { ctlOp (fld f 13 0 == 0) [] with
    ctl := true
    reads := [rS (cHi f)]
    next := fun t => some (fld (getS t (cHi f)) 10 0, true) }

/-- Level, count register and length of a LOOP (R117). -/
def loopK (f : BitVec 18) : Nat := fld f 17 16
def loopR (f : BitVec 18) : Nat := fld f 15 12
def loopLen (f : BitVec 18) : Nat := cTarget f + 1

/-- Start and end of a LOOP issued at the tile's PC (R35). The bundle address after bundle 2 047 is taken as 0, as the PC is; the spec does not say whether it is 2 048 there, past which every end would fault. DESIGN CHOICE. -/
def loopStart (t : Tile) : Nat := (t.pc.toNat + 1) % 2048
def loopEnd (t : Tile) (f : BitVec 18) : Nat := loopStart t + loopLen f - 1

/-- The LOOP faults of R35, by case. -/
def loopFault (t : Tile) (f : BitVec 18) : Option (Nat × Nat) :=
  let k := loopK f
  let st := loopStart t
  let en := loopEnd t f
  if 2047 < en then some (fltLoop, 1)
  else if [0, 1, 2].any (fun h => k < h && (getLp t h).active) then some (fltLoop, 2)
  else if [0, 1, 2].any (fun h => h < k && (getLp t h).active && !((getLp t h).start ≤ st && en ≤ (getLp t h).stop)) then
    some (fltLoop, 3)
  else if (getLp t k).active then some (fltLoop, 4)
  else none

/-- LOOP (R35, R36, R117): a count of 0 sets up no level and goes on after the body. -/
def opLoop (f : BitVec 18) : SlotOp :=
  { ctlOp (loopK f != 3 && !f.getLsbD 11) [rLp (loopK f)] with
    ctl := true
    reads := [rS (loopR f)]
    gap := fun t => if loopLen f = 1 && fld (getS t (loopR f)) 15 0 != 0 then 1 else 0
    dyn := fun _ _ t => loopFault t f
    eff := fun n _ old s =>
      let c := fld (getS old (loopR f)) 15 0
      if c = 0 then s else modTile s n (fun t => putLp t (loopK f) ⟨true, loopStart old, loopEnd old f, c⟩)
    next := fun t => if fld (getS t (loopR f)) 15 0 = 0 then some ((loopEnd t f + 1) % 2048, false) else none }

/-- HALT (R118). -/
def opHalt (f : BitVec 18) : SlotOp :=
  { ctlOp (f == 0) [] with
    eff := fun n _ _ s => tileStopEvent (wrb s (Reg.TILE_CTRL n) 0 false) n }

/-- BKPT (R118): a no-operation while bkpt_en is 0. -/
def opBkpt (f : BitVec 18) : SlotOp :=
  { ctlOp (f == 0) [] with
    eff := fun n _ _ s =>
      if rdb s (Reg.TILE_DBG_CTRL n) 1 then
        tileStopEvent (wrb (wrb s (Reg.TILE_CTRL n) 0 false) (Reg.TILE_DBG_CTRL n) 2 true) n
      else s }

/-- TASK.ASK (R119, R120): the dispatch record goes to Sd, Sd+1 and TILE_TASK when the bundle issues, not from Traverse's dispatch on; R120 does not say in which cycle between the two TILE_TASK records the node. DESIGN CHOICE. -/
def opTaskAsk (f : BitVec 18) : SlotOp :=
  { ctlOp (fld f 13 0 == 0 && cHi f % 2 == 0) [rS (cHi f), rS (cHi f + 1)] with
    ctl := true
    block := fun _ => some .ask
    eff := fun n a _ s =>
      match a with
      | some (.dispatch w0 w1) =>
        let s := modTile s n (fun t => putS (putS t (cHi f) w0) (cHi f + 1) w1)
        wr (wr s (Reg.TILE_TASK n) (setBit w0 31 true)) (Reg.TILE_TASK_ARG n) w1
      | _ => s }

/-- A message leaves a tile for Traverse (R121). -/
def toTrv (s : State) (m : TrvMsg) : State := { s with trv := { s.trv with inbox := s.trv.inbox ++ [m] } }

/-- TASK.END (R120). -/
def opTaskEnd (f : BitVec 18) : SlotOp :=
  { ctlOp (fld f 13 0 == 0) [] with
    reads := [rS (cHi f)]
    dyn := fun s n _ => if rdb s (Reg.TILE_TASK n) 31 then none else some (fltTask, 0)
    eff := fun n _ old s =>
      toTrv (wrb s (Reg.TILE_TASK n) 31 false) (.nodeEnd n (rdf s (Reg.TILE_TASK n) 14 0) (fld (getS old (cHi f)) 7 0)) }

/-- DBELL's scalar (Table 4.5). -/
def dbS (t : Tile) (f : BitVec 18) : Word := getS t (fld f 15 12)

/-- Are the bits of a DBELL's scalar legal for its kind (R127)? -/
def dbLegal (t : Tile) (f : BitVec 18) : Bool :=
  if fld f 17 16 = 0 then fld (dbS t f) 31 26 == 0 && fld (dbS t f) 25 18 != 0 else fld (dbS t f) 31 6 == 0

/-- DBELL (R127). -/
def opDbell (f : BitVec 18) : SlotOp :=
  { ctlOp (fld f 17 16 < 2 && fld f 11 0 == 0) [] with
    reads := [rS (fld f 15 12)]
    dyn := fun _ _ t => if dbLegal t f then none else some (fltIllegal, 0)
    eff := fun n _ old s =>
      let v := dbS old f
      toTrv s (if fld f 17 16 = 0 then .tokens n (fld v 14 0) (fld v 17 15) (fld v 25 18) else .hostDb n (fld v 5 0)) }

/-- An instruction of queue access: its request carries the whole of Sa (R126). -/
def queueOp (f : BitVec 18) (op : JqOp) (legal : Bool) (writes : List Nat)
    (eff : Nat → Tile → Answer → State → State) : SlotOp :=
  { ctlOp legal writes with
    reads := [rS (cLo f)]
    block := fun t => some (.queue op (getS t (cLo f)).toNat)
    eff := fun n a old s => match a with
      | some a => eff n old a s
      | none => s }

/-- QTAKE (R122). -/
def opQtake (f : BitVec 18) : SlotOp :=
  queueOp f .take (fld f 9 0 == 0) [rS (cHi f)] (fun n old a s =>
    match a with
    | .item v =>
      let s := modTile s n (fun t => putS t (cHi f) v)
      wr (wr s (Reg.TILE_QLAST n) (BitVec.ofNat 32 (2 ^ 31 + fld (getS old (cLo f)) 15 0))) (Reg.TILE_QLAST_ITEM n) v
    | _ => s)

/-- QPEEK (R123). -/
def opQpeek (f : BitVec 18) : SlotOp :=
  queueOp f .peek (fld f 6 0 == 0 && fld f 9 7 != 0) [rS (cHi f), rP (fld f 9 7)] (fun n _ a s =>
    match a with
    | .peek present v => modTile s n (fun t => putP (putS t (cHi f) v) (fld f 9 7) (if present then 0xFFFF else 0))
    | _ => s)

/-- The effect of QSKIP and REWIND: Sd takes the engine's code. -/
def codeEff (f : BitVec 18) (n : Nat) (_ : Tile) (a : Answer) (s : State) : State :=
  match a with
  | .code v => modTile s n (fun t => putS t (cHi f) v)
  | _ => s

/-- QSKIP (R124). -/
def opQskip (f : BitVec 18) : SlotOp := queueOp f .skip (fld f 9 0 == 0) [rS (cHi f)] (codeEff f)

/-- QMARK (R125). -/
def opQmark (f : BitVec 18) : SlotOp := queueOp f .mark (fld f 9 0 == 0 && cHi f == 0) [] (fun _ _ _ s => s)

/-- REWIND (R125). -/
def opRewind (f : BitVec 18) : SlotOp := queueOp f .rewind (fld f 9 0 == 0) [rS (cHi f)] (codeEff f)

/-- The 24 bits of a C slot. -/
def cBits (op : Nat) (f : BitVec 18) : BitVec 24 := BitVec.ofNat 24 (2 ^ 18 * op + f.toNat)

/-- A C-slot row. -/
def issueC (tile : Nat) (op : SlotOp) (code : Nat) (f : BitVec 18) (s : State) : State :=
  issueRow s tile op (bundleC (cBits code f))

/-- BR (R115). -/
def execBr (tile : Fin 96) (f : BitVec 18) (s : State) : Host.Outcome State Fault Refusal :=
  live s (issueC tile.val (opBr f) 0x01 f s)

/-- CALL (R115). -/
def execCall (tile : Fin 96) (f : BitVec 18) (s : State) : Host.Outcome State Fault Refusal :=
  live s (issueC tile.val (opCall f) 0x02 f s)

/-- RET (R115). -/
def execRet (tile : Fin 96) (f : BitVec 18) (s : State) : Host.Outcome State Fault Refusal :=
  live s (issueC tile.val (opRet f) 0x03 f s)

/-- LOOP (R117). -/
def execLoop (tile : Fin 96) (f : BitVec 18) (s : State) : Host.Outcome State Fault Refusal :=
  live s (issueC tile.val (opLoop f) 0x04 f s)

/-- HALT (R118). -/
def execHalt (tile : Fin 96) (f : BitVec 18) (s : State) : Host.Outcome State Fault Refusal :=
  live s (issueC tile.val (opHalt f) 0x08 f s)

/-- BKPT (R118). -/
def execBkpt (tile : Fin 96) (f : BitVec 18) (s : State) : Host.Outcome State Fault Refusal :=
  live s (issueC tile.val (opBkpt f) 0x09 f s)

/-- TASK_ASK (R119). -/
def execTaskAsk (tile : Fin 96) (f : BitVec 18) (s : State) : Host.Outcome State Fault Refusal :=
  live s (issueC tile.val (opTaskAsk f) 0x10 f s)

/-- TASK_END (R120). -/
def execTaskEnd (tile : Fin 96) (f : BitVec 18) (s : State) : Host.Outcome State Fault Refusal :=
  live s (issueC tile.val (opTaskEnd f) 0x11 f s)

/-- DBELL (R127). -/
def execDbell (tile : Fin 96) (f : BitVec 18) (s : State) : Host.Outcome State Fault Refusal :=
  live s (issueC tile.val (opDbell f) 0x12 f s)

/-- QTAKE (R122). -/
def execQtake (tile : Fin 96) (f : BitVec 18) (s : State) : Host.Outcome State Fault Refusal :=
  live s (issueC tile.val (opQtake f) 0x18 f s)

/-- QPEEK (R123). -/
def execQpeek (tile : Fin 96) (f : BitVec 18) (s : State) : Host.Outcome State Fault Refusal :=
  live s (issueC tile.val (opQpeek f) 0x19 f s)

/-- QSKIP (R124). -/
def execQskip (tile : Fin 96) (f : BitVec 18) (s : State) : Host.Outcome State Fault Refusal :=
  live s (issueC tile.val (opQskip f) 0x1A f s)

/-- QMARK (R125). -/
def execQmark (tile : Fin 96) (f : BitVec 18) (s : State) : Host.Outcome State Fault Refusal :=
  live s (issueC tile.val (opQmark f) 0x1B f s)

/-- REWIND (R125). -/
def execRewind (tile : Fin 96) (f : BitVec 18) (s : State) : Host.Outcome State Fault Refusal :=
  live s (issueC tile.val (opRewind f) 0x1C f s)

end Sys2Proof.Machine
end

