-- ==== Sys2Proof/Machine/TileM.lean ====
section
/-! DEFINITION. The M slot: loads, stores, address registers and the DMA channels (R59 to R63, R70, R102 to R110). -/

namespace Sys2Proof.Machine

/-- A dual memory operation after its op (R103). -/
structure DualArgs where
  v : BitVec 5
  a : BitVec 3
  inc : BitVec 6
  deriving DecidableEq, Repr

/-- A wide M-slot instruction after its opcode (Table 4.1). -/
structure WideArgs where
  r : BitVec 5
  a : BitVec 3
  p : BitVec 3
  imm : BitVec 13
  x : BitVec 4
  deriving DecidableEq, Repr

/-- An M-slot instruction: registers read, legality, registers written, load or not, faults at issue, effect. -/
def memOp (reads : List Nat) (legal : Bool) (writes : List Nat) (load : Bool) (dyn : Tile → Option (Nat × Nat))
    (eff : Nat → Tile → State → State) : SlotOp :=
  { slot := slotM, legal := legal, writes := writes, load := load, ctl := false, block := fun _ => none,
    dyn := fun _ _ t => dyn t, eff := fun n _ old s => eff n old s, next := fun _ => none,
    lat := if load then 3 else 1, reads := reads, mac := none, satRead := false,
    stores := fun _ => [], loads := fun _ => [], gap := fun _ => 0 }

/-- The address, base and length registers of an access. -/
def rRing (a : BitVec 3) : List Nat := [rA 0 a.toNat, rA 1 a.toNat, rA 2 a.toNat]

/-- A load of the words at `ea`: their banks (R46). -/
def SlotOp.loading (o : SlotOp) (ea : Tile → List Nat) : SlotOp := { o with loads := fun t => (ea t).map (· % 8) }

/-- A store to the words at `ea` under a lane mask: a slot each, two where it is partial, none with no lane (R47, R105). -/
def SlotOp.storing (o : SlotOp) (mask : Tile → BitVec 16) (ea : Tile → List Nat) : SlotOp :=
  { o with stores := fun t => if mask t = 0 then [] else (ea t).map (fun a => (a % 8, if mask t = 0xFFFF then 1 else 2)) }

/-- Update address register `a` by `n` (R33). -/
def bumpA (old : Tile) (a : Nat) (n : Int) (t : Tile) : Tile := putA t a (ring old a n)

/-- Load word `ea` of tile `n` into vector register `v`; a faulting load leaves it (R54, R58). -/
def loadV (n ea v : Nat) (s : State) : State :=
  match tileLoad s n ea with
  | (some w, s) => modTile s n (fun t => putV t v w)
  | (none, s) => s

/-! ### Dual operations -/

/-- VLD. -/
def opVld (x : DualArgs) : SlotOp :=
  (memOp (rRing x.a) true [rV x.v.toNat, rA 0 x.a.toNat] true (fun _ => none) (fun n old s =>
    modTile (loadV n (getA old x.a.toNat).toNat x.v.toNat s) n (bumpA old x.a.toNat (sint x.inc)))).loading
    (fun t => [(getA t x.a.toNat).toNat])

/-- VST. -/
def opVst (x : DualArgs) : SlotOp :=
  (memOp (rV x.v.toNat :: rRing x.a) true [rA 0 x.a.toNat] false (fun _ => none) (fun n old s =>
    modTile (tmWrite s n (getA old x.a.toNat).toNat (getV old x.v.toNat)) n (bumpA old x.a.toNat (sint x.inc)))).storing
    (fun _ => 0xFFFF) (fun t => [(getA t x.a.toNat).toNat])

/-- VLDO. -/
def opVldo (x : DualArgs) : SlotOp :=
  (memOp (rRing x.a) true [rV x.v.toNat] true (fun _ => none) (fun n old s =>
    loadV n (ring old x.a.toNat (sint x.inc)) x.v.toNat s)).loading (fun t => [ring t x.a.toNat (sint x.inc)])

/-- VSTO. -/
def opVsto (x : DualArgs) : SlotOp :=
  (memOp (rV x.v.toNat :: rRing x.a) true [] false (fun _ => none) (fun n old s =>
    tmWrite s n (ring old x.a.toNat (sint x.inc)) (getV old x.v.toNat))).storing (fun _ => 0xFFFF)
    (fun t => [ring t x.a.toNat (sint x.inc)])

/-! ### Wide operations -/

/-- The address in the register of a wide instruction. -/
def eaW (x : WideArgs) (t : Tile) : Nat := (getA t x.a.toNat).toNat

/-- The address of VLDD and VSTD must be even (R107). -/
def alignFault (x : WideArgs) (t : Tile) : Option (Nat × Nat) := if eaW x t % 2 = 1 then some (fltAlign, eaW x t) else none

/-- VSTP (R105). -/
def opVstp (x : WideArgs) : SlotOp :=
  (memOp (rV x.r.toNat :: rP x.p.toNat :: rRing x.a) (x.x == 0) [rA 0 x.a.toNat] false (fun _ => none) (fun n old s =>
    modTile (tileStoreP s n (eaW x old) (getP old x.p.toNat) (getV old x.r.toNat)) n (bumpA old x.a.toNat (sint x.imm)))).storing
    (fun t => getP t x.p.toNat) (fun t => [eaW x t])

/-- VLDD (R107): words ea and ea + 1. -/
def opVldd (x : WideArgs) : SlotOp :=
  (memOp (rRing x.a) (okPair x.r && x.p == 0 && x.x == 0) [rV x.r.toNat, rV (x.r.toNat + 1), rA 0 x.a.toNat] true (alignFault x)
    (fun n old s =>
      let ea := eaW x old
      let r := tileLoad s n ea
      let q := tileLoad r.2 n (ea + 1)
      let s := match r.1, q.1 with
        | some h, some l => modTile q.2 n (fun t => putV (putV t x.r.toNat h) (x.r.toNat + 1) l)
        | _, _ => q.2
      modTile s n (bumpA old x.a.toNat (sint x.imm)))).loading (fun t => [eaW x t, eaW x t + 1])

/-- VSTD (R107). -/
def opVstd (x : WideArgs) : SlotOp :=
  (memOp (rPair x.r.toNat ++ rP x.p.toNat :: rRing x.a) (okPair x.r && x.x == 0) [rA 0 x.a.toNat] false (alignFault x) (fun n old s =>
    let ea := eaW x old
    let p := getP old x.p.toNat
    let s := tileStoreP (tileStoreP s n ea p (getV old x.r.toNat)) n (ea + 1) p (getV old (x.r.toNat + 1))
    modTile s n (bumpA old x.a.toNat (sint x.imm)))).storing (fun t => getP t x.p.toNat) (fun t => [eaW x t, eaW x t + 1])

/-- The field of SLD and SST: j in 0 to 4 (R108). -/
def okField (x : WideArgs) : Bool := x.r.toNat < 5 && x.p == 0

/-- SLD (R108): it ignores the exponent and the tag, and so the tag trap. DEDUCED. -/
def opSld (x : WideArgs) : SlotOp :=
  (memOp (rRing x.a) (okField x) [rS x.x.toNat] true (fun _ => none) (fun n old s =>
    let ea := ring old x.a.toNat (sint x.imm)
    match loadRead s n ea with
    | (some w, s) => modTile s n (fun t => putS t x.x.toNat (BitVec.ofNat 32 (w.toNat >>> (32 * x.r.toNat))))
    | (none, s) => lateFault s n fltMemD 0 (dmemLoc n ea 255))).loading (fun t => [ring t x.a.toNat (sint x.imm)])

/-- SST (R108): a partial store. -/
def opSst (x : WideArgs) : SlotOp :=
  (memOp (rS x.x.toNat :: rRing x.a) (okField x) [] false (fun _ => none) (fun n old s =>
    tilePartial s n (ring old x.a.toNat (sint x.imm))
      (fun w => setFld w (32 * x.r.toNat + 31) (32 * x.r.toNat) (getS old x.x.toNat).toNat))).storing (fun _ => 1)
    (fun t => [ring t x.a.toNat (sint x.imm)])

/-- The address of VLDX and VSTX: ring(Aa, Sx), the scalar read as signed. DESIGN CHOICE. -/
def eaX (x : WideArgs) (t : Tile) : Nat := ring t x.a.toNat (sint (getS t x.x.toNat))

/-- VLDX (R105). -/
def opVldx (x : WideArgs) : SlotOp :=
  (memOp (rS x.x.toNat :: rRing x.a) (x.p == 0 && x.imm == 0) [rV x.r.toNat] true (fun _ => none) (fun n old s =>
    loadV n (eaX x old) x.r.toNat s)).loading (fun t => [eaX x t])

/-- VSTX (R105). -/
def opVstx (x : WideArgs) : SlotOp :=
  (memOp (rS x.x.toNat :: rV x.r.toNat :: rP x.p.toNat :: rRing x.a) (x.imm == 0) [] false (fun _ => none) (fun n old s =>
    tileStoreP s n (eaX x old) (getP old x.p.toNat) (getV old x.r.toNat))).storing (fun t => getP t x.p.toNat) (fun t => [eaX x t])

/-- AINC (R105). -/
def opAinc (x : WideArgs) : SlotOp :=
  memOp (rRing x.a) (x.r == 0 && x.p == 0 && x.x == 0) [rA 0 x.a.toNat] false (fun _ => none)
    (fun n old s => modTile s n (bumpA old x.a.toNat (sint x.imm)))

/-- Write the address, base or length register that `kind` names (R106); a length is at most 8 192. -/
def putKind (t : Tile) (kind i v : Nat) : Tile :=
  match kind with
  | 0 => putA t i v
  | 1 => putABase t i v
  | _ => putALen t i (min (v % 2 ^ 14) 8192)

/-- Read it. -/
def getKind (t : Tile) (kind i : Nat) : Nat :=
  match kind with
  | 0 => (getA t i).toNat
  | 1 => (getABase t i).toNat
  | _ => (getALen t i).toNat

/-- AMOV (R106). -/
def opAmov (x : WideArgs) : SlotOp :=
  memOp [rS x.x.toNat] (x.r.toNat < 3 && x.p == 0 && x.imm == 0) [rA x.r.toNat x.a.toNat] false (fun _ => none)
    (fun n old s => modTile s n (fun t => putKind t x.r.toNat x.a.toNat (getS old x.x.toNat).toNat))

/-- AGET (R106). -/
def opAget (x : WideArgs) : SlotOp :=
  memOp [rA x.r.toNat x.a.toNat] (x.r.toNat < 3 && x.p == 0 && x.imm == 0) [rS x.x.toNat] false (fun _ => none)
    (fun n old s => modTile s n (fun t => putS t x.x.toNat (BitVec.ofNat 32 (getKind old x.r.toNat x.a.toNat))))

/-- ASET (R106). -/
def opAset (x : WideArgs) : SlotOp :=
  memOp [] (x.r.toNat < 3 && x.p == 0 && x.x == 0) [rA x.r.toNat x.a.toNat] false (fun _ => none)
    (fun n _ s => modTile s n (fun t => putKind t x.r.toNat x.a.toNat x.imm.toNat))

/-! ### DMA channels -/

/-- External bytes per tile word (Table 2.8). -/
def dmaUnit (d : DmaDesc) : Nat := if d.data20 then 20 else 32

/-- Words a descriptor moves. -/
def dmaWords (d : DmaDesc) : Nat := (d.len + dmaUnit d - 1) / dmaUnit d

/-- The refusal of a descriptor (R60), 0 when accepted: 1 ADDR, 2 LEN, 3 ALIGN, 4 OVER. -/
def dmaCheck (s : State) (c : DmaChan) (d : DmaDesc) : Nat :=
  if !(d.len == 0 || inDram s d.ext d.len || inGeneral d.ext d.len) then 1
  else if !d.data20 && d.ext % 32 != 0 then 3
  else if d.len == 0 || (!d.data20 && d.len % 32 != 0) || 8192 < d.addr + dmaWords d then 2
  else if c.active.isSome && c.waiting.isSome then 4
  else 0

/-- DMA channel `c` of tile `n`. -/
def dmaChan (s : State) (n c : Nat) : DmaChan := SMap.get DmaChan.reset (tileAt s n).dma c

def setDmaChan (s : State) (n c : Nat) (x : DmaChan) : State :=
  modTile s n (fun t => { t with dma := SMap.put DmaChan.reset t.dma c x })

/-- busy and pending of TILE_DMAn_STAT follow the channel. -/
def dmaStat (s : State) (n c : Nat) : State :=
  let x := dmaChan s n c
  wrb (wrb s (Reg.TILE_DMA_STAT n c) 0 x.active.isSome) (Reg.TILE_DMA_STAT n c) 1 x.waiting.isSome

/-- The first access of a transfer that starts during a memory fill waits with the others (R68). -/
def dmaArrive (s : State) (n c : Nat) : State :=
  if (tileAt s n).fill then modTile s n (fun t => { t with heldAcc := t.heldAcc ++ [.dma c] }) else s

/-- Submit a descriptor to a channel (R60, R70): the code of a refusal, or 0. Nothing but a later refusal or error response changes err_code: it stands when err is cleared and through descriptors that are accepted. DESIGN CHOICE. -/
def dmaSubmit (s : State) (n c : Nat) (d : DmaDesc) : Nat × State :=
  let x := dmaChan s n c
  let e := dmaCheck s x d
  let st := Reg.TILE_DMA_STAT n c
  if e ≠ 0 then (e, wrb (wrf s st 6 4 e) st 3 true)
  else if x.active.isSome then (0, dmaStat (setDmaChan s n c { x with waiting := some d }) n c)
  else (0, dmaStat (dmaArrive (setDmaChan (wrf s st 29 16 0) n c ⟨some d, x.waiting, 0⟩) n c) n c)

/-- The descriptor of DMA.GO's four scalars (Table 4.4). -/
def dmaScalars (t : Tile) (x : Nat) : DmaDesc :=
  let w3 := getS t (x + 3)
  { ext := (getS t x).toNat + 2 ^ 32 * fld (getS t (x + 1)) 15 0, addr := fld (getS t (x + 2)) 12 0,
    exp := fld (getS t (x + 2)) 21 16, len := fld w3 18 0, cls := fld w3 27 26, data20 := w3.getLsbD 25, out := w3.getLsbD 24 }

/-- DMA.GO (R109): x must be a multiple of 4. -/
def opDmaGo (x : WideArgs) : SlotOp :=
  memOp [rS x.x.toNat, rS (x.x.toNat + 1), rS (x.x.toNat + 2), rS (x.x.toNat + 3)]
    (okScal x.r && x.a == 0 && x.p == 0 && x.imm.toNat < 2 && x.x.toNat % 4 == 0) [rS x.r.toNat] false (fun _ => none)
    (fun n old s =>
      let r := dmaSubmit s n (x.imm.toNat % 2) (dmaScalars old x.x.toNat)
      modTile r.2 n (fun t => putS t x.r.toNat (BitVec.ofNat 32 r.1)))

/-- DMA.STAT (R110). -/
def opDmaStat (x : WideArgs) : SlotOp :=
  memOp [] (okScal x.r && x.a == 0 && x.p == 0 && x.imm.toNat < 4 && x.x == 0) [rS x.r.toNat] false (fun _ => none)
    (fun n _ s =>
      let st := Reg.TILE_DMA_STAT n (x.imm.toNat % 2)
      let v := rd s st
      let s := modTile s n (fun t => putS t x.r.toNat v)
      if x.imm.getLsbD 1 then wrb (wrb s st 2 false) st 3 false else s)

/-- DMA.WAIT (R110). -/
def opDmaWait (x : WideArgs) : SlotOp :=
  { memOp [] (x.r == 0 && x.a == 0 && x.p == 0 && x.imm.toNat < 4 && x.x == 0) [] false (fun _ => none) (fun _ _ s => s) with
    block := fun _ => some (.dma (x.imm.toNat % 2) (x.imm.getLsbD 1)) }

/-- The bits of a wide instruction (Table 4.1). -/
def wideBits (op : Nat) (x : WideArgs) : BitVec 36 :=
  BitVec.ofNat 36 (2 ^ 34 + 2 ^ 28 * op + 2 ^ 23 * x.r.toNat + 2 ^ 20 * x.a.toNat + 2 ^ 17 * x.p.toNat + x.imm.toNat * 16 + x.x.toNat)

/-- VST (R103). -/
def execVst (tile : Fin 96) (v : BitVec 5) (a : BitVec 3) (inc : BitVec 6) (s : State) :
    Host.Outcome State Fault Refusal :=
  live s (issueRow s tile.val (opVst ⟨v, a, inc⟩) 0)

/-- VSTO (R103). -/
def execVsto (tile : Fin 96) (v : BitVec 5) (a : BitVec 3) (inc : BitVec 6) (s : State) :
    Host.Outcome State Fault Refusal :=
  live s (issueRow s tile.val (opVsto ⟨v, a, inc⟩) 0)

/-- AINC (R105). -/
def execAinc (tile : Fin 96) (r : BitVec 5) (a p : BitVec 3) (imm : BitVec 13) (x : BitVec 4) (s : State) :
    Host.Outcome State Fault Refusal :=
  live s (issueRow s tile.val (opAinc ⟨r, a, p, imm, x⟩) 0)

/-- AMOV (R106). -/
def execAmov (tile : Fin 96) (r : BitVec 5) (a p : BitVec 3) (imm : BitVec 13) (x : BitVec 4) (s : State) :
    Host.Outcome State Fault Refusal :=
  live s (issueRow s tile.val (opAmov ⟨r, a, p, imm, x⟩) 0)

/-- AGET (R106). -/
def execAget (tile : Fin 96) (r : BitVec 5) (a p : BitVec 3) (imm : BitVec 13) (x : BitVec 4) (s : State) :
    Host.Outcome State Fault Refusal :=
  live s (issueRow s tile.val (opAget ⟨r, a, p, imm, x⟩) 0)

/-- ASET (R106). -/
def execAset (tile : Fin 96) (r : BitVec 5) (a p : BitVec 3) (imm : BitVec 13) (x : BitVec 4) (s : State) :
    Host.Outcome State Fault Refusal :=
  live s (issueRow s tile.val (opAset ⟨r, a, p, imm, x⟩) 0)

/-- DMA_GO (R109). -/
def execDmaGo (tile : Fin 96) (r : BitVec 5) (a p : BitVec 3) (imm : BitVec 13) (x : BitVec 4) (s : State) :
    Host.Outcome State Fault Refusal :=
  live s (issueRow s tile.val (opDmaGo ⟨r, a, p, imm, x⟩) 0)

/-- DMA_STAT (R110). -/
def execDmaStat (tile : Fin 96) (r : BitVec 5) (a p : BitVec 3) (imm : BitVec 13) (x : BitVec 4) (s : State) :
    Host.Outcome State Fault Refusal :=
  live s (issueRow s tile.val (opDmaStat ⟨r, a, p, imm, x⟩) 0)

/-- DMA_WAIT (R110). -/
def execDmaWait (tile : Fin 96) (r : BitVec 5) (a p : BitVec 3) (imm : BitVec 13) (x : BitVec 4) (s : State) :
    Host.Outcome State Fault Refusal :=
  live s (issueRow s tile.val (opDmaWait ⟨r, a, p, imm, x⟩) (bundleM (wideBits 0x22 ⟨r, a, p, imm, x⟩)))

end Sys2Proof.Machine
end

