-- ==== Sys2Proof/Machine/TileDecode.lean ====
section
/-! DEFINITION. Decoding of bundles into the instructions of their slots (R71 to R75, R79, R102, R103, R114), fetch and issue of the bundle at the PC, and the rows of whole bundles. -/

namespace Sys2Proof.Machine

/-- A reserved opcode or a malformed slot. -/
def illegalOp (slot : Nat) : SlotOp := { ctlOp false [] with slot := slot }

/-- The X slot's instruction (Table 3.5). -/
def decodeXOp (w : BitVec 32) : SlotOp :=
  let x : XArgs := ⟨w.extractLsb' 21 5, w.extractLsb' 16 5, w.extractLsb' 11 5, w.extractLsb' 8 3, w.extractLsb' 0 8⟩
  match fld w 31 26 with
  | 0x00 => opNopX x
  | 0x01 => opMac x
  | 0x02 => opMacd x
  | 0x03 => opCmac x
  | 0x04 => opAadd x
  | 0x08 => opMul x
  | 0x09 => opMuld x
  | 0x10 => opAclr x
  | 0x11 => opAld x
  | 0x12 => opAldd x
  | 0x13 => opAop x
  | 0x18 => opAnrm x
  | 0x19 => opAnrd x
  | _ => illegalOp slotX

/-- The A slot's instruction (Table 3.7). -/
def decodeAOp (w : BitVec 32) : SlotOp :=
  let x : AArgs := ⟨w.extractLsb' 20 5, w.extractLsb' 15 5, w.extractLsb' 10 5, w.extractLsb' 7 3, w.extractLsb' 0 7⟩
  let y : IArgs := ⟨w.extractLsb' 20 5, w.extractLsb' 15 5, w.extractLsb' 0 15⟩
  match fld w 31 25 with
  | 0x00 => opNopA x
  | 0x01 => opVadd x
  | 0x02 => opVmax x
  | 0x03 => opVabs x
  | 0x04 => opVlog x
  | 0x05 => opVrexp x
  | 0x06 => opVnorm x
  | 0x07 => opVscl x
  | 0x08 => opVrcp x
  | 0x0a => opVcmp x
  | 0x0b => opPlog x
  | 0x0c => opPmovi y
  | 0x0d => opPmov x
  | 0x10 => opVbcast x
  | 0x11 => opVrot x
  | 0x12 => opVperm x
  | 0x13 => opVsel x
  | 0x14 => opVzip x
  | 0x15 => opVuzp x
  | 0x16 => opVcswp x
  | 0x17 => opBfly x
  | 0x18 => opCvti x
  | 0x19 => opCvto x
  | 0x20 => opSalu x
  | 0x21 => opSaddi y
  | 0x22 => opSandi y
  | 0x24 => opSmovi y
  | 0x25 => opSmovh y
  | 0x26 => opVext x
  | 0x27 => opVins x
  | 0x28 => opVgete x
  | 0x29 => opSatclr x
  | 0x2a => opSatget x
  | _ => illegalOp slotA

/-- A dual memory operation (Table 4.2); an empty one has all its bits 0 (R103). -/
def decodeDual (w : BitVec 17) : List SlotOp :=
  let x : DualArgs := ⟨w.extractLsb' 9 5, w.extractLsb' 6 3, w.extractLsb' 0 6⟩
  match fld w 16 14 with
  | 0 => if w == 0 then [] else [illegalOp slotM]
  | 1 => [opVld x]
  | 2 => [opVst x]
  | 3 => [opVldo x]
  | 4 => [opVsto x]
  | _ => [illegalOp slotM]

/-- A wide M-slot instruction (Table 4.3). -/
def decodeWide (w : BitVec 36) : SlotOp :=
  let x : WideArgs := ⟨w.extractLsb' 23 5, w.extractLsb' 20 3, w.extractLsb' 17 3, w.extractLsb' 4 13, w.extractLsb' 0 4⟩
  match fld w 33 28 with
  | 0x01 => opVstp x
  | 0x02 => opVldd x
  | 0x03 => opVstd x
  | 0x04 => opSld x
  | 0x05 => opSst x
  | 0x06 => opVldx x
  | 0x07 => opVstx x
  | 0x08 => opAinc x
  | 0x10 => opAmov x
  | 0x11 => opAget x
  | 0x12 => opAset x
  | 0x20 => opDmaGo x
  | 0x21 => opDmaStat x
  | 0x22 => opDmaWait x
  | _ => illegalOp slotM

/-- The C slot's instruction (Table 4.5). -/
def decodeCOp (w : BitVec 24) : SlotOp :=
  let f := w.extractLsb' 0 18
  match fld w 23 18 with
  | 0x01 => opBr f
  | 0x02 => opCall f
  | 0x03 => opRet f
  | 0x04 => opLoop f
  | 0x08 => opHalt f
  | 0x09 => opBkpt f
  | 0x10 => opTaskAsk f
  | 0x11 => opTaskEnd f
  | 0x12 => opDbell f
  | 0x18 => opQtake f
  | 0x19 => opQpeek f
  | 0x1a => opQskip f
  | 0x1b => opQmark f
  | 0x1c => opRewind f
  | _ => illegalOp slotC

/-- The instructions of the slots, an all-zero slot being empty (R73). -/
def decodeX (w : BitVec 32) : List SlotOp := if w == 0 then [] else [decodeXOp w]
def decodeA (w : BitVec 32) : List SlotOp := if w == 0 then [] else [decodeAOp w]
def decodeC (w : BitVec 24) : List SlotOp := if w == 0 then [] else [decodeCOp w]

/-- The M slot's forms (Table 4.1). -/
def decodeM (w : BitVec 36) : List SlotOp :=
  match fld w 35 34 with
  | 0 => decodeDual (w.extractLsb' 17 17) ++ decodeDual (w.extractLsb' 0 17)
  | 1 => [decodeWide w]
  | _ => [illegalOp slotM]

/-- The instructions of a bundle, and its literal (Tables 3.1 and 3.2); none for a reserved format header. -/
def decodeBundle (b : Bundle) : Option (List SlotOp × Option Word) :=
  let m := decodeM (b.extractLsb' 88 36)
  let x := decodeX (b.extractLsb' 56 32)
  let c := decodeC (b.extractLsb' 0 24)
  match fld b 127 124 with
  | 0 => some ([], none)
  | 1 => some (m ++ x ++ decodeA (b.extractLsb' 24 32) ++ c, none)
  | 2 => some (m ++ x ++ c, some (b.extractLsb' 24 32))
  | _ => none

/-- A bundle reaches the issue point of tile `n`. -/
def issueBundle (s : State) (n : Nat) (b : Bundle) (after : After) : State :=
  match decodeBundle b with
  | some (ops, lit) => issueOps s n ops lit b after
  | none => tileFault s n (tileAt s n).pc.toNat fltIllegal 0 0 (tileLoc n 0 0 0)

/-- The bundle at the PC is fetched in the cycle after the last issue, and issues in that cycle if nothing holds it (R131). -/
def youngerIssue (s : State) (n : Nat) : State :=
  let s := modPipe s n pipeCycle
  if !canIssue s n then s
  else
    let pc := (tileAt s n).pc.toNat
    match imRead s n pc 1 with
    | (none, s) => tileFault s n pc fltMemI 0 0 (imemLoc n pc 255)
    | (some b, s) =>
      match decodeBundle b with
      | none => tileFault s n pc fltIllegal 0 0 (tileLoc n 0 0 0)
      | some (ops, lit) =>
        if pipeReady (pipeAt s n) (demandOf (tileAt s n) ops lit.isSome) then issueNow s n ops lit b .run else s

/-- The tile has found no late fault. -/
def clearLate (s : State) (n : Nat) : State := modTile s n (fun t => { t with late := none })

/-- A fault that a load or partial store of the bundle at `pc` found in E3 (R131): the two bundles that can issue before then do, from the tile's instruction memory, and the tile stops. One fault is recorded per stop (R132), so one that a younger bundle raised at issue stands. -/
def settleLate (s : State) (n pc : Nat) : State :=
  match (tileAt s n).late with
  | none => s
  | some (code, slots, info, loc) =>
    let t := clearLate (youngerIssue (clearLate (youngerIssue (clearLate s n) n) n) n) n
    if rd t (Reg.TILE_FAULT_COUNT n) = rd s (Reg.TILE_FAULT_COUNT n) then
      lateStop (tileFault t n pc code slots info loc) n ((tileAt t n).wait)
    else t
where
  /-- A younger bundle that waits has not issued: its request is taken back as when software stops the tile (R113). DESIGN CHOICE. -/
  lateStop (s : State) (n : Nat) (w : Option Wait) : State :=
    match w with
    | some w => if w.asked then withdrawOut (modTile s n (fun t => { t with wait := some { w with withdrawn := true, after := .stop } })) n w.bundle else s
    | none => s
  /-- The withdrawal of the outside request of a waiting bundle leaves the tile. -/
  withdrawOut (s : State) (n : Nat) (b : Bundle) : State :=
    match decodeBundle b with
    | none => s
    | some (ops, _) =>
      match (ops.filterMap (fun o => o.block (tileAt s n))).find? Blocking.outside with
      | some .ask => toTrv s (.withdraw n)
      | some (.queue _ _) => { s with jq := { s.jq with withdraws := s.jq.withdraws ++ [n] } }
      | _ => s

/-- A fetch of a bundle with a corrected word issues it a cycle later (R53). -/
def fetchFixed (s : State) (n pc : Nat) : State :=
  match eccDecode 128 8 (SMap.get 0 (tileAt s n).imem pc).toNat with
  | .fixed _ _ _ => modPipe s n (fun p => { p with gap := p.gap + 1 })
  | _ => s

/-- Fetch the bundle at the PC and issue it (R54). -/
def fetchIssue (s : State) (n : Nat) (after : After) : State :=
  let pc := (tileAt s n).pc.toNat
  match imRead (fetchFixed s n pc) n pc 1 with
  | (some b, s) => settleLate (issueBundle s n b after) n pc
  | (none, s) => tileFault s n pc fltMemI 0 0 (imemLoc n pc 255)

/-- A bundle of one memory instruction reaches issue on tile `n`. -/
def issueMem (s : State) (n : Nat) (op : SlotOp) : State := settleLate (issueRow s n op 0) n (tileAt s n).pc.toNat

/-- The stored bundle at the PC has an uncorrectable error. -/
def fetchBad (s : State) (n : Nat) : Bool :=
  match eccDecode 128 8 (SMap.get 0 (tileAt s n).imem (tileAt s n).pc.toNat).toNat with
  | .bad => true
  | _ => false

/-- A bundle is refused at issue as ILLEGAL (R79). -/
def bundleIllegal (s : State) (n : Nat) (b : Bundle) : Bool :=
  match decodeBundle b with
  | none => true
  | some (ops, lit) => match issueFault s n (tileAt s n) ops lit.isSome with
    | some (c, _, _) => c == fltIllegal
    | none => false

/-- LIT_BUNDLE (R74): the literal and the M, X and C slots. -/
def execLitBundle (tile : Fin 96) (lit : Word) (m : BitVec 36) (x : BitVec 32) (c : BitVec 24) (s : State) :
    Host.Outcome State Fault Refusal :=
  live s (if canIssue s tile.val then
      settleLate (issueBundle s tile.val
        (BitVec.ofNat 128 (2 ^ 124 * 2 + 2 ^ 88 * m.toNat + 2 ^ 56 * x.toNat + 2 ^ 24 * lit.toNat + c.toNat)) .run)
        tile.val (tileAt s tile.val).pc.toNat
    else s)

/-- NOP (R72): the format header NOP with any other bits. -/
def execNop (tile : Fin 96) (rest : BitVec 124) (s : State) : Host.Outcome State Fault Refusal :=
  live s (if canIssue s tile.val then issueBundle s tile.val (rest.setWidth 128) .run else s)

/-- ILLEGAL (R79): a bundle that is not legal reaches issue. -/
def execIllegal (tile : Fin 96) (bundle : Bundle) (s : State) : Host.Outcome State Fault Refusal :=
  live s (if canIssue s tile.val && bundleIllegal s tile.val bundle then issueBundle s tile.val bundle .run else s)

/-- MEM_I (R54): a fetch meets an uncorrectable error. -/
def execMemI (tile : Fin 96) (s : State) : Host.Outcome State Fault Refusal :=
  live s (if canIssue s tile.val && fetchBad s tile.val then fetchIssue s tile.val .run else s)

/-- VLD (R103). -/
def execVld (tile : Fin 96) (v : BitVec 5) (a : BitVec 3) (inc : BitVec 6) (s : State) :
    Host.Outcome State Fault Refusal :=
  live s (issueMem s tile.val (opVld ⟨v, a, inc⟩))

/-- VLDO (R103). -/
def execVldo (tile : Fin 96) (v : BitVec 5) (a : BitVec 3) (inc : BitVec 6) (s : State) :
    Host.Outcome State Fault Refusal :=
  live s (issueMem s tile.val (opVldo ⟨v, a, inc⟩))

/-- VSTP (R105). -/
def execVstp (tile : Fin 96) (r : BitVec 5) (a p : BitVec 3) (imm : BitVec 13) (x : BitVec 4) (s : State) :
    Host.Outcome State Fault Refusal :=
  live s (issueMem s tile.val (opVstp ⟨r, a, p, imm, x⟩))

/-- VLDD (R107). -/
def execVldd (tile : Fin 96) (r : BitVec 5) (a p : BitVec 3) (imm : BitVec 13) (x : BitVec 4) (s : State) :
    Host.Outcome State Fault Refusal :=
  live s (issueMem s tile.val (opVldd ⟨r, a, p, imm, x⟩))

/-- VSTD (R107). -/
def execVstd (tile : Fin 96) (r : BitVec 5) (a p : BitVec 3) (imm : BitVec 13) (x : BitVec 4) (s : State) :
    Host.Outcome State Fault Refusal :=
  live s (issueMem s tile.val (opVstd ⟨r, a, p, imm, x⟩))

/-- SLD (R108). -/
def execSld (tile : Fin 96) (r : BitVec 5) (a p : BitVec 3) (imm : BitVec 13) (x : BitVec 4) (s : State) :
    Host.Outcome State Fault Refusal :=
  live s (issueMem s tile.val (opSld ⟨r, a, p, imm, x⟩))

/-- SST (R108). -/
def execSst (tile : Fin 96) (r : BitVec 5) (a p : BitVec 3) (imm : BitVec 13) (x : BitVec 4) (s : State) :
    Host.Outcome State Fault Refusal :=
  live s (issueMem s tile.val (opSst ⟨r, a, p, imm, x⟩))

/-- VLDX (R105). -/
def execVldx (tile : Fin 96) (r : BitVec 5) (a p : BitVec 3) (imm : BitVec 13) (x : BitVec 4) (s : State) :
    Host.Outcome State Fault Refusal :=
  live s (issueMem s tile.val (opVldx ⟨r, a, p, imm, x⟩))

/-- VSTX (R105). -/
def execVstx (tile : Fin 96) (r : BitVec 5) (a p : BitVec 3) (imm : BitVec 13) (x : BitVec 4) (s : State) :
    Host.Outcome State Fault Refusal :=
  live s (issueMem s tile.val (opVstx ⟨r, a, p, imm, x⟩))

end Sys2Proof.Machine
end

