-- ==== Sys2Proof/Machine/TilePage.lean ====
section
/-! DEFINITION. The tile window and register page (R57, R60 to R70, R113, R133 to R135): control writes, memory fill, window accesses, DMA transfers, scrubbing and write-backs, and the arrival of answers and withdrawals. -/

namespace Sys2Proof.Machine

/-! ### Waiting bundles -/

/-- The outside request of the waiting bundle of tile `n`. -/
def waitBlock (s : State) (n : Nat) : Option Blocking :=
  match (tileAt s n).wait with
  | none => none
  | some w => match decodeBundle w.bundle with
    | none => none
    | some (ops, _) => (ops.filterMap (fun o => o.block (tileAt s n))).find? Blocking.outside

/-- The waiting bundle of tile `n` is tried again, but for a frozen part (R451). -/
def retryWait (s : State) (n : Nat) : State :=
  match (tileAt s n).wait with
  | some w => if frozen s then s else settleLate (issueBundle s n w.bundle w.after) n (tileAt s n).pc.toNat
  | none => s

/-- A later control write does not undo a reset that waits for the withdrawal: the reset is the last to take effect (R20, R113). -/
def After.merge (old new : After) : After :=
  match old, new with
  | .reset _, .stop => .reset false
  | _, new => new

/-- Software withdraws the waiting bundle (R113): a request that is out is followed by its withdrawal; without one the tile is settled at once. -/
def withdrawWait (s : State) (n : Nat) (after : After) : State :=
  match (tileAt s n).wait with
  | none => settleAfter s n after
  | some w =>
    let setW (s : State) : State := modTile s n (fun t => { t with wait := some { w with withdrawn := true, after := w.after.merge after } })
    if w.withdrawn then setW s
    else match waitBlock s n with
      | some .ask => toTrv (setW s) (.withdraw n)
      | some (.queue _ _) => let s := setW s
        { s with jq := { s.jq with withdraws := s.jq.withdraws ++ [n] } }
      | _ => settleAfter (modTile s n (fun t => { t with wait := none })) n after

/-- The engine cancelled the request of tile `n` (R113). -/
def cancelWait (s : State) (n : Nat) : State :=
  match (tileAt s n).wait with
  | some w => settleAfter (modTile s n (fun t => { t with wait := none, answer := none })) n w.after
  | none => s

/-! ### TILE_CTRL (Table 2.12) -/

/-- Start the fill of both memories (R68). A write-back queued before it is cancelled; the next word of each active transfer waits. A fill that is under way starts afresh. -/
def startFill (s : State) (n : Nat) : State :=
  modTile s n (fun t => { t with
    dmem := [], imem := [], writeBacks := [], fill := true
    heldAcc := if t.fill then t.heldAcc
      else t.heldAcc ++ ([0, 1].filter (fun c => (SMap.get DmaChan.reset t.dma c).active.isSome)).map HeldAccess.dma })

/-- Reset the tile (R20): the state of Table 2.1 and run; `run` follows, subject to R68 and R133. -/
def tileReset (s : State) (n : Nat) (run : Bool) : State :=
  let s := wrb (modTile s n (fun t => { t with fillRun := false })) (Reg.TILE_CTRL n) 0 false
  let go := run && !faultActive s n
  if (tileAt s n).wait.isSome then withdrawWait s n (.reset go)
  else
    let s := modPipe (modTile s n Tile.resetArch) n pipeDrain
    if go then tileRun s n else s

/-- A write of TILE_CTRL. -/
def tileCtrlWrite (s : State) (n : Nat) (v : Word) : State :=
  let a := Reg.TILE_CTRL n
  let s := wr s a ((rd s a &&& ~~~ (0x8C00 : Word)) ||| (v &&& 0x8C00))
  let s := if v.getLsbD 2 then startFill s n else s
  if v.getLsbD 1 then tileReset s n (v.getLsbD 0)
  else if v.getLsbD 0 then (if rdb s a 0 then s else tileRun s n)
  else
    let s := wrb (modTile s n (fun t => { t with fillRun := false })) a 0 false
    withdrawWait s n .stop

/-- A row that writes TILE_CTRL: the tile's clock must run for the write to reach it (R67). -/
def tileCtrlRow (s : State) (who : Who) (n : Nat) (v : Word) : State :=
  swWrite s who (Reg.TILE_CTRL n) (fun s => tileCtrlWrite s n v)

/-- TILE_RESET (R20): a write of TILE_CTRL with reset = 1; the other bits are those of `value`. -/
def execTileReset (who : Who) (tile : Fin 96) (value : Word) (s : State) : Host.Outcome State Fault Refusal :=
  live s (tileCtrlRow s who tile.val (value ||| 2))

/-- TILE_RUN (R20, R68, R133): a write of TILE_CTRL with run = 1 and reset = 0. -/
def execTileRun (who : Who) (tile : Fin 96) (value : Word) (s : State) : Host.Outcome State Fault Refusal :=
  live s (tileCtrlRow s who tile.val ((value ||| 1) &&& ~~~ 2))

/-- TILE_STOP (R113): a write of TILE_CTRL with run = 0 and reset = 0. -/
def execTileStop (who : Who) (tile : Fin 96) (value : Word) (s : State) : Host.Outcome State Fault Refusal :=
  live s (tileCtrlRow s who tile.val (value &&& ~~~ 3))

/-- MEM_INIT (R68): a write of TILE_CTRL with mem_init = 1. -/
def execMemInit (who : Who) (tile : Fin 96) (value : Word) (s : State) : Host.Outcome State Fault Refusal :=
  live s (tileCtrlRow s who tile.val (value ||| 4))

/-! ### The window (R64 to R67) -/

/-- The five data words and the side word of a data word's WORD32 image (Table 2.8). -/
def imageWord (w : BitVec 167) (k : Nat) : Word :=
  if k < 5 then BitVec.ofNat 32 (dataOf w >>> (32 * k))
  else if k = 5 then BitVec.ofNat 32 (trunc 6 (expOf w) + 64 * tagOf w)
  else 0

/-- Word `k` of a bundle. -/
def bundleWord (b : Bundle) (k : Nat) : Word := BitVec.ofNat 32 (b.toNat >>> (32 * k))

/-- The address of a window word in the memory map. -/
def windowAddr (n : Nat) : TileWord → Nat
  | .data w k => 0x1040000000 + 2 ^ 20 * n + w.val * 32 + k.val * 4
  | .code b k => 0x1040080000 + 2 ^ 20 * n + b.val * 16 + k.val * 4

/-- A read of one window word: its value, none for an error response. -/
def windowReadWord (s : State) (n : Nat) : TileWord → Option Word × State
  | .data w k =>
    if 6 ≤ k.val then (some 0, s)
    else match (tileAt s n).latchD with
      | some (a, ws) => if k.val ≠ 0 ∧ a = w.val then (some (ws.getD (k.val - 1) 0), s) else fresh w.val k.val s
      | none => fresh w.val k.val s
  | .code b k =>
    match (tileAt s n).latchI with
      | some (a, ws) => if k.val ≠ 0 ∧ a = b.val then (some (ws.getD (k.val - 1) 0), s) else freshI b.val k.val s
      | none => freshI b.val k.val s
where
  fresh (w k : Nat) (s : State) : Option Word × State :=
    match tmRead s n w 3 with
    | (none, s) => (none, s)
    | (some x, s) =>
      (some (imageWord x k),
        if k = 0 then modTile s n (fun t => { t with latchD := some (w, [1, 2, 3, 4, 5].map (imageWord x)) }) else s)
  freshI (b k : Nat) (s : State) : Option Word × State :=
    match imRead s n b 3 with
    | (none, s) => (none, s)
    | (some x, s) =>
      (some (bundleWord x k),
        if k = 0 then modTile s n (fun t => { t with latchI := some (b, [1, 2, 3].map (bundleWord x)) }) else s)

/-- A window read (R65, R66); an uncorrectable word gives an error response (R54). -/
def windowRead (s : State) (n : Nat) (w : TileWord) : State :=
  match windowReadWord s n w with
  | (some v, s) => reply s (.word v)
  | (none, s) => reply s .error

/-- The lower word staged at `k`. -/
def stagedAt (t : Tile) (k : Nat) : Nat := (SMap.get 0 t.staged k).toNat

/-- A window write (R65, R66): lower words wait for the highest one. The words that wait are the window's, whichever word or bundle they were written for, and stay after it is stored (0 before the first): a lower word not written again is stored again. DESIGN CHOICE. -/
def windowWrite (s : State) (who : Who) (n : Nat) (w : TileWord) (v : Word) : State :=
  let stage (k : Nat) (s : State) : State := modTile s n (fun t => { t with staged := SMap.put 0 t.staged k v })
  let t := tileAt s n
  match w with
  | .data w k =>
    if k.val < 5 then stage k.val s
    else if k.val = 5 then
      let d := stagedAt t 0 + 2 ^ 32 * stagedAt t 1 + 2 ^ 64 * stagedAt t 2 + 2 ^ 96 * stagedAt t 3 + 2 ^ 128 * stagedAt t 4
      tmWrite s n w.val (mkWord d (sext 6 v.toNat) (v.getLsbD 6).toNat)
    else s
  | .code b k =>
    if rdb s (Reg.TILE_CTRL n) 0 then refuseAccess s srcTile who (windowAddr n (.code b k)) true false
    else if k.val < 3 then stage (8 + k.val) s
    else
      imWrite s n b.val (BitVec.ofNat 128 (stagedAt t 8 + 2 ^ 32 * stagedAt t 9 + 2 ^ 64 * stagedAt t 10 + 2 ^ 96 * v.toNat))

/-- A window access; during a fill it waits (R68). -/
def windowAccess (s : State) (who : Who) (n : Nat) (word : TileWord) (write : Option Word) : State :=
  if (tileAt s n).fill then reply (modTile s n (fun t => { t with heldAcc := t.heldAcc ++ [.window who word write] })) .held
  else match write with
    | some v => windowWrite s who n word v
    | none => windowRead s n word

/-- TILE_WINDOW_READ (R65, R66). -/
def execTileWindowRead (who : Who) (tile : Fin 96) (word : TileWord) (s : State) : Host.Outcome State Fault Refusal :=
  live s (swAccess s who (windowAddr tile.val word) false (fun s => windowAccess s who tile.val word none))

/-- TILE_WINDOW_WRITE (R65, R66). -/
def execTileWindowWrite (who : Who) (tile : Fin 96) (word : TileWord) (value : Word) (s : State) :
    Host.Outcome State Fault Refusal :=
  live s (swAccess s who (windowAddr tile.val word) true (fun s => windowAccess s who tile.val word (some value)))

/-! ### Fault clear and single step -/

/-- A write of TILE_FAULT (Table 4.11). -/
def tileFaultWrite (s : State) (n : Nat) (v : Word) : State :=
  if v.getLsbD 31 then modTile (wrb s (Reg.TILE_FAULT n) 31 false) n (fun t => { t with faulted := false }) else s

/-- FAULT_CLEAR (R133). -/
def execFaultClear (who : Who) (tile : Fin 96) (value : Word) (s : State) : Host.Outcome State Fault Refusal :=
  live s (swWrite s who (Reg.TILE_FAULT tile.val) (fun s => tileFaultWrite s tile.val (value ||| 0x80000000)))

/-- A write of TILE_DBG_CTRL (Table 4.15, R135). A step written while a bundle waits, during a memory fill or in M10 is ignored: the spec defers only a run to the end of a fill. DESIGN CHOICE. -/
def tileDbgWrite (s : State) (n : Nat) (v : Word) : State :=
  let s := plainWrite s (Reg.TILE_DBG_CTRL n) v
  let t := tileAt s n
  if v.getLsbD 0 && !rdb s (Reg.TILE_CTRL n) 0 && !faultActive s n && t.wait.isNone && !t.fill && !frozen s then
    fetchIssue (modPipe s n pipeDrain) n .stop
  else s

/-- SINGLE_STEP (R135). -/
def execSingleStep (who : Who) (tile : Fin 96) (value : Word) (s : State) : Host.Outcome State Fault Refusal :=
  live s (swWrite s who (Reg.TILE_DBG_CTRL tile.val) (fun s => tileDbgWrite s tile.val (value ||| 1)))

/-! ### Answers and withdrawals (R111, R113) -/

/-- ANSWER_ARRIVAL (R111): an answer that the engine has committed reaches the tile, whose bundle issues. A frozen part delivers none (R451). -/
def execAnswerArrival (tile : Fin 96) (s : State) : Host.Outcome State Fault Refusal :=
  live s (if (tileAt s tile.val).answer.isSome && !frozen s then retryWait s tile.val else s)

/-- Is the withdrawal of tile `n` on its way to Traverse? -/
def trvWithdraws (s : State) (n : Nat) : Bool := s.trv.inbox.contains (.withdraw n)

/-- The withdrawal of tile `n` reaches Traverse: its ask is taken back; the node end that came with the ask stays. -/
def trvWithdraw (s : State) (n : Nat) : State :=
  let inbox := s.trv.inbox.flatMap (fun m => match m with
    | .ask t e => if t = n then (e.elim [] (fun e => [TrvMsg.nodeEnd n e 0])) else [m]
    | .withdraw t => if t = n then [] else [m]
    | m => [m])
  { s with trv := { s.trv with
      inbox := inbox
      asking := SMap.put [] s.trv.asking (n / 8) ((SMap.get [] s.trv.asking (n / 8)).filter (· != n)) } }

/-- The withdrawal of tile `n` reaches the queue engine: its request or parked QTAKE is dropped. -/
def jqWithdraw (s : State) (n : Nat) : State :=
  { s with jq := { s.jq with
      withdraws := s.jq.withdraws.filter (· != n)
      reqs := s.jq.reqs.filter (fun r => r.tile != n)
      parked := s.jq.parked.filter (fun p => p.1 != n) } }

/-- REQUEST_WITHDRAWAL (R113): an answer committed by then wins. -/
def execRequestWithdrawal (tile : Fin 96) (s : State) : Host.Outcome State Fault Refusal :=
  let n := tile.val
  live s (
    if frozen s then s
    else
      let won := (tileAt s n).answer.isSome
      if trvWithdraws s n then
        if won then { s with trv := { s.trv with inbox := s.trv.inbox.filter (· != .withdraw n) } }
        else cancelWait (trvWithdraw s n) n
      else if s.jq.withdraws.contains n then
        if won then { s with jq := { s.jq with withdraws := s.jq.withdraws.filter (· != n) } }
        else cancelWait (jqWithdraw s n) n
      else s)

/-! ### DMA (R59 to R63, R70) -/

/-- The descriptor in the registers of channel `c` (Table 2.18). -/
def dmaRegs (s : State) (n c : Nat) : DmaDesc :=
  { ext := rd2 s (Reg.TILE_DMA_EXT_LO n c) (Reg.TILE_DMA_EXT_HI n c), addr := rdf s (Reg.TILE_DMA_LOC n c) 12 0,
    exp := rdf s (Reg.TILE_DMA_LOC n c) 21 16, len := rdf s (Reg.TILE_DMA_LEN n c) 18 0,
    cls := rdf s (Reg.TILE_DMA_CTRL n c) 5 4, data20 := rdb s (Reg.TILE_DMA_CTRL n c) 2,
    out := rdb s (Reg.TILE_DMA_CTRL n c) 1 }

/-- A write of TILE_DMAn_CTRL; go = 1 submits the descriptor (R70). -/
def dmaCtrlWrite (s : State) (n c : Nat) (v : Word) : State :=
  let s := plainWrite s (Reg.TILE_DMA_CTRL n c) v
  if v.getLsbD 0 then (dmaSubmit s n c (dmaRegs s n c)).2 else s

/-- TILE_DMA_GO (R70). -/
def execTileDmaGo (who : Who) (tile : Fin 96) (chan : Fin 2) (value : Word) (s : State) : Host.Outcome State Fault Refusal :=
  live s (swWrite s who (Reg.TILE_DMA_CTRL tile.val chan.val) (fun s => dmaCtrlWrite s tile.val chan.val (value ||| 1)))

/-- The external bytes of a tile word (Table 2.8). -/
def dmaOutBytes (d : DmaDesc) (w : BitVec 167) : List Byte :=
  if d.data20 then leBytes 20 (dataOf w)
  else leBytes 20 (dataOf w) ++ [BitVec.ofNat 8 (trunc 6 (expOf w) + 64 * tagOf w)] ++ List.replicate 11 0#8

/-- The tile word of external bytes (Table 2.8). -/
def dmaInWord (d : DmaDesc) (bs : List Byte) : BitVec 167 :=
  if d.data20 then mkWord (le bs 0 20) (sext 6 d.exp) 0
  else mkWord (le bs 0 20) (sext 6 (le bs 20 1)) ((le bs 20 1) / 64 % 2)

/-- Move words from number `i` on, through the port of the tile's cluster, in the class of the channel (R61); answers the words moved and whether all were. -/
def dmaMove (n c : Nat) (d : DmaDesc) : Nat → Nat → State → Nat × Bool × State
  | 0, i, s => (i, true, s)
  | f + 1, i, s =>
    let u := min (dmaUnit d) (d.len - i * dmaUnit d)
    let x := d.ext + i * dmaUnit d
    if d.out then
      match tmRead s n (d.addr + i) 2 with
      | (none, s) => (i, false, s)
      | (some w, s) =>
        match memWrite s (dmaPort n c d.cls) x ((dmaOutBytes d w).take u) with
        | (true, s) => dmaMove n c d f (i + 1) s
        | (false, s) => (i, false, s)
    else
      match memRead s (dmaPort n c d.cls) x u with
      | (none, s) => (i, false, s)
      | (some bs, s) => dmaMove n c d f (i + 1) (tmWrite s n (d.addr + i) (dmaInWord d bs))

/-- The words that the active transfer of channel `c` has left move, up to `k` of them or to an error response; during a fill it waits (R68). -/
def dmaRun (s : State) (n c k : Nat) : Option (Nat × Bool × State) :=
  if (tileAt s n).fill then none
  else match (dmaChan s n c).active with
    | some d => let m := (dmaChan s n c).moved
                some (dmaMove n c d (min k (dmaWords d - m)) m s)
    | none => none

/-- A transfer completes: done is set and the pending descriptor starts (R63). -/
def dmaDone (s : State) (n c moved : Nat) : State :=
  let st := Reg.TILE_DMA_STAT n c
  let x := dmaChan s n c
  let s := wrb (wrf s st 29 16 moved) st 2 true
  let s := if x.waiting.isSome then wrf s st 29 16 0 else s
  retryWait (dmaStat (setDmaChan s n c ⟨x.waiting, none, 0⟩) n c) n

/-- An error response stops a transfer (R63). -/
def dmaStop (s : State) (n c moved : Nat) : State :=
  let st := Reg.TILE_DMA_STAT n c
  let s := wrb (wrf (wrf s st 29 16 moved) st 6 4 5) st 3 true
  retryWait (dmaStat (setDmaChan s n c ⟨none, none, 0⟩) n c) n

/-- The next word of the transfer of channel `c` moves: one access of the tile's memory. -/
def dmaWord (s : State) (n c : Nat) : State :=
  match dmaRun s n c 1 with
  | some (moved, true, t) => setDmaChan (wrf t (Reg.TILE_DMA_STAT n c) 29 16 moved) n c { dmaChan t n c with moved := moved }
  | some (moved, false, t) => dmaStop t n c moved
  | none => s

/-- DMA_TRANSFER_DONE (R63): the transfer whose accesses all succeed. -/
def execDmaTransferDone (tile : Fin 96) (chan : Fin 2) (s : State) : Host.Outcome State Fault Refusal :=
  live s (match dmaRun s tile.val chan.val 262144 with
    | some (moved, true, t) => dmaDone t tile.val chan.val moved
    | _ => s)

/-- DMA_ERROR_STOP (R63): the transfer one of whose accesses gets an error response. -/
def execDmaErrorStop (tile : Fin 96) (chan : Fin 2) (s : State) : Host.Outcome State Fault Refusal :=
  live s (match dmaRun s tile.val chan.val 262144 with
    | some (moved, false, t) => dmaStop t tile.val chan.val moved
    | _ => s)

/-! ### Background work (R50, R53, R57) -/

/-- Put a corrected stored word back (R53). -/
def writeBackWord (s : State) (n : Nat) (w : WriteBack) : State :=
  modTile s n (fun t =>
    let t := { t with writeBacks := t.writeBacks.filter (· != w) }
    if w.imem then { t with imem := SMap.put 0 t.imem w.addr (BitVec.ofNat 137 w.word) }
    else { t with dmem := SMap.put 0 t.dmem w.addr (BitVec.ofNat 176 w.word) })

/-- ECC_WRITEBACK (R53): the oldest queued write-back is granted, while the clock runs (R57). -/
def execEccWriteback (tile : Fin 96) (s : State) : Host.Outcome State Fault Refusal :=
  live s (match (tileAt s tile.val).writeBacks with
    | w :: _ => if tileOff s tile.val then s else writeBackWord s tile.val w
    | [] => s)

/-- The scrubber of tile `n` runs: enabled, no fill, the clock not gated (R57). -/
def scrubOn (s : State) (n : Nat) : Bool := rdb s (Reg.TILE_SCRUB_CTRL n) 8 && !(tileAt s n).fill && !tileOff s n

/-- When the scrubber's interval of 2^k tile cycles ends (R57), in counts of the monotonic counter: a tile cycle is 3/2 of one. -/
def scrubDue (s : State) (n : Nat) : Nat := (tileAt s n).scrubSince + 3 * 2 ^ (rdf s (Reg.TILE_SCRUB_CTRL n) 4 0 - 1)

/-- A fresh interval begins now. -/
def scrubRestart (s : State) (n : Nat) : State := modTile s n (fun t => { t with scrubSince := s.mono.toNat })

/-- The scrubber reads the next data word and the next bundle (R57). -/
def tileScrub (s : State) (n : Nat) : State :=
  let d := (tileAt s n).scrubD
  let i := (tileAt s n).scrubI
  let s := (imRead (tmRead s n d 4).2 n i 4).2
  let s := modTile s n (fun t => { t with scrubD := (d + 1) % 8192, scrubI := (i + 1) % 2048, scrubSince := s.mono.toNat })
  if d = 8191 then inc s (Reg.TILE_SCRUB_PASS n) else s

/-- TILE_SCRUB_READ (R57): the interval ends; paused while disabled, during a fill, and while the clock is gated. -/
def execTileScrubRead (tile : Fin 96) (s : State) : Host.Outcome State Fault Refusal :=
  let n := tile.val
  live s (if scrubOn s n then tileScrub (notBefore s (scrubDue s n)) n else s)

/-- A background request of tile `n` that waits at `bank` (R48, R50), and the state once it is granted: the next word of a transfer, a write-back, the scrubber's next read. A window access is granted in its own command, so none waits beside a fill. -/
def bgGrant (s : State) (n : Nat) (req : BgReq) (bank : Nat) : Option State :=
  match req with
  | .dma c =>
    match (dmaChan s n c.val).active with
    | some d => if (d.addr + (dmaChan s n c.val).moved) % 8 = bank ∧ (dmaChan s n c.val).moved < dmaWords d ∧ frozen s = false then
        (if (tileAt s n).fill then none else some (dmaWord s n c.val)) else none
    | none => none
  | .window => none
  | .writeBack =>
    match (tileAt s n).writeBacks.find? (fun w => !w.imem && w.addr % 8 == bank) with
    | some w => some (writeBackWord s n w)
    | none => none
  | .scrub => if scrubOn s n ∧ (tileAt s n).scrubD % 8 = bank then some (tileScrub (notBefore s (scrubDue s n)) n) else none

/-- BACKGROUND_AGED (R50): the aged request at `bank`, if one waits, is granted; when that denies a tile read, the tile stalls one cycle. The command is the event that the cycles of Table 2.5 have passed; the request granted, none of its wait is left. -/
def execBackgroundAged (tile : Fin 96) (req : BgReq) (bank : Fin 8) (readDenied : Bool) (s : State) :
    Host.Outcome State Fault Refusal :=
  let n := tile.val
  live s (if tileOff s n then s
    else match bgGrant s n req bank.val with
      | some t => if readDenied then modPipe t n (fun p => { p with bankStalls := p.bankStalls + 1 }) else t
      | none => s)

/-- A write of TILE_SCRUB_CTRL (Table 2.17): the interval is kept within 10 to 20, and its count restarts (R57). -/
def scrubCtrlWrite (s : State) (n : Nat) (v : Word) : State :=
  scrubRestart (wr s (Reg.TILE_SCRUB_CTRL n) (BitVec.ofNat 32 ((v.getLsbD 8).toNat * 256 + max 10 (min 20 (fld v 4 0))))) n

/-- SCRUB_CTRL_WRITE (R57). -/
def execScrubCtrlWrite (who : Who) (tile : Fin 96) (value : Word) (s : State) : Host.Outcome State Fault Refusal :=
  live s (swWrite s who (Reg.TILE_SCRUB_CTRL tile.val) (fun s => scrubCtrlWrite s tile.val value))

/-! ### The register page -/

/-- TILE_STAT (Table 2.13). -/
def tileStat (s : State) (n : Nat) : Word :=
  let t := tileAt s n
  let busy (c : Nat) : Nat := (dmaChan s n c).active.isSome.toNat
  let asking := match waitBlock s n with
    | some .ask => 1
    | _ => 0
  let qWait := match waitBlock s n with
    | some (.queue .take _) => 1
    | _ => 0
  BitVec.ofNat 32 (2 ^ 11 * t.fill.toNat + 2 ^ 10 * busy 1 + busy 0 * 2 ^ 9 + asking * 2 ^ 8 + qWait * 2 ^ 7 +
    t.faulted.toNat * 2 ^ 6 + (rdb s (Reg.TILE_CTRL n) 0 || t.wait.isSome).toNat * 2 ^ 5)

/-- TILE_STAT.running. -/
def tileRunning (s : State) (n : Nat) : Bool := (tileStat s n).getLsbD 5

/-- Two ACCV registers in one word. -/
def accvPair (t : Tile) (i : Nat) : Word := BitVec.ofNat 32 ((getAccv t i).toNat + 2 ^ 16 * (getAccv t (i + 1)).toNat)

/-- What a read of the register at `a` of tile `n` returns. -/
def tilePageRead (s : State) (n a : Nat) : Word :=
  let t := tileAt s n
  match a % 4096 with
  | 0x000 => BitVec.ofNat 32 (2 ^ 14 * (n / 24) + 2 ^ 12 * (n / 8 % 3) + n % 8 * 2 ^ 8 + n)
  | 0x008 => tileStat s n
  | 0x00C => t.pc.setWidth 32
  | 0x010 => t.satf.setWidth 32
  | 0x014 => accvPair t 0
  | 0x018 => accvPair t 2
  | 0x020 => (pipeAt s n).bankStalls
  | 0x024 => (pipeAt s n).ilStalls
  | 0x120 => match waitBlock s n with
    | some (.queue .take sa) => BitVec.ofNat 32 (2 ^ 31 + sa % 2 ^ 16)
    | _ => 0
  | _ => rd s a

/-- A write of `v` to the register at `a` of tile `n`. -/
def tilePageWrite (s : State) (n a : Nat) (v : Word) : State :=
  let c := a % 4096 / 32 % 2
  match a % 4096 with
  | 0x004 => tileCtrlWrite s n v
  | 0x00C => if rdb s (Reg.TILE_CTRL n) 0 then s else modTile s n (fun t => { t with pc := v.setWidth 11 })
  | 0x010 => modTile s n (fun t => { t with satf := t.satf &&& ~~~ v.setWidth 16 })
  | 0x014 => modTile s n (fun t =>
      putAccv (putAccv t 0 (getAccv t 0 &&& ~~~ v.setWidth 16)) 1 (getAccv t 1 &&& ~~~ (v >>> 16).setWidth 16))
  | 0x018 => modTile s n (fun t =>
      putAccv (putAccv t 2 (getAccv t 2 &&& ~~~ v.setWidth 16)) 3 (getAccv t 3 &&& ~~~ (v >>> 16).setWidth 16))
  | 0x038 => scrubCtrlWrite s n v
  | 0x090 => dmaCtrlWrite s n c v
  | 0x0B0 => dmaCtrlWrite s n c v
  | 0x100 => tileFaultWrite s n v
  | 0x130 => tileDbgWrite s n v
  | _ => plainWrite s a v

end Sys2Proof.Machine
end

