-- ==== Sys2Proof/Machine/Traverse.lean ====
section
/-! DEFINITION. Traverse: token pools, ready events, dispatch, node ends, cancellation and the arrival of messages (R136 to R152, R161 to R164). -/

namespace Sys2Proof.Machine

/-! ### Entries -/

/-- Resident entry `i` (Table 5.1). -/
def getE (s : State) (i : Nat) : Entry := SMap.get .free s.trv.entries i

/-- Replace resident entry `i`. -/
def putE (s : State) (i : Nat) (e : Entry) : State :=
  { s with trv := { s.trv with entries := SMap.put .free s.trv.entries i e } }

/-- The NODE at `i`. -/
def nodeAt (s : State) (i : Nat) : Option NodeE :=
  match getE s i with
  | .node n => some n
  | _ => none

/-- The TIMER at `i`. -/
def timerAt (s : State) (i : Nat) : Option TimerE :=
  match getE s i with
  | .timer t => some t
  | _ => none

/-- The GRAPH at `i`. -/
def graphAt (s : State) (i : Nat) : Option GraphE :=
  match getE s i with
  | .graph g => some g
  | _ => none

/-- Change the GRAPH at `i`. -/
def modGraph (s : State) (i : Nat) (f : GraphE → GraphE) : State :=
  match getE s i with
  | .graph g => putE s i (.graph (f g))
  | _ => s

/-- Change the NODE at `i`. -/
def modNode (s : State) (i : Nat) (f : NodeE → NodeE) : State :=
  match getE s i with
  | .node n => putE s i (.node (f n))
  | _ => s

/-- Counts and thresholds of ports 4 to 7 of a node with ext (Table 5.4). -/
def portxAt (s : State) (i : Nat) (n : NodeE) : List Nat × List Nat :=
  if n.ext then
    match getE s (i + 1) with
    | .portx p => (p.counts, p.thr)
    | _ => ([0, 0, 0, 0], [0, 0, 0, 0])
  else ([0, 0, 0, 0], [0, 0, 0, 0])

/-- Counts of ports 0 to 7. -/
def nodeCounts (s : State) (i : Nat) (n : NodeE) : List Nat := n.counts ++ (portxAt s i n).1

/-- Thresholds of ports 0 to 7. -/
def nodeThr (s : State) (i : Nat) (n : NodeE) : List Nat := n.thr ++ (portxAt s i n).2

/-- Firing total T of a node (R138). -/
def nodeT (s : State) (i : Nat) (n : NodeE) : Nat := (nodeThr s i n).foldl (· + ·) 0

/-- Store the counts of ports 0 to 7. -/
def setCounts (s : State) (i : Nat) (n : NodeE) (cs : List Nat) : State :=
  let s := putE s i (.node { n with counts := cs.take 4 })
  if n.ext then
    match getE s (i + 1) with
    | .portx p => putE s (i + 1) (.portx { p with counts := cs.drop 4 })
    | _ => s
  else s

/-! ### Ready queues (R138, R148) -/

/-- The ready queue of a level of a cluster. -/
def readyKey (cluster prio : Nat) : Nat := 64 * cluster + prio

def readyAtKey (s : State) (k : Nat) : List Nat := SMap.get [] s.trv.ready k

def setReady (s : State) (k : Nat) (l : List Nat) : State :=
  { s with trv := { s.trv with ready := SMap.put [] s.trv.ready k l } }

/-- Link node `i` at the tail of its level. -/
def linkReady (s : State) (i : Nat) (n : NodeE) : State :=
  let k := readyKey n.cluster n.prio
  setReady s k (readyAtKey s k ++ [i])

/-- Remove node `i` from its level. -/
def unlinkReady (s : State) (i : Nat) (n : NodeE) : State :=
  let k := readyKey n.cluster n.prio
  setReady s k ((readyAtKey s k).filter (· != i))

/-- Traverse's cycle, counted from 1. -/
def trvCycle (s : State) : Nat := s.mono.toNat / 2 + 1

/-- Is an IDLE node ready (R137)? -/
def isReady (s : State) (i : Nat) (n : NodeE) : Bool :=
  (List.zip (nodeCounts s i n) (nodeThr s i n)).all (fun p => p.2 == 0 || decide (p.2 ≤ p.1))

/-- A ready event (R138). -/
def readyEvent (s : State) (i : Nat) (n : NodeE) : State :=
  let t := nodeT s i n
  let cs := List.zipWith (· - ·) (nodeCounts s i n) (nodeThr s i n)
  let s := setCounts s i n cs
  let s := modGraph s n.graph (fun g => { g with ported := g.ported - t, inFlight := g.inFlight + t, busy := g.busy + 1 })
  let s := modNode s i (fun n => { n with state := .ready, readyAt := trvCycle s })
  linkReady s i n

/-- Evaluate the readiness of node `i`. -/
def evalReady (s : State) (i : Nat) : State :=
  match getE s i with
  | .node n => if n.state = .idle ∧ isReady s i n then readyEvent s i n else s
  | _ => s

/-! ### Token additions (R140) -/

/-- Is the addition of `k` tokens to port `p` of entry `i` accepted? -/
def tokOk (s : State) (i p k : Nat) : Bool :=
  match getE s i with
  | .node n =>
    let thr := (nodeThr s i n).getD p 0
    let c := (nodeCounts s i n).getD p 0
    match graphAt s n.graph with
    | some g => n.state != .cancelPending && n.state != .cancelled && thr != 0 && decide (c + k ≤ 255) && decide (k ≤ g.free)
    | none => false
  | _ => false

/-- A refused addition (R140). -/
def refuseTok (s : State) : State := orr (inc s Reg.TRV_TOK_REFUSED) Reg.TRV_INT_STAT 8

/-- An accepted addition. `late` is that of a late timer (R160). -/
def putTok (s : State) (i p k : Nat) (late : Bool) : State :=
  match getE s i with
  | .node n =>
    let cs := nodeCounts s i n
    let s := setCounts s i n (cs.set p (cs.getD p 0 + k))
    let s := modGraph s n.graph (fun g => { g with free := g.free - k, ported := g.ported + k })
    if late then modNode s i (fun n => { n with late := true }) else s
  | _ => s

/-- A token addition reaches Traverse: applied, or refused. -/
def addTok (s : State) (i p k : Nat) (late : Bool) : State := if tokOk s i p k then putTok s i p k late else refuseTok s

/-! ### Node ends (R151) -/

/-- Return T from in_flight to free. -/
def returnT (s : State) (i : Nat) (n : NodeE) : State :=
  let t := nodeT s i n
  modGraph s n.graph (fun g => { g with inFlight := g.inFlight - t, free := g.free + t, busy := g.busy - 1 })

/-- Node `i` ends with a status (Table 5.7). -/
def nodeEnd (s : State) (i status : Nat) : State :=
  match getE s i with
  | .node n =>
    match n.state with
    | .running =>
      if status = 0 then modNode (returnT s i n) i (fun n => { n with state := .idle })
      else if status = 1 then linkReady (modNode s i (fun n => { n with state := .ready, readyAt := trvCycle s })) i n
      else
        let s := modNode (returnT s i n) i (fun n => { n with state := .halted })
        let s := orr (wr s Reg.TRV_ERR_NODE (BitVec.ofNat 32 i)) Reg.TRV_INT_STAT 4
        if 3 ≤ status then inc s Reg.TRV_BAD_STATUS else s
    | .cancelPending => modNode (returnT s i n) i (fun n => { n with state := .cancelled })
    | _ => s
  | _ => s

/-- Timer `i` fires (R157, R160): its tokens are added; it is disarmed, a periodic one with its next wake tick. -/
def fireTimer (s : State) (i : Nat) : State :=
  match getE s i with
  | .timer t =>
    let s := if t.late then orr (inc s Reg.TRV_LATE_FIRE) Reg.TRV_INT_STAT 32 else s
    let s := addTok s t.target t.port t.count t.late
    let w := if t.period = 0 then t.wake else (t.wake + t.period) % 2 ^ 32
    putE s i (.timer { t with armed := false, late := false, wake := w })
  | _ => s

/-! ### The events of one cycle (R164)

Events given at one count of the monotonic counter fall in one Traverse cycle until something else changes the books: a dispatch selection or a command ends the cycle's events (DESIGN CHOICE, log entry 111). -/

/-- The registers that a cycle's events write. -/
def bookRegs : List Nat :=
  [Reg.TRV_TOK_REFUSED, Reg.TRV_INT_STAT, Reg.TRV_LATE_FIRE, Reg.TRV_BAD_STATUS, Reg.TRV_ERR_NODE]

/-- The books as they stand. -/
def books (s : State) : Books := ⟨s.trv.entries, s.trv.ready, bookRegs.map (rd s)⟩

/-- The books put back to `b`. -/
def setBooks (s : State) (b : Books) : State :=
  foldS (fun s p => wr s p.1 p.2) (List.zip bookRegs b.regs)
    { s with trv := { s.trv with entries := b.entries, ready := b.ready } }

/-- The cycle under way: events have been applied in it and nothing else has changed the books since. -/
def openCycle (s : State) : Option TrvCycle :=
  s.trv.cycle.filter (fun c => c.number == trvCycle s && decide (c.after = books s))

/-- The place of an event in its cycle (R164). -/
def TrvEv.rank : TrvEv → Nat
  | .ends _ _ => 0
  | .fire _ => 1
  | .tokens 96 _ _ _ => 2
  | .tokens n _ _ _ => 3 + n

/-- The node of an event. -/
def evNode (s : State) : TrvEv → Nat
  | .ends i _ => i
  | .fire i => ((timerAt s i).map (·.target)).getD 0
  | .tokens _ i _ _ => i

/-- An event's own effect, without the readiness evaluation. -/
def applyEv (s : State) : TrvEv → State
  | .ends i st => nodeEnd s i st
  | .fire i => fireTimer s i
  | .tokens _ i p k => addTok s i p k false

/-- The events with `e` in its place, behind those of its rank. -/
def insertEv (e : TrvEv) (l : List TrvEv) : List TrvEv :=
  l.takeWhile (fun x => decide (x.rank ≤ e.rank)) ++ e :: l.dropWhile (fun x => decide (x.rank ≤ e.rank))

/-- The books before the cycle's events, and the events. -/
def cycleStart (s : State) : Books × List TrvEv :=
  match openCycle s with
  | some c => (c.before, c.evs)
  | none => (books s, [])

/-- The state with the cycle's events applied and no readiness evaluated. -/
def beforeReady (s : State) : State := foldS applyEv (cycleStart s).2 (setBooks s (cycleStart s).1)

/-- The cycle's events are `evs`: applied to the books before them, then one readiness evaluation of each node (R164). -/
def runCycle (s : State) (before : Books) (evs : List TrvEv) : State :=
  let s := foldS applyEv evs (setBooks s before)
  let s := foldS evalReady (evs.map (evNode s)).eraseDups s
  { s with trv := { s.trv with cycle := some ⟨trvCycle s, before, books s, evs⟩ } }

/-- An event reaches Traverse. -/
def joinEv (s : State) (e : TrvEv) : State := runCycle s (cycleStart s).1 (insertEv e (cycleStart s).2)

/-- The firing of timer `i` is taken out of its cycle (R159). -/
def unfire (s : State) (i : Nat) : State :=
  match openCycle s with
  | some c => if c.evs.contains (.fire i) then runCycle s c.before (c.evs.erase (.fire i)) else s
  | none => s

/-- The cycle ends: what follows falls in a later one. -/
def endCycle (s : State) : State := { s with trv := { s.trv with cycle := none, picks := [] } }

/-- Time is at least the start of Traverse cycle `c`. -/
def fromCycle (s : State) (c : Nat) : State := notBefore s (2 * (c - 1))

/-! ### Cancellation (R161 to R163) -/

/-- Return all port counts of node `i` to free. -/
def returnCounts (s : State) (i : Nat) (n : NodeE) : State :=
  let c := (nodeCounts s i n).foldl (· + ·) 0
  modGraph (setCounts s i n [0, 0, 0, 0, 0, 0, 0, 0]) n.graph (fun g => { g with ported := g.ported - c, free := g.free + c })

/-- A READY node is cancelled: off its level; counts and T to free. -/
def cancelReady (s : State) (i : Nat) (n : NodeE) : State :=
  modNode (returnT (unlinkReady (returnCounts s i n) i n) i n) i (fun n => { n with state := .cancelled })

/-- The dispatch selection of node `i` in this cycle, whose tile has not taken it. -/
def pickOf (s : State) (i : Nat) : Option Pick :=
  s.trv.picks.find? (fun p => p.node == i && p.cycle == trvCycle s &&
    match (tileAt s p.tile).answer with
    | some (.dispatch _ _) => true
    | _ => false)

/-- The selection is not made: the asking tile keeps its place (R162). -/
def unpick (s : State) (p : Pick) : State :=
  let s := { s with trv := { s.trv with
    asking := SMap.put [] s.trv.asking p.cluster (p.tile :: SMap.get [] s.trv.asking p.cluster), picks := s.trv.picks.erase p } }
  modTile s p.tile (fun x => { x with answer := none })

/-- Did node `i` have a ready event in the cycle under way `o` (R162)? -/
def readyIn (o : Option TrvCycle) (i : Nat) (n : NodeE) : Bool :=
  o.any (fun c => c.number == n.readyAt && !c.evs.contains (.ends i 1))

/-- Cancel node `i` (Table 5.9) in the cycle under way `o`, winning over its ready event and its dispatch selection of that cycle (R162). -/
def cancelIn (o : Option TrvCycle) (s : State) (i : Nat) : State :=
  match getE s i with
  | .node n =>
    match n.state with
    | .ready => cancelReady (if readyIn o i n then inc s Reg.TRV_RDY_DISCARD else s) i n
    | .running =>
      match pickOf s i with
      | some p => cancelReady (unpick s p) i n
      | none => modNode (returnCounts s i n) i (fun n => { n with state := .cancelPending })
    | .cancelPending => s
    | .cancelled => s
    | _ => modNode (returnCounts s i n) i (fun n => { n with state := .cancelled })
  | _ => s

/-- Cancel node `i` (R161). -/
def cancelNode (s : State) (i : Nat) : State := cancelIn (openCycle s) s i

/-- The cluster of a timer: that of its target (R156). -/
def timerCluster (s : State) (t : TimerE) : Nat :=
  match nodeAt s t.target with
  | some n => n.cluster
  | none => 0

/-! ### Dispatch (R149) -/

/-- The READY nodes of a cluster, level by level. -/
def readyNodes (s : State) (c : Nat) : List Nat := (List.range 64).flatMap (fun p => readyAtKey s (readyKey c p))

/-- The first cycle in which node `i` can be selected: the one after its link (R138, R151). -/
def selectableAt (s : State) (i : Nat) : Nat := ((nodeAt s i).map (·.readyAt + 2)).getD 0

/-- The head of the lowest level of a cluster that holds a node that can be selected. -/
def headReady (s : State) (c : Nat) : Option Nat :=
  (readyNodes s c).find? (fun i => decide (selectableAt s i ≤ trvCycle s))

/-- The cycle in which tile `t`'s ask reached Traverse. -/
def askCycle (s : State) (t : Nat) : Nat := SMap.get 0 s.trv.askedAt t

/-- The first cycle in which cluster `c` can make a selection for asking tile `t` (Table 5.6), one selection a cycle. -/
def selectionAt (s : State) (c t : Nat) : Nat :=
  let nodes := ((readyNodes s c).map (selectableAt s)).min?.getD 0
  let last := ((s.trv.picks.filter (fun p => p.cluster == c)).map (·.cycle + 1)).foldl max 0
  max (max nodes (askCycle s t + 1)) last

/-- The dispatch record of a node (Table 4.7). -/
def dispatchRecord (i : Nat) (n : NodeE) : Word := BitVec.ofNat 32 (2 ^ 16 * n.prio + 2 ^ 15 * n.late.toNat + i)

/-- Tile `t` receives node `i`, the head READY node, and `ts` go on asking. -/
def select (s : State) (c t : Nat) (ts : List Nat) (i : Nat) : State :=
  match getE s i with
  | .node n =>
    let s := modNode (unlinkReady s i n) i (fun n => { n with state := .running, late := false })
    let s := { s with trv := { s.trv with asking := SMap.put [] s.trv.asking c ts,
                                          picks := s.trv.picks.filter (·.cycle == trvCycle s) ++ [⟨c, t, i, trvCycle s⟩] } }
    modTile s t (fun x => { x with answer := some (.dispatch (dispatchRecord i n) n.arg) })
  | _ => s

/-- Dispatch in cluster `c`: once the selection can be made, the oldest asking tile receives the head READY node. -/
def dispatch (s : State) (c : Nat) : State :=
  match SMap.get [] s.trv.asking c with
  | t :: ts =>
    if readyNodes s c = [] then s
    else
      let s := fromCycle s (selectionAt s c t)
      match headReady s c with
      | some i => select s c t ts i
      | none => s
  | [] => s

/-- TRV_CTRL.enable. -/
def trvEnabled (s : State) : Bool := rdb s Reg.TRV_CTRL 0

/-- DISPATCH (R149): no dispatch while Traverse is disabled or frozen (R166). -/
def execDispatch (cluster : Fin 12) (s : State) : Host.Outcome State Fault Refusal :=
  live s (if trvEnabled s && !frozen s then dispatch s cluster.val else s)

/-! ### Messages from tiles and from the queue engine (R121, R150, R164) -/

/-- The inbox without message `m` (its first occurrence). -/
def takeMsg (s : State) (m : TrvMsg) : State := { s with trv := { s.trv with inbox := s.trv.inbox.erase m } }

/-- The first message that meets a condition. -/
def findMsg (s : State) (p : TrvMsg → Bool) : Option TrvMsg := s.trv.inbox.find? p

/-- TOKEN_ADDITION (R140): the oldest addition of a sender, tile 0 to 95 or the queue engine (96). -/
def execTokenAddition (sender : Fin 97) (s : State) : Host.Outcome State Fault Refusal :=
  live s (if frozen s then s
    else match findMsg s (fun m => match m with
        | .tokens t _ _ _ => t == sender.val
        | _ => false) with
      | some (.tokens t e p c) => joinEv (takeMsg s (.tokens t e p c)) (.tokens t e p c)
      | _ => s)

/-- Tile `t`'s ask joins those of its cluster: behind those of earlier cycles, asks of one cycle by ascending global tile index (R149). -/
def joinAsk (s : State) (t : Nat) : State :=
  let l := SMap.get [] s.trv.asking (t / 8)
  let older (u : Nat) : Bool := decide (askCycle s u < trvCycle s) || decide (u < t)
  { s with trv := { s.trv with
      asking := SMap.put [] s.trv.asking (t / 8) (l.takeWhile older ++ t :: l.dropWhile older)
      askedAt := SMap.put 0 s.trv.askedAt t (trvCycle s) } }

/-- ASK_ARRIVAL (R149): the end that the ask carries comes first (R121). -/
def execAskArrival (tile : Fin 96) (s : State) : Host.Outcome State Fault Refusal :=
  live s (if frozen s then s
    else match findMsg s (fun m => match m with
        | .ask t _ => t == tile.val
        | _ => false) with
      | some (.ask t e) =>
        let s := takeMsg s (.ask t e)
        joinAsk (match e with
          | some i => joinEv s (.ends i 0)
          | none => s) t
      | _ => s)

/-- NODE_END (R151). -/
def execNodeEnd (tile : Fin 96) (s : State) : Host.Outcome State Fault Refusal :=
  live s (if frozen s then s
    else match findMsg s (fun m => match m with
        | .nodeEnd t _ _ => t == tile.val
        | _ => false) with
      | some (.nodeEnd t i st) => joinEv (takeMsg s (.nodeEnd t i st)) (.ends i st)
      | _ => s)

/-- HOST_DOORBELL_ARRIVAL (R121, R128). -/
def execHostDoorbellArrival (tile : Fin 96) (s : State) : Host.Outcome State Fault Refusal :=
  live s (match findMsg s (fun m => match m with
      | .hostDb t _ => t == tile.val
      | _ => false) with
    | some (.hostDb t d) =>
      orr (takeMsg s (.hostDb t d)) (Reg.TRV_HDB_STAT (d / 32)) (BitVec.ofNat 32 (2 ^ (d % 32)))
    | _ => s)

end Sys2Proof.Machine
end

