-- ==== Sys2Proof/Machine/TrvTimers.lean ====
section
/-! DEFINITION. Ticks, delay lists and timer firings of Traverse (R153 to R160). -/

namespace Sys2Proof.Machine

/-- TRV_TICK_CFG.mult. -/
def tickMult (s : State) : Nat := rdf s Reg.TRV_TICK_CFG 8 0

/-- The tick number at count `m` of the monotonic counter: tick k begins at the first count that is at least k × mult × 39 062.5 (R153). -/
def tickOf (mult m : Nat) : Nat := 2 * m / (78125 * mult)

/-- The first count of tick `k`. -/
def tickStart (mult k : Nat) : Nat := (k * mult * 78125 + 1) / 2

/-- The tick in force. -/
def tickNow (s : State) : Nat := tickOf (tickMult s) s.mono.toNat

/-- Is wake tick `w` in the future at tick `k` (R155)? -/
def inFuture (w k : Nat) : Bool :=
  let d := (w + 2 ^ 32 - k % 2 ^ 32) % 2 ^ 32
  decide (1 ≤ d ∧ d ≤ 2 ^ 31 - 1)

/-- Wake tick of timer `i`. -/
def wakeOf (s : State) (i : Nat) : Nat := ((timerAt s i).map (·.wake)).getD 0

/-- The delay list of cluster `c`. -/
def delayList (s : State) (c : Nat) : List Nat := SMap.get [] s.trv.delay c

def setDelay (s : State) (c : Nat) (l : List Nat) : State :=
  { s with trv := { s.trv with delay := SMap.put [] s.trv.delay c l } }

/-- Placements asked for on list `c`, oldest first. -/
def placings (s : State) (c : Nat) : List Nat := SMap.get [] s.trv.placing c

def setPlacings (s : State) (c : Nat) (l : List Nat) : State :=
  { s with trv := { s.trv with placing := SMap.put [] s.trv.placing c l } }

/-- Firings of list `c` that are not finished. -/
def firings (s : State) (c : Nat) : List Firing := SMap.get [] s.trv.firing c

def setFirings (s : State) (c : Nat) (l : List Firing) : State :=
  { s with trv := { s.trv with firing := SMap.put [] s.trv.firing c l } }

/-! ### Placing (R156, R159, R160) -/

/-- Ask for the placement of timer `i` with wake tick `w`. -/
def askPlace (s : State) (i w : Nat) : State :=
  match getE s i with
  | .timer t =>
    let c := timerCluster s t
    setPlacings (putE s i (.timer { t with wake := w % 2 ^ 32, armed := false, late := false })) c (placings s c ++ [i])
  | _ => s

/-- Insert a timer into a list sorted by wake tick, behind those of equal wake; timers not in the future come first (R156, R160). -/
def insertTimer (s : State) (k i : Nat) : List Nat → List Nat
  | [] => [i]
  | j :: js =>
    let late := fun x => !inFuture (wakeOf s x) k
    let before : Bool :=
      if late i then (timerAt s j).any (fun t => t.late)
      else late j || decide ((wakeOf s j + 2 ^ 32 - k % 2 ^ 32) % 2 ^ 32 ≤ (wakeOf s i + 2 ^ 32 - k % 2 ^ 32) % 2 ^ 32)
    if before then j :: insertTimer s k i js else i :: j :: js

/-- A placement completes: timer `i` joins list `c`, late when its wake is not in the future (R160). -/
def place (s : State) (c i : Nat) : State :=
  match getE s i with
  | .timer t =>
    let k := tickNow s
    let s := putE s i (.timer { t with armed := true, late := !inFuture t.wake k })
    setDelay s c (insertTimer s k i (delayList s c))
  | _ => s

/-! ### Boundaries and firings (R157, R158) -/

/-- The timers at the head of list `c` whose wake is not in the future. -/
def dueTimers (s : State) (c : Nat) : List Nat :=
  (delayList s c).takeWhile (fun i => !inFuture (wakeOf s i) (tickNow s))

/-- The firings `l` of list `c` that were waiting begin: those of the first boundary at which a timer is due. -/
def beginFirings (s : State) (c : Nat) : List Firing → State
  | [] => setFirings s c []
  | f :: fs =>
    if f.due.isSome then setFirings s c (f :: fs)
    else if dueTimers s c = [] then beginFirings s c fs
    else setFirings s c ({ f with due := some (dueTimers s c) } :: fs)

/-- The firings `f` at the head of list `c` are finished: the periodic timers held are placed again, in order (R157), and the next boundary's firings begin, unless a placement is under way (R156, R158). -/
def endFiring (s : State) (c : Nat) (f : Firing) (fs : List Firing) : State :=
  let s' := setPlacings (setFirings s c fs) c (placings s c ++ f.held)
  if placings s c = [] then beginFirings s' c fs else s'

/-- TIMER_PLACEMENT (R156): the oldest placement asked for on the list completes, and a boundary that waited for it begins its firings. -/
def execTimerPlacement (cluster : Fin 12) (s : State) : Host.Outcome State Fault Refusal :=
  let c := cluster.val
  live s (match placings s c with
    | i :: is =>
      if frozen s then s
      else
        let s := place (setPlacings s c is) c i
        beginFirings s c (firings s c)
    | [] => s)

/-- The boundary of tick `k` on list `c`: firings begin at once unless a placement or earlier firings are under way. -/
def boundaryList (k : Nat) (s : State) (c : Nat) : State :=
  match firings s c with
  | [] =>
    if placings s c ≠ [] then setFirings s c [⟨k, none, []⟩]
    else if dueTimers s c = [] then s
    else setFirings s c [⟨k, some (dueTimers s c), []⟩]
  | fs => setFirings (orr (inc s Reg.TRV_TICK_OVERRUN) Reg.TRV_INT_STAT 16) c (fs ++ [⟨k, none, []⟩])

/-- The 12 clusters. -/
def clusters : List Nat := [0, 1, 2, 3, 4, 5, 6, 7, 8, 9, 10, 11]

/-- The counter stands at the beginning of a tick whose boundary has not been passed. -/
def atBoundary (s : State) : Bool :=
  s.trv.tick != tickNow s && s.mono.toNat == tickStart (tickMult s) (tickNow s)

/-- The next tick boundary. -/
def nextTick (s : State) : Nat := if atBoundary s then tickNow s else tickNow s + 1

/-- Time reaches the next tick boundary. -/
def tickBoundary (s : State) : State :=
  let k := nextTick s
  let s := notBefore s (tickStart (tickMult s) k)
  let s := { s with trv := { s.trv with tick := k } }
  if trvEnabled s && !frozen s then foldS (boundaryList k) clusters s else s

/-- TICK_BOUNDARY (R153): time reaches the next tick boundary. -/
def execTickBoundary (s : State) : Host.Outcome State Fault Refusal := live s (tickBoundary s)

/-- Is timer `i` periodic? -/
def periodic (s : State) (i : Nat) : Bool := (timerAt s i).any (·.period != 0)

/-- Has list `c` fired a timer in the cycle under way (R157)? -/
def firedIn (s : State) (c : Nat) : Bool :=
  (openCycle s).any (fun o => o.evs.any (fun e => match e with
    | .fire i => (timerAt s i).any (fun t => timerCluster s t == c)
    | _ => false))

/-- Timer `i` of list `c` fires, in the cycle after the list's last firing at the earliest. -/
def fire (s : State) (c i : Nat) : State :=
  let s := if firedIn s c then fromCycle s (trvCycle s + 1) else s
  joinEv (setDelay s c ((delayList s c).filter (· != i))) (.fire i)

/-- The next timer of the firings at the head of list `c` fires, once they have begun. -/
def fireNext (s : State) (c : Nat) : State :=
  match firings s c with
  | [] => s
  | f :: fs =>
    match f.due with
    | none => s
    | some [] => endFiring s c f fs
    | some (i :: is) =>
      let f' : Firing := { f with due := some is, held := if periodic s i then f.held ++ [i] else f.held }
      if is = [] then endFiring (fire s c i) c f' fs else setFirings (fire s c i) c (f' :: fs)

/-- TIMER_FIRING (R157). -/
def execTimerFiring (cluster : Fin 12) (s : State) : Host.Outcome State Fault Refusal :=
  live s (if trvEnabled s && !frozen s then fireNext s cluster.val else s)

/-! ### Disarming (R159, R163) -/

/-- Remove timer `i` from the lists of cluster `c`, from the placements asked for it, and from the firings of its list that have not reached it. -/
def dropTimer (s : State) (c i : Nat) : State :=
  let f (l : List Nat) : List Nat := l.filter (· != i)
  { s with trv := { s.trv with
      delay := SMap.put [] s.trv.delay c (f (SMap.get [] s.trv.delay c))
      placing := SMap.put [] s.trv.placing c (f (SMap.get [] s.trv.placing c))
      firing := SMap.put [] s.trv.firing c
        ((SMap.get [] s.trv.firing c).map (fun x => { x with due := x.due.map f, held := f x.held })) } }

/-- List `c` goes on after timer `i` left it: firings with none left are finished, and a boundary that waited for its placement begins. -/
def afterDrop (s : State) (c : Nat) (wasPlaced : Bool) : State :=
  match firings s c with
  | f :: fs =>
    if f.due = some [] then endFiring s c f fs
    else if wasPlaced then beginFirings s c (f :: fs) else s
  | [] => s

/-- Disarm timer `i` (R159). -/
def disarm (s : State) (i : Nat) : State :=
  match getE s i with
  | .timer t =>
    let c := timerCluster s t
    let s' := afterDrop (dropTimer s c i) c (decide ((placings s c).head? = some i))
    putE s' i (.timer { t with armed := false, late := false })
  | _ => s

/-- Cancel a graph: every node, every timer (R163). -/
def cancelGraph (s : State) (g : Nat) : State :=
  match getE s g with
  | .graph x =>
    let o := openCycle s
    let s := modGraph s g (fun x => { x with cancelled := true })
    foldS (fun s i => match getE s i with
      | .node _ => cancelIn o s i
      | .timer _ => disarm s i
      | _ => s) ((List.range x.length).map (· + g)) s
  | _ => s

/-! ### TRV_CTRL and TRV_TICK_CFG (R153, R427) -/

/-- The mode whose permissions hold: M7 follows its origin, M9 the mode it came from (Table 16.1). -/
def effMode (s : State) : Nat :=
  let m := if mode s = 9 then rdf s Reg.PWR_MODE 15 12 else mode s
  if m = 7 then rdf s Reg.PWR_MODE 11 8 else m

/-- Does the mode hold TRV_CTRL.enable at 0 (Table 16.1)? -/
def trvHeld (s : State) : Bool := [0, 1, 2, 3, 11].contains (effMode s)

/-- Firings that have not begun or ended when Traverse is disabled are dropped; the periodic timers they held are placed again (R153). -/
def dropFirings (s : State) (c : Nat) : State :=
  setPlacings (setFirings s c []) c (placings s c ++ (firings s c).flatMap (·.held))

/-- A write of TRV_CTRL.enable. -/
def trvEnable (s : State) (on : Bool) : State :=
  if on then (if trvHeld s then s else wrb s Reg.TRV_CTRL 0 true)
  else
    let s := wrb s Reg.TRV_CTRL 0 false
    foldS dropFirings clusters s

/-- TRV_ENABLE (R153). -/
def execTrvEnable (who : Who) (value : Word) (s : State) : Host.Outcome State Fault Refusal :=
  live s (swWrite s who Reg.TRV_CTRL (fun s => trvEnable s (value.getLsbD 0)))

/-- A write of TRV_TICK_CFG: ignored while enable is 1; 0 stores 1, above 320 stores 320 (Table 5.13). -/
def tickMultWrite (s : State) (v : Word) : State :=
  if trvEnabled s then s
  else
    let s := wr s Reg.TRV_TICK_CFG (BitVec.ofNat 32 (max 1 (min 320 (fld v 8 0))))
    { s with trv := { s.trv with tick := tickNow s } }

/-- TICK_MULT_WRITE (R153). -/
def execTickMultWrite (who : Who) (value : Word) (s : State) : Host.Outcome State Fault Refusal :=
  live s (swWrite s who Reg.TRV_TICK_CFG (fun s => tickMultWrite s value))

end Sys2Proof.Machine
end

