-- ==== Sys2Proof/Machine/TrvCmds.lean ====
section
/-! DEFINITION. Traverse's commands (R144 to R147, R159, R161, R165, R167): loading of graph descriptors, entries as words, and the command register. -/

namespace Sys2Proof.Machine

/-! ### Entries as words (Tables 5.2 to 5.5) -/

/-- The element after `i` in a list, 0 at its end. -/
def linkAfter (i : Nat) : List Nat → Nat
  | a :: b :: t => if a = i then b else linkAfter i (b :: t)
  | _ => 0

/-- The code of a node state (Table 5.3). -/
def NodeState.code : NodeState → Nat
  | .idle => 0
  | .ready => 1
  | .running => 2
  | .halted => 3
  | .cancelPending => 4
  | .cancelled => 5

/-- Pack a list of fields of `w` bits, the first lowest. -/
def packW (w : Nat) : List Nat → Nat
  | [] => 0
  | x :: xs => x + 2 ^ w * packW w xs

/-- Words W0 to W3 of resident entry `i`. -/
def entryWords (s : State) (i : Nat) : List Nat :=
  match getE s i with
  | .free => [0, 0, 0, 0]
  | .graph g =>
    [2 ^ 29 + 2 ^ 26 * g.cancelled.toNat + g.length, 2 ^ 16 * g.total + g.free, 2 ^ 16 * g.inFlight + g.ported,
      2 ^ 24 * g.version + g.busy]
  | .node n =>
    [2 ^ 29 * 2 + 2 ^ 26 * n.state.code + 2 ^ 20 * n.prio + 2 ^ 16 * n.cluster + 2 ^ 15 * n.ext.toNat + n.graph,
      n.arg.toNat, packW 8 n.counts,
      2 ^ 16 * packW 4 n.thr + 2 ^ 15 * n.late.toNat + linkAfter i (readyAtKey s (readyKey n.cluster n.prio))]
  | .portx p => [2 ^ 29 * 3 + p.owner, 0, packW 8 p.counts, 2 ^ 16 * packW 4 p.thr]
  | .timer t =>
    [2 ^ 29 * 4 + 2 ^ 28 * t.armed.toNat + 2 ^ 27 * t.late.toNat + 2 ^ 24 * t.port + 2 ^ 16 * t.count + t.target,
      t.wake, 2 ^ 16 * t.period, linkAfter i (delayList s (timerCluster s t))]

/-! ### Descriptor checks (R144, R145) -/

/-- Word `k` of image entry `j`. -/
def imgW (img : List Byte) (j k : Nat) : Nat := le img (16 * j + 4 * k) 4

/-- Kind of image entry `j`. -/
def imgKind (img : List Byte) (j : Nat) : Nat := slice (imgW img j 0) 31 29

/-- Entry `j` of an image of `len` entries, absolute at `base`; `tick` is the load tick (R146). -/
def imgEntry (img : List Byte) (base tick j : Nat) : Entry :=
  let w := imgW img j
  let nib (x : Nat) : List Nat := [slice x 19 16, slice x 23 20, slice x 27 24, slice x 31 28]
  let byt (x : Nat) : List Nat := [slice x 7 0, slice x 15 8, slice x 23 16, slice x 31 24]
  match imgKind img j with
  | 1 => .graph { cancelled := false, length := slice (w 0) 15 0, total := slice (w 1) 31 16, free := 0, inFlight := 0,
                  ported := 0, version := slice (w 3) 31 24, busy := 0 }
  | 2 => .node { state := .idle, prio := slice (w 0) 25 20, cluster := slice (w 0) 19 16, ext := (w 0).testBit 15,
                 graph := base, arg := BitVec.ofNat 32 (w 1), counts := byt (w 2), thr := nib (w 3), late := false, readyAt := 0 }
  | 3 => .portx { owner := base + slice (w 0) 14 0, counts := byt (w 2), thr := nib (w 3) }
  | 4 => .timer { armed := (w 0).testBit 28, late := false, port := slice (w 0) 26 24, count := slice (w 0) 23 16,
                  target := base + slice (w 0) 14 0,
                  wake := (if (w 2).testBit 0 then tick + w 1 else w 1) % 2 ^ 32, period := slice (w 2) 31 16 }
  | _ => .free

/-- The bits of entry `j` that R144 and Tables 5.2 to 5.5 require to be 0 are 0, and its kind may stand there. -/
def kindOk (img : List Byte) (j : Nat) : Bool :=
  let w := imgW img j
  if j = 0 then imgKind img 0 == 1 && slice (w 0) 28 16 == 0 && slice (w 3) 23 0 == 0
  else match imgKind img j with
    | 2 => slice (w 0) 28 26 == 0 && slice (w 0) 14 0 == 0 && slice (w 3) 15 0 == 0
    | 3 => slice (w 0) 28 15 == 0 && w 1 == 0 && slice (w 3) 15 0 == 0
    | 4 => !(w 0).testBit 27 && !(w 0).testBit 15 && slice (w 2) 15 1 == 0 && w 3 == 0
    | _ => false

/-- Counts and thresholds of ports 0 to 7 of the NODE at image entry `j`. -/
def imgPorts (img : List Byte) (j : Nat) : List (Nat × Nat) :=
  let low (k : Nat) : List (Nat × Nat) :=
    (List.range 4).map (fun p => (slice (imgW img k 2) (8 * p + 7) (8 * p), slice (imgW img k 3) (4 * p + 19) (4 * p + 16)))
  if (imgW img j 0).testBit 15 && imgKind img (j + 1) == 3 then low j ++ low (j + 1)
  else low j ++ [(0, 0), (0, 0), (0, 0), (0, 0)]

/-- A node has a port in use, and no count on an unused port. -/
def thresholdOk (img : List Byte) (j : Nat) : Bool :=
  imgKind img j != 2 ||
    ((imgPorts img j).any (fun p => p.2 != 0) && (imgPorts img j).all (fun p => p.2 != 0 || p.1 == 0))

/-- A PORTX directly follows the NODE whose ext is 1, and follows no other entry. -/
def extOk (img : List Byte) (len j : Nat) : Bool :=
  let isExt (k : Nat) : Bool := imgKind img k == 2 && (imgW img k 0).testBit 15
  (!isExt j || (decide (j + 1 < len) && imgKind img (j + 1) == 3)) &&
    (imgKind img j != 3 || (isExt (j - 1) && slice (imgW img j 0) 14 0 == j - 1))

/-- A timer's target is a NODE of the graph with its port in use, and its count is not 0. -/
def targetOk (img : List Byte) (len j : Nat) : Bool :=
  imgKind img j != 4 ||
    (let w0 := imgW img j 0
     let t := slice w0 14 0
     decide (t < len) && imgKind img t == 2 && ((imgPorts img t).getD (slice w0 26 24) (0, 0)).2 != 0 &&
       slice w0 23 16 != 0)

/-- The initial count of a graph's ports. -/
def imgCounts (img : List Byte) (len : Nat) : Nat :=
  (List.range len).foldl (fun n j =>
    if imgKind img j = 2 then n + ((imgPorts img j).take 4).foldl (fun a p => a + p.1) 0
    else if imgKind img j = 3 then n + (List.range 4).foldl (fun a p => a + slice (imgW img j 2) (8 * p + 7) (8 * p)) 0
    else n) 0

/-- Codes of Table 5.15. -/
def trvBUSY : Nat := 1
def trvADDR : Nat := 2
def trvRANGE : Nat := 3
def trvNOTFREE : Nat := 4
def trvKIND : Nat := 5
def trvVERSION : Nat := 6
def trvCLUSTER : Nat := 7
def trvTHRESHOLD : Nat := 8
def trvEXT : Nat := 9
def trvTARGET : Nat := 10
def trvPOOL : Nat := 11
def trvSTATE : Nat := 12
def trvMEM : Nat := 13
def trvTOKEN : Nat := 14
def trvTILE : Nat := 15
def trvINDEX : Nat := 16
def trvOP : Nat := 17

/-- The content checks of R145, from KIND on: the first failing one, or 0. -/
def contentCheck (img : List Byte) (len : Nat) : Nat :=
  let all (p : Nat → Bool) : Bool := (List.range len).all p
  if !all (kindOk img) then trvKIND
  else if slice (imgW img 0 3) 31 24 ≠ 1 then trvVERSION
  else if !all (fun j => imgKind img j != 2 || decide (slice (imgW img j 0) 19 16 ≤ 11)) then trvCLUSTER
  else if !all (thresholdOk img) then trvTHRESHOLD
  else if !all (extOk img len) then trvEXT
  else if !all (targetOk img len) then trvTARGET
  else if slice (imgW img 0 1) 31 16 < imgCounts img len then trvPOOL
  else 0

/-- The checks of a load at `addr` (R145): the code of the first that fails, or 0, with the image, read in the bulk class (R146). -/
def loadCheck (s : State) (base addr : Nat) : Nat × List Byte × State :=
  if addr % 64 ≠ 0 ∨ !inDram s addr 16 then (trvADDR, [], s)
  else match memRead s (accelPort 0 2) addr 16 with
    | (none, s) => (trvMEM, [], s)
    | (some h, s) =>
      let len := slice (imgW h 0 0) 15 0
      if len < 2 ∨ 32768 < base + len then (trvRANGE, [], s)
      else if !inDram s addr (len * 16) then (trvADDR, [], s)
      else if !(List.range len).all (fun j => getE s (base + j) == .free) then (trvNOTFREE, [], s)
      else match memRead s (accelPort 0 2) (addr + 16) (len * 16 - 16) with
        | (none, s) => (trvMEM, [], s)
        | (some t, s) => (contentCheck (h ++ t) len, h ++ t, s)

/-- Install a loaded image (R146): entries, pool, placements of armed timers, ready events in ascending order. -/
def install (s : State) (base : Nat) (img : List Byte) : State :=
  let len := slice (imgW img 0 0) 15 0
  let idx := List.range len
  let tick := tickNow s
  let s := foldS (fun s j => putE s (base + j) (imgEntry img base tick j)) idx s
  let c := imgCounts img len
  let s := modGraph s base (fun g => { g with ported := c, free := g.total - c })
  let s := foldS (fun s j => match getE s (base + j) with
    | .timer t => if t.armed then askPlace s (base + j) t.wake else s
    | _ => s) idx s
  foldS (fun s j => evalReady s (base + j)) idx s

/-! ### The command register (R165) -/

/-- A command succeeded. -/
def trvDone (s : State) : State :=
  orr (wrb (wrf s Reg.TRV_CMD_STAT 4 0 0) Reg.TRV_CMD_STAT 30 true) Reg.TRV_INT_STAT 1

/-- A command failed with a code. -/
def trvErr (s : State) (code : Nat) : State :=
  orr (wrb (wrf s Reg.TRV_CMD_STAT 4 0 code) Reg.TRV_CMD_STAT 29 true) Reg.TRV_INT_STAT 2

/-- A write that found busy (R165): err with code BUSY, and no interrupt. -/
def trvBusy (s : State) : State := wrb (wrf s Reg.TRV_CMD_STAT 4 0 trvBUSY) Reg.TRV_CMD_STAT 29 true

/-- Done, or an error when the code is not 0. -/
def trvEnd (s : State) (code : Nat) : State := if code = 0 then trvDone s else trvErr s code

/-- A command on a NODE. -/
def onNode (s : State) (i : Nat) (f : NodeE → State) : State :=
  match getE s i with
  | .node n => f n
  | _ => trvErr s trvINDEX

/-- A command on a TIMER. -/
def onTimer (s : State) (i : Nat) (f : TimerE → State) : State :=
  match getE s i with
  | .timer t => f t
  | _ => trvErr s trvINDEX

/-- A command on a GRAPH. -/
def onGraph (s : State) (i : Nat) (f : GraphE → State) : State :=
  match getE s i with
  | .graph g => f g
  | _ => trvErr s trvINDEX

/-- LOAD: the descriptor is read and checked; a good one becomes resident when the load completes. -/
def trvLoad (s : State) (base : Nat) : State :=
  let addr := (rd s Reg.TRV_CMD_ARG0).toNat + 2 ^ 32 * rdf s Reg.TRV_CMD_ARG1 15 0
  match loadCheck s base addr with
  | (0, img, s) => wrb { s with trv := { s.trv with loading := some ⟨base, img⟩ } } Reg.TRV_CMD_STAT 31 true
  | (code, _, s) => trvErr s code

/-- UNLOAD (R147). -/
def trvUnload (s : State) (i : Nat) : State :=
  onGraph s i (fun g =>
    if g.cancelled ∧ g.busy = 0 ∧ g.free = g.total then
      trvDone (foldS (fun s j => putE s (i + j) .free) (List.range g.length) s)
    else trvErr s trvSTATE)

/-- CANCEL_NODE (R161). -/
def trvCancelNode (s : State) (i : Nat) : State := onNode s i (fun _ => trvDone (cancelNode s i))

/-- CANCEL_GRAPH (R163). -/
def trvCancelGraph (s : State) (i : Nat) : State := onGraph s i (fun _ => trvDone (cancelGraph s i))

/-- ADD_TOK (R140): the last addition of its cycle (R164). -/
def trvAddTok (s : State) (i : Nat) : State :=
  onNode s i (fun _ =>
    let p := rdf s Reg.TRV_CMD_ARG0 2 0
    let k := rdf s Reg.TRV_CMD_ARG0 15 8
    trvEnd (joinEv s (.tokens 97 i p k)) (if tokOk (beforeReady s) i p k then 0 else trvTOKEN))

/-- ARM (R159): a timer already armed leaves its list first. -/
def trvArm (s : State) (i : Nat) : State :=
  onTimer s i (fun _ =>
    let a := (rd s Reg.TRV_CMD_ARG0).toNat
    let w := if rdb s Reg.TRV_CMD_ARG1 0 then tickNow s + a else a
    trvDone (askPlace (disarm s i) i w))

/-- DISARM (R159): it wins over the timer's firing of the same cycle. -/
def trvDisarm (s : State) (i : Nat) : State := onTimer s i (fun _ => trvDone (disarm (unfire s i) i))

/-- RESUME (R152). -/
def trvResume (s : State) (i : Nat) : State :=
  onNode s i (fun n =>
    if n.state = .halted then trvDone (evalReady (modNode s i (fun n => { n with state := .idle })) i) else trvErr s trvSTATE)

/-- RELEASE (R152). -/
def trvRelease (s : State) (t : Nat) : State :=
  if 96 ≤ t || tileRunning s t || !rdb s (Reg.TILE_TASK t) 31 then trvErr s trvTILE
  else
    let i := rdf s (Reg.TILE_TASK t) 14 0
    trvDone (joinEv (wrb s (Reg.TILE_TASK t) 31 false) (.ends i (rdf s Reg.TRV_CMD_ARG0 7 0)))

/-- READ_ENTRY (R165). -/
def trvReadEntry (s : State) (i : Nat) : State :=
  let w := entryWords s i
  trvDone (foldS (fun s k => wr s (Reg.TRV_CMD_DATA k) (BitVec.ofNat 32 (w.getD k 0))) [0, 1, 2, 3] s)

/-- The command of an op (Table 5.11). -/
def trvOp (s : State) (op i : Nat) : State :=
  match op with
  | 1 => trvLoad s i
  | 2 => trvUnload s i
  | 3 => trvCancelNode s i
  | 4 => trvCancelGraph s i
  | 5 => trvAddTok s i
  | 6 => trvArm s i
  | 7 => trvDisarm s i
  | 8 => trvResume s i
  | 9 => trvRelease s i
  | 10 => trvReadEntry s i
  | _ => trvErr s trvOP

/-- A write of TRV_CMD: refused while a command runs, ignored in M10 (R165, R166). Two commands never share a cycle. -/
def trvCmdWrite (s : State) (v : Word) : State :=
  if frozen s then s
  else if s.trv.loading.isSome then trvBusy s
  else endCycle (trvOp s (fld v 27 24) (fld v 14 0))

/-- A row that writes TRV_CMD. -/
def trvCmdRow (s : State) (who : Who) (op : Nat) (index : BitVec 15) : State :=
  swWrite s who Reg.TRV_CMD (fun s => trvCmdWrite s (BitVec.ofNat 32 (2 ^ 24 * op + index.toNat)))

/-- LOAD (R145). -/
def execLoad (who : Who) (index : BitVec 15) (s : State) : Host.Outcome State Fault Refusal := live s (trvCmdRow s who 1 index)
/-- UNLOAD (R147). -/
def execUnload (who : Who) (index : BitVec 15) (s : State) : Host.Outcome State Fault Refusal := live s (trvCmdRow s who 2 index)
/-- CANCEL_NODE (R161). -/
def execCancelNode (who : Who) (index : BitVec 15) (s : State) : Host.Outcome State Fault Refusal := live s (trvCmdRow s who 3 index)
/-- CANCEL_GRAPH (R163). -/
def execCancelGraph (who : Who) (index : BitVec 15) (s : State) : Host.Outcome State Fault Refusal := live s (trvCmdRow s who 4 index)
/-- ADD_TOK (R140). -/
def execAddTok (who : Who) (index : BitVec 15) (s : State) : Host.Outcome State Fault Refusal := live s (trvCmdRow s who 5 index)
/-- ARM (R159). -/
def execArm (who : Who) (index : BitVec 15) (s : State) : Host.Outcome State Fault Refusal := live s (trvCmdRow s who 6 index)
/-- DISARM (R159). -/
def execDisarm (who : Who) (index : BitVec 15) (s : State) : Host.Outcome State Fault Refusal := live s (trvCmdRow s who 7 index)
/-- RESUME (R152). -/
def execResume (who : Who) (index : BitVec 15) (s : State) : Host.Outcome State Fault Refusal := live s (trvCmdRow s who 8 index)
/-- RELEASE (R152). -/
def execRelease (who : Who) (index : BitVec 15) (s : State) : Host.Outcome State Fault Refusal := live s (trvCmdRow s who 9 index)
/-- READ_ENTRY (R165). -/
def execReadEntry (who : Who) (index : BitVec 15) (s : State) : Host.Outcome State Fault Refusal := live s (trvCmdRow s who 10 index)

/-- The reserved ops of TRV_CMD: 0 and 11 to 15. -/
def reservedOp (k : Fin 6) : Nat := if k.val = 0 then 0 else 10 + k.val

/-- TRV_RESERVED_OP (R165). -/
def execTrvReservedOp (who : Who) (op : Fin 6) (index : BitVec 15) (s : State) : Host.Outcome State Fault Refusal :=
  live s (trvCmdRow s who (reservedOp op) index)

/-- LOAD_COMPLETE (R146). -/
def execLoadComplete (s : State) : Host.Outcome State Fault Refusal :=
  live s (match s.trv.loading with
    | some l =>
      if frozen s then s
      else trvDone (install (wrb { s with trv := { s.trv with loading := none } } Reg.TRV_CMD_STAT 31 false) l.base l.image)
    | none => s)

/-! ### Audit and views (R167, R168) -/

/-- Sum of a field over all resident graphs. -/
def graphSum (s : State) (f : GraphE → Nat) : Word :=
  BitVec.ofNat 32 (s.trv.entries.foldl (fun n e => match e.2 with
    | .graph g => n + f g
    | _ => n) 0)

/-- Latch the token sums (R167). -/
def trvSnap (s : State) : State :=
  let s1 := wr s Reg.TRV_AUD_TOTAL (graphSum s (·.total))
  let s2 := wr s1 Reg.TRV_AUD_FREE (graphSum s (·.free))
  let s3 := wr s2 Reg.TRV_AUD_PORTED (graphSum s (·.ported))
  wr s3 Reg.TRV_AUD_INFLIGHT (graphSum s (·.inFlight))

/-- TRV_AUDIT_SNAPSHOT (R167). -/
def execTrvAuditSnapshot (who : Who) (s : State) : Host.Outcome State Fault Refusal :=
  live s (swWrite s who Reg.TRV_AUD_SNAP trvSnap)

/-- TRV_READY_DEPTH of cluster `c` (Table 5.18). -/
def readyDepth (s : State) (c : Nat) : Nat :=
  2 ^ 16 * (SMap.get [] s.trv.asking c).length + (List.range 64).foldl (fun n p => n + (readyAtKey s (readyKey c p)).length) 0

/-- What a read of the TRV page register at `a` returns. -/
def trvPageRead (s : State) (a : Nat) : Word :=
  let o := a % 4096
  if 0x80 ≤ o ∧ o < 0xB0 then BitVec.ofNat 32 (readyDepth s ((o - 0x80) / 4))
  else if 0xC0 ≤ o ∧ o < 0xF0 then BitVec.ofNat 32 (delayList s ((o - 0xC0) / 4)).length
  else match o with
    | 0x004 => BitVec.ofNat 32 ((frozen s).toNat * 4 + s.trv.loading.isSome.toNat * 2 + (trvEnabled s && !frozen s).toNat)
    | 0x00C => BitVec.ofNat 32 (tickNow s)
    | 0x054 => BitVec.ofNat 32 s.trv.entries.length
    | _ => rd s a

/-- A write of `v` to the TRV page register at `a`. -/
def trvPageWrite (s : State) (a : Nat) (v : Word) : State :=
  match a % 4096 with
  | 0x000 => trvEnable s (v.getLsbD 0)
  | 0x008 => tickMultWrite s v
  | 0x010 => trvCmdWrite s v
  | 0x060 => if v.getLsbD 0 then trvSnap s else s
  | _ => plainWrite s a v

end Sys2Proof.Machine
end

