-- ==== Sys2Proof/Machine/Jq.lean ====
section
/-! DEFINITION. The queue engine: pointers, pushes, discards, tile operations, watermarks, flush, binding, commands and records (R169 to R193). -/

namespace Sys2Proof.Machine

/-- Queue `q`. -/
def queueAt (s : State) (q : Nat) : Queue := SMap.get Queue.reset s.jq.queues q

/-- Replace queue `q`. -/
def setQueue (s : State) (q : Nat) (x : Queue) : State :=
  { s with jq := { s.jq with queues := SMap.put Queue.reset s.jq.queues q x } }

/-- Change queue `q`. -/
def modQueue (s : State) (q : Nat) (f : Queue → Queue) : State := setQueue s q (f (queueAt s q))

/-- Depth of a queue (R170). -/
def depthOf (x : Queue) : Nat := 2 ^ (x.dcode + 3)

/-- The slot of position `p` (R172). -/
def slotOf (x : Queue) (p : Nat) : Nat := x.base + p % depthOf x

/-- The item at position `p`. -/
def slotAt (s : State) (x : Queue) (p : Nat) : Word := SMap.get 0 s.jq.slots (slotOf x p)

/-- The presence bit of position `p` (R173). -/
def presentAt (s : State) (x : Queue) (p : Nat) : Bool := SMap.get false s.jq.present (slotOf x p)

/-- Set the presence bit of position `p`. -/
def setPresent (s : State) (x : Queue) (p : Nat) (b : Bool) : State :=
  { s with jq := { s.jq with present := SMap.put false s.jq.present (slotOf x p) b } }

/-- Store an item at position `p` and set its presence bit. -/
def writeSlot (s : State) (x : Queue) (p : Nat) (item : Word) : State :=
  let s := { s with jq := { s.jq with slots := SMap.put 0 s.jq.slots (slotOf x p) item } }
  setPresent s x p true

/-- Positions `a` to `b` - 1. -/
def positions (a b : Nat) : List Nat := (List.range (b - a)).map (· + a)

/-- The level and the held count of a queue (R172, R173). -/
def levelOf (x : Queue) : Nat := x.wp - x.rp
def heldOf (s : State) (x : Queue) : Nat := ((positions x.rp x.wp).filter (presentAt s x)).length

/-- The item is the last of its packet (Table 6.1). -/
def lop (item : Word) : Bool := item.getLsbD 31

/-! ### Discards (R176 to R178) -/

def rsLOST : Nat := 1
def rsLATE : Nat := 2
def rsDUP : Nat := 3
def rsFLUSH : Nat := 4
def rsDISABLE : Nat := 5

/-- Count a LOST discard in the 48-bit device total. -/
def countLost (s : State) : State :=
  let v := rd2 s Reg.JQ_LOST_TOTAL_LO Reg.JQ_LOST_TOTAL_HI + 1
  orr (wr2 s Reg.JQ_LOST_TOTAL_LO Reg.JQ_LOST_TOTAL_HI (v % 2 ^ 48)) Reg.JQ_INT_STAT 32

/-- Discard an item of queue `q` for a reason: it is counted and enters the disposal buffer. -/
def discard (s : State) (q : Nat) (item : Word) (reason : Nat) : State :=
  let x := queueAt s q
  let s := { s with jq := { s.jq with
    discs := s.jq.discs + 1, disposal := s.jq.disposal ++ [⟨item, reason, q, x.disc⟩] } }
  if reason = rsLOST then countLost (setQueue s q { x with lost := x.lost + 1 })
  else if reason = rsLATE then setQueue s q { x with late := x.late + 1 }
  else if reason = rsDUP then setQueue s q { x with dup := x.dup + 1 }
  else s

/-- Discard the items present at positions `a` to `b` - 1. -/
def discardAll (s : State) (q a b reason : Nat) : State :=
  foldS (fun s p => if presentAt s (queueAt s q) p then discard s q (slotAt s (queueAt s q) p) reason else s) (positions a b) s

/-- More than 768 items wait for disposal (R178). -/
def dispBusy (s : State) : Bool := decide (768 < s.jq.disposal.length)

/-! ### Watermarks and pins (R183 to R185) -/

/-- Queues of group `g` whose above state is 1. -/
def qfcCount (s : State) (g : Nat) : Nat :=
  (s.jq.queues.filter (fun e => e.2.en && e.2.above && e.2.member == some g)).length

/-- The pins follow the counts, but for a frozen part (R191). -/
def qfcPins (s : State) : State :=
  if frozen s then s
  else
    let v := (List.range 8).foldl (fun n g => n + (rdb s Reg.JQ_QFC_CTRL g && qfcCount s g != 0).toNat * 2 ^ g) 0
    { s with jq := { s.jq with pins := BitVec.ofNat 8 v } }

/-- Give queue `q` an above state; a change is an event where wm_ev is 1 (R184). -/
def setAbove (s : State) (q : Nat) (b : Bool) : State :=
  let x := queueAt s q
  if x.above = b then s
  else
    let s := setQueue s q { x with above := b }
    if !x.wmEv then s
    else if 256 ≤ s.jq.events.length then orr (inc s Reg.JQ_EV_OVF) Reg.JQ_INT_STAT 8
    else orr { s with jq := { s.jq with events := s.jq.events ++ [(q, b)] } } Reg.JQ_INT_STAT 4

/-- The QFC group that W1 gives a queue (R185). -/
def groupOf (x : Queue) : Option Nat := if x.qfcEn then some x.qfcGrp else none

/-- A commit on queue `q`, whose level was `l`: W1 takes effect (R193), and a changed level is evaluated for above; a hi of 0 keeps above at 0 (R183). -/
def evalAbove (s : State) (q l : Nat) : State :=
  let s := modQueue s q (fun x => { x with member := groupOf x })
  let x := queueAt s q
  let v := levelOf x
  let s :=
    if x.hi = 0 then setAbove s q false
    else if v = l then s
    else if !x.above ∧ x.hi ≤ v then setAbove s q true
    else if x.above ∧ v ≤ x.lo then setAbove s q false
    else s
  qfcPins s

/-! ### Marks (R182) -/

/-- check_mark, after a change of WP. -/
def checkMark (s : State) (q : Nat) : State :=
  modQueue s q (fun x =>
    if x.mstate = .valid ∧ depthOf x < x.wp - x.mark then { x with mstate := .lost, markLost := x.markLost + 1 } else x)

/-! ### Pushes (R175) -/

/-- The sync step: an empty window at the position of sequence number `sq`. -/
def syncTo (x : Queue) (sq : Nat) : Queue :=
  let p := x.wp + (sq + depthOf x * (x.wp + 1) - x.wp) % depthOf x
  { x with sync := true, rseq := sq % 65536, rp := p, wp := p }

/-- An append-mode push; answers the position at which it made its item present. -/
def pushAppend (s : State) (q : Nat) (item : Word) : Option Nat × State :=
  let x := queueAt s q
  let s := if x.wp - x.rp = depthOf x then modQueue (discard s q (slotAt s x x.rp) rsLOST) q (fun x => { x with rp := x.rp + 1 }) else s
  let s := writeSlot s x x.wp item
  (some x.wp, modQueue s q (fun x => { x with wp := x.wp + 1 }))

/-- A placement-mode push of an item at sequence number `sq`; answers the position at which it made the item present. -/
def pushPlace (s : State) (q : Nat) (item : Word) (sq : Nat) : Option Nat × State :=
  let s := if (queueAt s q).sync then s else modQueue s q (fun x => syncTo x sq)
  let x := queueAt s q
  let dp := depthOf x
  let d := (sq + 65536 - x.rseq) % 65536
  if 32768 ≤ d then (none, discard s q item rsLATE)
  else
    let n := if dp ≤ d then d - dp + 1 else 0
    let s := discardAll s q x.rp (min (x.rp + n) x.wp) rsLOST
    let s := modQueue s q (fun x => { x with rp := x.rp + n, rseq := (x.rseq + n) % 65536, wp := max x.wp (x.rp + n) })
    let d := if dp ≤ d then dp - 1 else d
    let x := queueAt s q
    let p := x.rp + d
    if p < x.wp then
      if presentAt s x p then (none, discard s q item rsDUP) else (some p, writeSlot s x p item)
    else
      let s := foldS (fun s y => setPresent s x y false) (positions x.wp p) s
      (some p, modQueue (writeSlot s x p item) q (fun x => { x with wp := p + 1 }))

/-- RP moves on by one; in placement mode rseq follows (R179). -/
def stepRp (x : Queue) : Queue := { x with rp := x.rp + 1, rseq := if x.place then (x.rseq + 1) % 65536 else x.rseq }

/-- An item stands at RP. -/
def itemAtRp (s : State) (x : Queue) : Bool := decide (x.rp < x.wp) && presentAt s x x.rp

/-- Answer the request of a tile (R111). -/
def answerTile (s : State) (t : Nat) (a : Answer) : State := modTile s t (fun x => { x with answer := some a })

/-- Take the item at RP for tile `t`. -/
def takeFor (s : State) (q t : Nat) : State :=
  let x := queueAt s q
  let s := answerTile s t (.item (slotAt s x x.rp))
  modQueue { s with jq := { s.jq with takes := s.jq.takes + 1 } } q stepRp

/-- Deliver the item at RP of queue `q` to the QTAKE parked first on it (R180). -/
def deliver (s : State) (q : Nat) : State :=
  match s.jq.parked.find? (fun p => p.2 == q) with
  | some p =>
    if itemAtRp s (queueAt s q) then takeFor { s with jq := { s.jq with parked := s.jq.parked.erase p } } q p.1 else s
  | none => s

/-- Flush queue `q` (R186). -/
def flushNow (s : State) (q : Nat) : State :=
  let x := queueAt s q
  let s := discardAll s q x.rp x.wp rsFLUSH
  modQueue s q (fun x => { x with rp := x.wp, sync := false, mstate := .none, fpend := false, bnd := true })

/-- A push to an enabled queue (R174, R175), with the delivery of an item that it made present at RP (R180), the token and the flush that follow it. -/
def jqPush (s : State) (q : Nat) (item : Word) (sq : Nat) : State :=
  let l := levelOf (queueAt s q)
  let s := { s with jq := { s.jq with pushes := s.jq.pushes + 1 } }
  let s := modQueue s q (fun x => { x with bnd := lop item })
  let r := if (queueAt s q).place then pushPlace s q item sq else pushAppend s q item
  let s := checkMark r.2 q
  let s := if r.1 = some (queueAt s q).rp then deliver s q else s
  let x := queueAt s q
  let s := if r.1.isSome && x.bind && (!x.perPkt || lop item) then toTrv s (.tokens 96 x.entry x.port 1) else s
  let s := if x.fpend && lop item then flushNow s q else s
  evalAbove s q l

/-! ### Tile operations (R179, R180) -/

/-- Perform a tile's operation on queue `q`. -/
def jqOp (s : State) (t : Nat) (op : JqOp) (q : Nat) : State :=
  let x := queueAt s q
  let l := levelOf x
  match op with
  | .take => if itemAtRp s x then evalAbove (takeFor s q t) q l else { s with jq := { s.jq with parked := s.jq.parked ++ [(t, q)] } }
  | .peek => if itemAtRp s x then answerTile s t (.peek true (slotAt s x x.rp)) else answerTile s t (.peek false 0)
  | .skip =>
    if x.rp = x.wp then answerTile s t (.code 2)
    else if presentAt s x x.rp then answerTile s t (.code 1)
    else evalAbove (answerTile (modQueue s q stepRp) t (.code 0)) q l
  | .mark => evalAbove (answerTile (setQueue s q { x with mark := x.rp, mstate := .valid }) t .ack) q l
  | .rewind =>
    match x.mstate with
    | .none => answerTile s t (.code 2)
    | .lost => answerTile s t (.code 1)
    | .valid =>
      let n := ((positions x.mark x.rp).filter (presentAt s x)).length
      let back := (x.rp - x.mark) % 65536
      let s := { s with jq := { s.jq with rewound := s.jq.rewound + BitVec.ofNat 32 n } }
      let s := setQueue s q { x with rp := x.mark, rseq := if x.place then (x.rseq + 65536 - back) % 65536 else x.rseq }
      evalAbove (answerTile s t (.code 0)) q l

/-- A request is served; one that names a queue that is not enabled, or with Sa[31:16] not 0, changes nothing and faults (R126). -/
def serveReq (s : State) (r : JqReq) : State :=
  if 65536 ≤ r.sa || !(queueAt s (r.sa % 65536)).en then answerTile s r.tile .queueFault else jqOp s r.tile r.op r.sa

/-- The queue of the first parked QTAKE whose item is present. -/
def dueParked (s : State) : Option Nat := (s.jq.parked.find? (fun p => itemAtRp s (queueAt s p.2))).map (·.2)

/-- Deliver to the first parked QTAKE whose item is present. -/
def deliverDue (s : State) : State :=
  match dueParked s with
  | some q => let l := levelOf (queueAt s q)
    evalAbove (deliver s q) q l
  | none => s

/-- Make every delivery that is due, at most `n`. -/
def deliverAllDue : Nat → State → State
  | 0, s => s
  | n + 1, s => if (dueParked s).isSome then deliverAllDue n (deliverDue s) else s

/-- QUEUE_REQUEST (R179, R180): the request that reached the engine first, after the deliveries that are due. -/
def execQueueRequest (s : State) : Host.Outcome State Fault Refusal :=
  live s (if frozen s then s
    else match s.jq.reqs with
      | r :: rs =>
        let s := deliverAllDue s.jq.parked.length s
        serveReq { s with jq := { s.jq with reqs := rs } } r
      | [] => s)

/-- PARKED_DELIVERY (R180). -/
def execParkedDelivery (s : State) : Host.Outcome State Fault Refusal := live s (if frozen s then s else deliverDue s)

/-! ### Commands (R186, R188, R189) -/

def jqBUSY : Nat := 1
def jqSTATE : Nat := 2
def jqALIGN : Nat := 3
def jqOVERLAP : Nat := 4
def jqCONFIG : Nat := 5
def jqOP : Nat := 6

/-- A command ends: done, or an error with a code. -/
def jqEnd (s : State) (code : Nat) : State :=
  let st := Reg.JQ_CMD_STAT
  let s := wrf s st 2 0 code
  if code = 0 then orr (wrb s st 30 true) Reg.JQ_INT_STAT 1 else orr (wrb s st 29 true) Reg.JQ_INT_STAT 2

/-- A write that found busy (R188): err with code BUSY, and no interrupt. -/
def jqBusy (s : State) : State := wrb (wrf s Reg.JQ_CMD_STAT 2 0 jqBUSY) Reg.JQ_CMD_STAT 29 true

/-- The slots of two queues meet. -/
def overlap (x y : Queue) : Bool := decide (x.base < y.base + depthOf y ∧ y.base < x.base + depthOf x)

/-- The checks of ENABLE (R189). -/
def enableCheck (s : State) (q : Nat) : Nat :=
  let x := queueAt s q
  if x.en then jqSTATE
  else if 5 < x.dcode ∨ x.disc = 3 ∨ depthOf x < x.hi ∨ (x.hi ≠ 0 ∧ x.hi ≤ x.lo) then jqCONFIG
  else if x.base % depthOf x ≠ 0 then jqALIGN
  else if s.jq.queues.any (fun e => e.2.en && overlap x e.2) then jqOVERLAP
  else 0

/-- ENABLE's effect (Table 6.4). -/
def jqEnable (s : State) (q : Nat) : State :=
  let x := queueAt s q
  let s := foldS (fun s p => setPresent s x p false) (positions 0 (depthOf x)) s
  qfcPins (setQueue s q { x with
    en := true, lost := 0, markLost := 0, late := 0, dup := 0, rseq := 0, mstate := .none, sync := false, fpend := false,
    member := groupOf x, above := false, bnd := true, mark := 0, wp := 0, rp := 0 })

/-- DISABLE's effect (Table 6.4). -/
def jqDisable (s : State) (q : Nat) : State :=
  let x := queueAt s q
  let s := discardAll s q x.rp x.wp rsDISABLE
  let s := foldS (fun s p => if p.2 = q then answerTile s p.1 .queueFault else s) s.jq.parked s
  let s := { s with jq := { s.jq with parked := s.jq.parked.filter (fun p => p.2 != q) } }
  let s := setAbove s q false
  qfcPins (modQueue s q (fun x => { x with en := false, member := none, mstate := .none }))

/-- FLUSH (R186). -/
def jqFlush (s : State) (q : Nat) : State :=
  let x := queueAt s q
  if x.fpend then s
  else if x.bnd then evalAbove (flushNow s q) q (levelOf x)
  else evalAbove (setQueue s q { x with fpend := true }) q (levelOf x)

/-- The command of an op (Table 6.4). -/
def jqCmd (s : State) (op q : Nat) : State :=
  let x := queueAt s q
  let en (f : State) : State := if x.en then jqEnd f 0 else jqEnd s jqSTATE
  match op with
  | 1 => if enableCheck s q = 0 then jqEnd (jqEnable s q) 0 else jqEnd s (enableCheck s q)
  | 2 => en (jqDisable s q)
  | 3 => en (jqFlush s q)
  | 4 => en (evalAbove (flushNow s q) q (levelOf x))
  | 5 =>
    let p : JqPush := ⟨q, rd s Reg.JQ_CMD_ARG0, rdf s Reg.JQ_CMD_ARG1 15 0, none⟩
    if dispBusy s then wrb { s with jq := { s.jq with heldPush := some p } } Reg.JQ_CMD_STAT 31 true
    else en (jqPush s q p.item p.seq)
  | 6 =>
    if x.en ∧ x.place ∧ levelOf x = 0 then
      jqEnd (evalAbove (setQueue s q { syncTo x (rdf s Reg.JQ_CMD_ARG0 15 0) with mstate := .none }) q 0) 0
    else jqEnd s jqSTATE
  | 7 => en (evalAbove (setQueue s q { x with lost := 0, markLost := 0, late := 0, dup := 0 }) q (levelOf x))
  | _ => jqEnd s jqOP

/-- A write of JQ_CMD (R188); none is accepted in M10 (R191). -/
def jqCmdWrite (s : State) (v : Word) : State :=
  if frozen s then s
  else if s.jq.heldPush.isSome then jqBusy s
  else jqCmd s (fld v 27 24) (fld v 15 0)

/-- A PUSH command that was held goes on when the disposal buffer has drained (R178). -/
def releasePush (s : State) : State :=
  match s.jq.heldPush with
  | some p =>
    if dispBusy s then s
    else
      let s := wrb { s with jq := { s.jq with heldPush := none } } Reg.JQ_CMD_STAT 31 false
      if (queueAt s p.queue).en then jqEnd (jqPush s p.queue p.item p.seq) 0 else jqEnd s jqSTATE
  | none => s

/-- A row that writes JQ_CMD. -/
def jqCmdRow (s : State) (who : Who) (op : Nat) (queue : BitVec 16) : State :=
  swWrite s who Reg.JQ_CMD (fun s => jqCmdWrite s (BitVec.ofNat 32 (2 ^ 24 * op + queue.toNat)))

/-- ENABLE (R189). -/
def execEnable (who : Who) (queue : BitVec 16) (s : State) : Host.Outcome State Fault Refusal := live s (jqCmdRow s who 1 queue)
/-- DISABLE (R176). -/
def execDisable (who : Who) (queue : BitVec 16) (s : State) : Host.Outcome State Fault Refusal := live s (jqCmdRow s who 2 queue)
/-- FLUSH (R186). -/
def execFlush (who : Who) (queue : BitVec 16) (s : State) : Host.Outcome State Fault Refusal := live s (jqCmdRow s who 3 queue)
/-- FLUSH_NOW (R186). -/
def execFlushNow (who : Who) (queue : BitVec 16) (s : State) : Host.Outcome State Fault Refusal := live s (jqCmdRow s who 4 queue)
/-- PUSH (R174). -/
def execPush (who : Who) (queue : BitVec 16) (s : State) : Host.Outcome State Fault Refusal := live s (jqCmdRow s who 5 queue)
/-- SYNC (R188). -/
def execSync (who : Who) (queue : BitVec 16) (s : State) : Host.Outcome State Fault Refusal := live s (jqCmdRow s who 6 queue)
/-- CLRCNT (R188). -/
def execClrcnt (who : Who) (queue : BitVec 16) (s : State) : Host.Outcome State Fault Refusal := live s (jqCmdRow s who 7 queue)

/-- JQ_RESERVED_OP (R188): op 0 or 8 to 15. -/
def execJqReservedOp (who : Who) (op : Fin 9) (queue : BitVec 16) (s : State) : Host.Outcome State Fault Refusal :=
  live s (jqCmdRow s who (if op.val = 0 then 0 else 7 + op.val) queue)

/-! ### Events, audit, records (R184, R190, R193) -/

/-- A read of JQ_EV_POP removes the oldest event. -/
def eventPop (s : State) : State × Word :=
  match s.jq.events with
  | (q, b) :: es => ({ s with jq := { s.jq with events := es } }, BitVec.ofNat 32 (2 ^ 31 + 2 ^ 30 * b.toNat + q))
  | [] => (s, 0)

/-- EVENT_POP (R184). -/
def execEventPop (who : Who) (s : State) : Host.Outcome State Fault Refusal := live s (swRead s who Reg.JQ_EV_POP eventPop)

/-- Sum over the enabled queues. -/
def queueSum (s : State) (f : Queue → Nat) : Nat := s.jq.queues.foldl (fun n e => if e.2.en then n + f e.2 else n) 0

/-- Latch the audit sums (R190). -/
def jqSnap (s : State) : State :=
  let al := queueSum s depthOf
  let s1 := wr (wr s Reg.JQ_AUD_PUSH s.jq.pushes) Reg.JQ_AUD_TAKE s.jq.takes
  let s2 := wr (wr s1 Reg.JQ_AUD_REWOUND s.jq.rewound) Reg.JQ_AUD_DISC s.jq.discs
  let s3 := wr s2 Reg.JQ_AUD_HELD (BitVec.ofNat 32 (queueSum s (heldOf s)))
  wr (wr s3 Reg.JQ_AUD_ALLOC (BitVec.ofNat 32 al)) Reg.JQ_AUD_UNALLOC (BitVec.ofNat 32 (1048576 - al))

/-- JQ_AUDIT_SNAPSHOT (R190). -/
def execJqAuditSnapshot (who : Who) (s : State) : Host.Outcome State Fault Refusal := live s (swWrite s who Reg.JQ_AUD_SNAP jqSnap)

/-- The code of a mark state (Table 6.9). -/
def MarkState.code : MarkState → Nat
  | .none => 0
  | .valid => 1
  | .lost => 2

/-- Word `k` of the record of queue `q` (Table 6.9). -/
def recordWord (s : State) (q k : Nat) : Word :=
  let x := queueAt s q
  let m := 2 * depthOf x
  BitVec.ofNat 32 (match k with
    | 0 => 2 ^ 31 * x.en.toNat + 2 ^ 30 * x.place.toNat + 2 ^ 27 * x.dcode + 2 ^ 25 * x.disc + x.base
    | 1 => 2 ^ 23 * x.hi + 2 ^ 14 * x.lo + 2 ^ 13 * x.wmEv.toNat + 2 ^ 12 * x.qfcEn.toNat + x.qfcGrp * 2 ^ 9
    | 2 => 2 ^ 31 * x.bind.toNat + 2 ^ 30 * x.perPkt.toNat + 2 ^ 15 * x.port + x.entry
    | 3 => 2 ^ 16 * x.lost.toNat + x.markLost.toNat * 2 ^ 8
    | 4 => 2 ^ 16 * (if x.place then x.rseq else 0) + 2 ^ 14 * x.mstate.code + 2 ^ 13 * x.sync.toNat + 2 ^ 12 * x.fpend.toNat +
        2 ^ 11 * x.above.toNat + 2 ^ 10 * x.bnd.toNat + x.mark % m
    | 5 => 2 ^ 16 * (x.wp % m) + x.rp % m
    | 6 => 2 ^ 16 * x.late.toNat + x.dup.toNat
    | _ => 2 ^ 16 * (if x.en then heldOf s x else 0) + levelOf x)

/-- The latch of the record window: the queue it was taken from and W1 to W7. -/
def recordLatch : Nat := 0x1081200000

/-- A read of word `k` of the record of queue `q` (R193). -/
def recordRead (s : State) (q k : Nat) : State × Word :=
  if k = 0 then
    ({ s with latches := SMap.put (0, []) s.latches recordLatch (q, [1, 2, 3, 4, 5, 6, 7].map (recordWord s q)) }, recordWord s q 0)
  else
    let l := SMap.get (0, []) s.latches recordLatch
    (s, if l.1 = q ∧ l.2 ≠ [] then l.2.getD (k - 1) 0 else recordWord s q k)

/-- QUEUE_RECORD_READ (R193): a read of W0. -/
def execQueueRecordRead (who : Who) (queue : BitVec 16) (s : State) : Host.Outcome State Fault Refusal :=
  live s (swRead s who (Reg.JQ_QREC_W0 queue.toNat) (fun s => recordRead s queue.toNat 0))

/-- A write of `v` to word `k` of the record of queue `q` (R193); in M10 no record changes (R191). -/
def recordWrite (s : State) (who : Who) (q k : Nat) (v : Word) : State :=
  let x := queueAt s q
  if frozen s then s
  else match k with
  | 0 =>
    if x.en then s
    else setQueue s q { x with place := v.getLsbD 30, dcode := fld v 29 27, disc := fld v 26 25, base := fld v 19 0 }
  | 1 =>
    let hi := fld v 31 23
    let lo := fld v 22 14
    if x.en && hi != 0 && !(decide (lo < hi ∧ hi ≤ depthOf x)) then refuseAccess s srcJq who (Reg.JQ_QREC_W1 q) true false
    else
      let x := { x with hi := hi, lo := lo, wmEv := v.getLsbD 13, qfcEn := v.getLsbD 12, qfcGrp := fld v 11 9 }
      qfcPins (setQueue s q { x with member := if x.member = groupOf x then x.member else none })
  | 2 => setQueue s q { x with bind := v.getLsbD 31, perPkt := v.getLsbD 30, port := fld v 17 15, entry := fld v 14 0 }
  | _ => s

/-- What a read of the JQ page register at `a` returns. -/
def jqPageRead (s : State) (a : Nat) : Word :=
  let o := a % 4096
  if 0xA0 ≤ o ∧ o < 0xC0 then BitVec.ofNat 32 (qfcCount s ((o - 0xA0) / 4))
  else match o with
    | 0x000 => BitVec.ofNat 32 ((frozen s).toNat * 4 + s.jq.heldPush.isSome.toNat * 2 + (dispBusy s).toNat)
    | 0x004 => BitVec.ofNat 32 (queueSum s (fun _ => 1))
    | _ => rd s a

/-- The discard ring lies in the general region (Table 6.8). -/
def dringOk (base k : Nat) : Bool := decide (0x6C0000 ≤ base ∧ base + 8 * 2 ^ k ≤ 0x800000)

/-- A write of JQ_DRING_CFG (Table 6.8). -/
def dringCfgWrite (s : State) (who : Who) (v : Word) : State :=
  let a := Reg.JQ_DRING_CFG
  let k := if rdb s a 8 then rdf s a 3 0 else max 6 (min 14 (fld v 3 0))
  if v.getLsbD 8 && !dringOk (rdf s Reg.JQ_DRING_BASE 22 3 * 8) k then refuseAccess s srcJq who a true false
  else wr s a (BitVec.ofNat 32 ((v.getLsbD 8).toNat * 256 + k))

/-- A write of `v` to the JQ page register at `a`. -/
def jqPageWrite (s : State) (who : Who) (a : Nat) (v : Word) : State :=
  match a % 4096 with
  | 0x010 => jqCmdWrite s v
  | 0x064 => dringCfgWrite s who v
  | 0x080 => qfcPins (plainWrite s a v)
  | 0x0C0 => if v.getLsbD 0 then jqSnap s else s
  | _ => plainWrite s a v

end Sys2Proof.Machine
end

