-- ==== Sys2Proof/Machine/Sre.lean ====
section
/-! DEFINITION. The sample-rate engines (file 07): sample formats, the signal chain, drift measurement, jobs, coefficient banks. -/

namespace Sys2Proof.Machine

/-! ### Bytes of a job (Tables 7.2 to 7.5) -/

/-- Word `i` of a list of little-endian 32-bit words. -/
def wd (bs : List Byte) (i : Nat) : Nat := le bs (4 * i) 4

/-- Bits `[hi:lo]` of word `i`. -/
def wdf (bs : List Byte) (i hi lo : Nat) : Nat := slice (wd bs i) hi lo

/-- A 48-bit address whose low word is word `i` and whose high half is bits [15:0] of word `i + 1`. -/
def wdAddr (bs : List Byte) (i : Nat) : Nat := wd bs i + 2 ^ 32 * wdf bs (i + 1) 15 0

/-- Bytes of little-endian 32-bit words. -/
def wordBytes (ws : List Nat) : List Byte := (ws.map (leBytes 4)).flatten

/-- `[a, a+n)` lies wholly within installed DRAM or the shared SRAM general region; an empty range lies anywhere. -/
def inMem (s : State) (a n : Nat) : Bool := n == 0 || inDram s a n || inGeneral a n

/-! ### Samples (R197, Table 7.1) -/

/-- Saturate to `n` bits; true when it did. -/
def satTo (n : Nat) (x : Int) : Int × Bool :=
  let y := clampInt (-(2 ^ (n - 1) : Nat)) ((2 ^ (n - 1) : Nat) - 1) x
  (y, y != x)

/-- Bytes of a buffer of `n` samples. -/
def sreBufLen (fmt n : Nat) : Nat := if fmt = 0 then (n + 15) / 16 * 32 else 2 * n

/-- Alignment of a buffer. -/
def sreAlign (fmt : Nat) : Nat := if fmt = 0 then 32 else 2

/-- Sample `k` of an input buffer, converted. -/
def sreIn (fmt rnd : Nat) (bs : List Byte) (k : Nat) : Int × Bool :=
  if fmt = 0 then
    let o := k / 16 * 32
    satTo 24 (rndShift rnd (sext 10 (le bs o 20 >>> (10 * (k % 16)))) 1 (sext 6 (le bs (o + 20) 1) + 14))
  else (256 * sext 16 (le bs (2 * k) 2), false)

/-- A tile word in its WORD32 image (Table 2.8). -/
def imageBytes (w : BitVec 167) : List Byte :=
  leBytes 20 (dataOf w) ++ [BitVec.ofNat 8 (trunc 6 (expOf w) + 64 * tagOf w)] ++ List.replicate 11 0#8

/-- One output word of 16 samples and the saturations of its narrowing. -/
def sreOutWord (rnd : Nat) (xs : List Int) : List Byte × Nat :=
  let ys := exactInts (xs ++ List.replicate (16 - xs.length) 0)
  let e := normExp rnd 10 ys (-23)
  let r := narrowFixed rnd 10 ys (-23) e
  (imageBytes (mkWord (packLanes (r.map (·.1))) e 0), (r.filter (·.2)).length)

/-- Output words of the samples, 16 at a time; the fuel is at least the number of words. -/
def sreOutWords (rnd : Nat) : Nat → List Int → List Byte × Nat
  | 0, _ => ([], 0)
  | n + 1, xs =>
    if xs = [] then ([], 0)
    else
      let w := sreOutWord rnd (xs.take 16)
      let r := sreOutWords rnd n (xs.drop 16)
      (w.1 ++ r.1, w.2 + r.2)

/-- The output buffer of the samples, and the saturations of its conversion. -/
def sreOut (fmt rnd : Nat) (xs : List Int) : List Byte × Nat :=
  if fmt = 0 then sreOutWords rnd xs.length xs
  else
    let ls := xs.map (fun x => satTo 16 (rndShift rnd x 1 (-8)))
    ((ls.map (fun l => leBytes 2 (trunc 16 l.1))).flatten, (ls.filter (·.2)).length)

/-! ### Coefficients (R199, R216) -/

/-- Coefficient at phase `f`, tap `j` of bank `b`. -/
def coefAt (m : SMap (BitVec 21)) (b f j : Nat) : Int := sext 20 (SMap.get 0 m (2048 * b + 32 * f + j)).toNat

/-- The coefficient's parity is bad. -/
def coefBad (m : SMap (BitVec 21)) (b f j : Nat) : Bool := parity 21 (SMap.get 0 m (2048 * b + 32 * f + j)).toNat

/-- The exact sum of `t` taps of bank `b` at phase `f` over samples `x 0`, `x 1`, … -/
def taps (m : SMap (BitVec 21)) (b f t : Nat) (x : Nat → Int) : Int :=
  ((List.range t).map (fun j => coefAt m b f j * x j)).sum

/-- One of those taps has bad parity. -/
def tapsBad (m : SMap (BitVec 21)) (b f t : Nat) : Bool := (List.range t).any (coefBad m b f)

/-! ### The signal chain (R198 to R203) -/

/-- What a run of the chain keeps: the state of its stages, the samples that have entered INT, the saturations so far, whether a coefficient with bad parity was read, the output samples, newest first, the places left, and the samples that entered CIC, FIRA and FIRB. -/
structure SreRun where
  cicI : List Int
  cicZ : List Int
  cicPh : Nat
  fa : List Int
  phA : Nat
  fb : List Int
  phB : Nat
  fi : List Int
  seen : Nat
  lead : Int
  frac : Nat
  sat : Nat
  bad : Bool
  outs : List Int
  room : Nat
  inC : Nat
  inA : Nat
  inB : Nat
  deriving DecidableEq, Repr

/-- What a run of the chain is given: the header, the step, the coefficients, and the job, descriptor and input it comes from, on which alone samples older than the history depend (R195). -/
structure SreCfg where
  hdr : List Byte
  step : Nat
  coef : SMap (BitVec 21)
  origin : List Byte
  deriving DecidableEq, Repr

def SreCfg.enCic (c : SreCfg) : Bool := (wd c.hdr 0).testBit 23
def SreCfg.enA (c : SreCfg) : Bool := (wd c.hdr 0).testBit 22
def SreCfg.enB (c : SreCfg) : Bool := (wd c.hdr 0).testBit 21
def SreCfg.enInt (c : SreCfg) : Bool := (wd c.hdr 0).testBit 20
def SreCfg.blend (c : SreCfg) : Bool := (wd c.hdr 0).testBit 19
def SreCfg.rnd (c : SreCfg) : Nat := wdf c.hdr 0 17 16
def SreCfg.tInt (c : SreCfg) : Nat := wdf c.hdr 4 11 7 + 1
def SreCfg.bInt (c : SreCfg) : Nat := wdf c.hdr 4 15 12

/-- Saturate a stage's result to 24 bits, counting. -/
def emit24 (r : SreRun) (y : Int) : SreRun × Int :=
  let z := satTo 24 y
  ({ r with sat := r.sat + z.2.toNat }, z.1)

/-- The integrators of the CIC stage. -/
def integrate : Nat → List Int → Int → List Int
  | n + 1, i :: is, x => wrap56 (i + x) :: integrate n is (wrap56 (i + x))
  | _, is, _ => is

/-- The combs of the CIC stage: the new delays and the result. -/
def comb : Nat → List Int → Int → List Int × Int
  | n + 1, z :: zs, c => let r := comb n zs (wrap56 (c - z)); (c :: r.1, r.2)
  | _, zs, c => (zs, c)

/-- One sample into the CIC stage (R200). -/
def cicIn (c : SreCfg) (r : SreRun) (x : Int) : SreRun × Option Int :=
  let n := wdf c.hdr 1 26 24
  let r := { r with inC := r.inC + 1, cicI := integrate n r.cicI x, cicPh := r.cicPh + 1 }
  if r.cicPh = wdf c.hdr 1 23 16 + 1 then
    let k := comb n r.cicZ (r.cicI.getD (n - 1) 0)
    let e := emit24 { r with cicPh := 0, cicZ := k.1 } (rndShift c.rnd k.2 1 (-(wdf c.hdr 1 13 8 : Int)))
    (e.1, some e.2)
  else (r, none)

/-- One sample into a FIR stage described by header word `i` (R202): its new history and phase, and its output before saturation. -/
def firIn (c : SreCfg) (i : Nat) (hist : List Int) (ph : Nat) (x : Int) : List Int × Nat × Option Int × Bool :=
  let h := (x :: hist).take 32
  let b := wdf c.hdr i 15 12
  let t := wdf c.hdr i 11 7 + 1
  let dec2 := (wd c.hdr i).testBit 6
  let y := rndShift c.rnd (taps c.coef b 0 t (fun j => h.getD j 0)) 1 (-18)
  let ph := if dec2 then 1 - ph else ph
  (h, ph, if !dec2 || ph == 0 then some y else none, tapsBad c.coef b 0 t)

/-- One sample into FIRA. -/
def firaIn (c : SreCfg) (r : SreRun) (x : Int) : SreRun × Option Int :=
  let f := firIn c 2 r.fa r.phA x
  let r := { r with inA := r.inA + 1, fa := f.1, phA := f.2.1, bad := r.bad || f.2.2.2 }
  match f.2.2.1 with
  | some y => let e := emit24 r y; (e.1, some e.2)
  | none => (r, none)

/-- One sample into FIRB. -/
def firbIn (c : SreCfg) (r : SreRun) (x : Int) : SreRun × Option Int :=
  let f := firIn c 3 r.fb r.phB x
  let r := { r with inB := r.inB + 1, fb := f.1, phB := f.2.1, bad := r.bad || f.2.2.2 }
  match f.2.2.1 with
  | some y => let e := emit24 r y; (e.1, some e.2)
  | none => (r, none)

/-- Sample of the INT history `k` places before the newest; one older than the 32 slots is a free value. -/
def intHist (c : SreCfg) (r : SreRun) (k : Nat) : Int :=
  if k < 32 then r.fi.getD k 0 else sint (Config.sreOldSample c.origin c.coef (r.seen - k))

/-- One output of the INT stage at its position (R203). -/
def intOut (c : SreCfg) (r : SreRun) : SreRun :=
  let phi := slice r.frac 23 18
  let back := (-r.lead).toNat
  let t := c.tInt
  let a0 := taps c.coef c.bInt phi t (fun j => intHist c r (back + j))
  let bad0 := tapsBad c.coef c.bInt phi t
  let beta : Int := slice r.frac 17 0
  let nphi := if phi < 63 then phi + 1 else 0
  let nback := if phi < 63 then back else back - 1
  let a1 := taps c.coef c.bInt nphi t (fun j => intHist c r (nback + j))
  let y := if c.blend then rndShift c.rnd (a0 * ((2 ^ 18 : Nat) - beta) + a1 * beta) 1 (-36) else rndShift c.rnd a0 1 (-18)
  let bad := r.bad || bad0 || (c.blend && tapsBad c.coef c.bInt nphi t)
  let e := emit24 { r with bad := bad } y
  let p := r.frac + c.step
  { e.1 with outs := e.2 :: r.outs, room := r.room - 1, frac := p % 2 ^ 24, lead := r.lead + (p / 2 ^ 24 : Nat) }

/-- An output is due. -/
def intDue (c : SreCfg) (r : SreRun) : Bool := decide (r.lead + c.blend.toNat ≤ 0)

/-- Emit the outputs that are due while a place remains; the fuel is at least the places. -/
def intDrain (c : SreCfg) : Nat → SreRun → SreRun
  | 0, r => r
  | n + 1, r => if intDue c r && decide (0 < r.room) then intDrain c n (intOut c r) else r

/-- A sample reaches the end of the chain: through INT when enabled, else to the output; true when an output could not be written. -/
def chainEnd (c : SreCfg) (r : SreRun) (x : Int) : SreRun × Bool :=
  if c.enInt then
    let r := intDrain c r.room { r with fi := (x :: r.fi).take 32, seen := r.seen + 1, lead := r.lead - 1 }
    (r, intDue c r)
  else if r.room = 0 then (r, true)
  else ({ r with outs := x :: r.outs, room := r.room - 1 }, false)

/-- One input sample through the chain (R198). -/
def chainIn (c : SreCfg) (r : SreRun) (x : Int × Bool) : SreRun × Bool :=
  let r := { r with sat := r.sat + x.2.toNat }
  let p := if c.enCic then cicIn c r x.1 else (r, some x.1)
  let q := match p.2 with
    | some y => if c.enA then firaIn c p.1 y else p
    | none => p
  let w := match q.2 with
    | some y => if c.enB then firbIn c q.1 y else q
    | none => q
  match w.2 with
  | some y => chainEnd c w.1 y
  | none => (w.1, false)

/-- Run the chain on the input; answers the final run, the inputs used and whether it stopped at a full output (R213). On such a stop the stages hold their state after exactly the inputs used. -/
def chainRun (c : SreCfg) : List (Int × Bool) → SreRun → Nat → SreRun × Nat × Bool
  | [], r, u => (r, u, false)
  | x :: xs, r, u =>
    let q := chainIn c r x
    if q.2 then
      ({ r with sat := q.1.sat, bad := q.1.bad, outs := q.1.outs, room := q.1.room, inC := q.1.inC, inA := q.1.inA, inB := q.1.inB }, u, true)
    else chainRun c xs q.1 (u + 1)

/-! ### Drift measurement (R207, R208, Table 7.4) -/

/-- The drift section. -/
structure Drift where
  yf : Int
  tsA : Nat
  tA : Nat
  primed : Bool
  haveMin : Bool
  haveA : Bool
  tsM : Nat
  tM : Nat
  n : Nat
  tF : Nat
  dm : Int
  yLast : Int
  skip : Nat
  clip : Nat
  deriving DecidableEq, Repr

def Drift.zero : Drift := ⟨0, 0, 0, false, false, false, 0, 0, 0, 0, 0, 0, 0, 0⟩

/-- Read a drift section. -/
def driftOf (b : List Byte) : Drift :=
  { yf := sext 32 (wd b 0), tsA := wd b 1, tA := wd b 2 + 2 ^ 32 * wdf b 3 15 0, primed := (wd b 3).testBit 18,
    haveMin := (wd b 3).testBit 17, haveA := (wd b 3).testBit 16, tsM := wd b 4, tM := wd b 5 + 2 ^ 32 * wdf b 6 15 0,
    n := wdf b 6 31 16, tF := wd b 7 + 2 ^ 32 * wdf b 8 15 0, dm := sext 64 (le b 36 8), yLast := sext 32 (wd b 11),
    skip := wdf b 12 31 16, clip := wdf b 12 15 0 }

/-- The bytes of a drift section. -/
def driftBytes (d : Drift) : List Byte :=
  wordBytes [trunc 32 d.yf, d.tsA, d.tA % 2 ^ 32,
    d.tA / 2 ^ 32 + 2 ^ 16 * d.haveA.toNat + 2 ^ 17 * d.haveMin.toNat + 2 ^ 18 * d.primed.toNat,
    d.tsM, d.tM % 2 ^ 32, d.tM / 2 ^ 32 + 2 ^ 16 * d.n, d.tF % 2 ^ 32, d.tF / 2 ^ 32, trunc 32 d.dm,
    trunc 64 d.dm / 2 ^ 32, trunc 32 d.yLast, d.clip + 2 ^ 16 * d.skip, 0, 0, 0]

/-- rne of a rational. -/
def rne (num : Int) (den : Nat) : Int := rndQ 0 num den

/-- (a − b) mod 2^48. -/
def sub48 (a b : Nat) : Nat := (a + 2 ^ 48 - b % 2 ^ 48) % 2 ^ 48

/-- The end of a window: slope, filter, limit and step; answers the new section, step, and clips. -/
def driftWindow (hdr : List Byte) (step0 step : Nat) (d : Drift) (t : Nat) : Drift × Nat × Nat :=
  let dtm := sub48 d.tM d.tA
  let fin (d : Drift) : Drift := { d with tsA := d.tsM, tA := d.tM, haveMin := false, n := 0 }
  if !d.primed then (fin { d with primed := true }, step, 0)
  else if dtm = 0 ∨ 2 * dtm < sub48 t d.tF then (fin { d with skip := (d.skip + 1) % 65536 }, step, 0)
  else
    let y := rne (d.dm * (2 ^ 40 : Nat)) (wd hdr 9 * dtm)
    let yf := d.yf + rne (y - d.yf) (2 ^ wdf hdr 10 19 16)
    let lim : Int := 2 ^ 14 * wdf hdr 10 15 0
    let z := clampInt (-lim) lim yf
    let k := if z = yf then 0 else 1
    let st := clampInt 1 (2 ^ 32 - 1) (rne (step0 * ((2 ^ 40 : Nat) + z)) (2 ^ 40))
    (fin { d with yf := z, yLast := (satTo 32 y).1, clip := (d.clip + k) % 65536 }, st.toNat, k)

/-- One measurement (R207). -/
def driftMeasure (hdr : List Byte) (step0 step : Nat) (d : Drift) (ts t : Nat) : Drift × Nat × Nat :=
  let dt := sub48 t d.tA
  if !d.haveA ∨ 2 ^ 40 ≤ dt then
    ({ d with tsA := ts, tA := t, haveA := true, haveMin := false, n := 0, primed := false }, step, 0)
  else
    let x : Int := sext 32 (ts + 2 ^ 32 - d.tsA) * 1250000000 - (dt * wd hdr 9 : Nat)
    let d := if d.n = 0 then { d with tF := t } else d
    let d := if !d.haveMin ∨ x < d.dm then { d with dm := x, tsM := ts, tM := t, haveMin := true } else d
    let d := { d with n := (d.n + 1) % 65536 }
    if d.n < 2 ^ wdf hdr 10 27 24 then (d, step, 0) else driftWindow hdr step0 step d t

/-! ### The checks of a job (R212, Table 7.6) -/

def sreJOB : Nat := 2
def sreDESC : Nat := 3
def sreADDR : Nat := 4
def sreMEM : Nat := 5
def sreCOEF : Nat := 6

/-- JOB. -/
def sreJobBad (j : List Byte) : Bool :=
  wdf j 1 31 16 != 0 || wdf j 6 31 4 != 0 || wdf j 10 31 16 != 0 || wd j 11 != 0 || wd j 12 != 0 || wd j 13 != 0 ||
  wdf j 14 27 16 != 0 || ((wd j 6).testBit 1 && wd j 7 == 0)

/-- Smallest `n` with `f ≤ 2^n`, for `f` up to 256. -/
def ceilLog2 (f : Nat) : Nat := ((List.range 9).find? (fun n => decide (f ≤ 2 ^ n))).getD 8

/-- DESC: Table 7.3's ranges and zeros. -/
def sreDescBad (h : List Byte) : Bool :=
  let n := wdf h 1 26 24
  let f := wdf h 1 23 16 + 1
  wdf h 0 31 24 != 1 || wdf h 0 11 0 != 0 || 1 < wdf h 0 15 14 || 1 < wdf h 0 13 12 ||
  wdf h 1 31 27 != 0 || wdf h 1 15 14 != 0 || n == 0 || 4 < n || f < 2 || 32 < wdf h 1 13 8 || f ≤ wdf h 1 7 0 ||
  32 < n * ceilLog2 f ||
  wdf h 2 31 16 != 0 || wdf h 2 4 0 != 0 || wdf h 3 31 16 != 0 || wdf h 3 4 0 != 0 || wdf h 4 31 16 != 0 || wdf h 4 6 0 != 0 ||
  ((wd h 0).testBit 19 && wdf h 4 11 7 == 31) || ((wd h 0).testBit 20 && wd h 6 == 0) ||
  wdf h 7 31 24 != 0 || wdf h 8 31 16 != 0 || wd h 9 < 1000 || 192000 < wd h 9 ||
  wdf h 10 31 28 != 0 || wdf h 10 23 20 != 0 || wdf h 10 27 24 < 4 || 10 < wdf h 10 27 24 || 8 < wdf h 10 19 16 ||
  wd h 11 != 0 || wd h 12 != 0 || wd h 13 != 0 || wd h 14 != 0 || wd h 15 != 0

/-- DESC: Table 7.4's zeros. -/
def sreDriftBad (d : List Byte) : Bool :=
  wdf d 3 31 19 != 0 || wdf d 8 31 16 != 0 || wd d 13 != 0 || wd d 14 != 0 || wd d 15 != 0

/-- The places of the descriptor and of the buffers. -/
def srePlaced (s : State) (j h : List Byte) : Bool :=
  let fi := wdf h 0 15 14
  let fo := wdf h 0 13 12
  wdAddr j 0 % 64 == 0 &&
  wdAddr j 2 % sreAlign fi == 0 && inMem s (wdAddr j 2) (sreBufLen fi (wdf j 3 31 16)) &&
  wdAddr j 4 % sreAlign fo == 0 && inMem s (wdAddr j 4) (sreBufLen fo (wdf j 5 31 16))

/-- Coefficient banks a header references. -/
def sreBanks (h : List Byte) : List Nat :=
  (if (wd h 0).testBit 22 then [wdf h 2 15 12] else []) ++ (if (wd h 0).testBit 21 then [wdf h 3 15 12] else []) ++
  (if (wd h 0).testBit 20 then [wdf h 4 15 12] else [])

/-- The sections a job reads: (read?, offset, length) of Table 7.2. -/
def sreSections (j h : List Byte) : List (Bool × Nat × Nat) :=
  [((wd h 0).testBit 18 || wdf j 6 2 1 != 0, 0x040, 64), ((wd h 0).testBit 23, 0x080, 64), ((wd h 0).testBit 22, 0x0C0, 128),
   ((wd h 0).testBit 21, 0x140, 128), ((wd h 0).testBit 20, 0x1C0, 128)]

/-- Read the sections, zeros for those not read. -/
def readSections (rq : Requester) (a : Nat) : List (Bool × Nat × Nat) → State → Option (List (List Byte)) × State
  | [], s => (some [], s)
  | (on, o, n) :: t, s =>
    match (if on then memRead s rq (a + o) n else (some (List.replicate n 0#8), s)) with
    | (none, s) => (none, s)
    | (some b, s) =>
      match readSections rq a t s with
      | (some bs, s) => (some (b :: bs), s)
      | (none, s) => (none, s)

/-- An engine as a requester, in the service class of the job's ring (R214). -/
def srePort (s : State) (e : Nat) (r : Fin 16) : Requester := accelPort (1 + e) (rdf s (Reg.SRE_RING_CFG r) 9 8)

/-- The descriptor of job `j` is read, once (R205), and checked: DESC, then ADDR (R212). A descriptor whose header does not lie in memory cannot be read: ADDR. -/
def sreDescribe (s : State) (rq : Requester) (j : List Byte) : SreStage × State :=
  let a := wdAddr j 0
  let fails (code : Nat) : SreStage := .ended code 0 0 0 []
  if !inMem s a 64 then (fails sreADDR, s)
  else match memRead s rq a 64 with
    | (none, s) => (fails sreMEM, s)
    | (some h, s) =>
      if sreDescBad h then (fails sreDESC, s)
      else if !inMem s a 576 then (fails sreADDR, s)
      else match readSections rq a (sreSections j h) s with
        | (none, s) => (fails sreMEM, s)
        | (some sec, s) =>
          if sreDriftBad (sec.getD 0 []) then (fails sreDESC, s)
          else if !srePlaced s j h then (fails sreADDR, s)
          else (.ready h sec, s)

/-! ### Fetch, start, completion (R211, R212, R206) -/

/-- Rings of engine `e`, in the order in which they are considered. -/
def sreRings (s : State) (e : Nat) : List RingRef :=
  let l : Fin 16 := SMap.get 15 s.sre.last e
  ((after 16 l.val).filter (fun r => rdf s (Reg.SRE_RING_CFG r) 5 4 == e)).map (fun r => .sre (Fin.ofNat 16 r))

/-- Engine `e` can fetch. -/
def sreCanFetch (s : State) (e : Nat) : Bool :=
  rdb s Reg.SRE_CTRL e && !gateAsked s (85 + e) && !frozen s &&
  decide ((s.sre.jobs.filter (fun j => j.engine == e)).length < 2)

/-- A job in the list has the stream at address `a`: it is fetched and not yet written back (R206). -/
def sreBlocked (a : Nat) (jobs : List SreJob) : Bool := jobs.any (fun j => wdAddr j.entry 0 == a)

/-- The job's descriptor is read as soon as no earlier job of its stream is left (R206). -/
def sreOpen (s : State) (rq : Requester) (j : List Byte) : SreStage × State :=
  if sreJobBad j then (.ended sreJOB 0 0 0 [], s)
  else if sreBlocked (wdAddr j 0) s.sre.jobs then (.waiting, s)
  else sreDescribe s rq j

/-- The banks a job references, once its descriptor is read. -/
def SreJob.banks (j : SreJob) : List Nat :=
  match j.stage with
  | .ready h _ => sreBanks h
  | _ => []

/-- Engine `e` takes the next job of ring `r`; a job that references a bank being loaded is held back (R215). -/
def sreFetch (s : State) (e : Nat) (r : Fin 16) : State :=
  let i := ringNext s (.sre r)
  let o := ringEntry s (.sre r) i
  let j := sramGet s o 64
  let c := sreOpen s (srePort s e r) j
  let job : SreJob := ⟨e, r, i % ringSize s (.sre r), o, j, c.1⟩
  let heldBack := match s.sre.load with
    | some l => job.banks.contains l.1
    | none => false
  if heldBack then s
  else
    setRingNext { c.2 with sre := { c.2.sre with jobs := c.2.sre.jobs ++ [job], last := SMap.put 15 c.2.sre.last e r } } (.sre r) (i + 1)

/-- SRE_JOB_FETCH (R211, R212). -/
def execSreJobFetch (engine : Fin 4) (s : State) : Host.Outcome State Fault Refusal :=
  live s (if sreCanFetch s engine then
    match bestRing s (sreRings s engine) with
    | some (.sre r) => sreFetch s engine r
    | _ => s
  else s)

/-- `n` signed numbers of `w` bits, each in `k` bytes. -/
def numList (b : List Byte) (k w n : Nat) : List Int := (List.range n).map (fun i => sext w (le b (k * i) k))

/-- Their bytes. -/
def numBytes (k : Nat) (xs : List Int) : List Byte := (xs.map (fun x => leBytes k (trunc (8 * k) x))).flatten

/-- The run's start from the descriptor. -/
def sreInit (h : List Byte) (sec : List (List Byte)) (room : Nat) : SreRun :=
  let g (i : Nat) : List Byte := sec.getD i []
  { cicI := numList (g 1) 8 56 4, cicZ := numList ((g 1).drop 32) 8 56 4, cicPh := wdf h 1 7 0,
    fa := numList (g 2) 4 24 32, phA := wdf h 2 5 5, fb := numList (g 3) 4 24 32, phB := wdf h 3 5 5,
    fi := numList (g 4) 4 24 32, seen := 0, lead := sext 16 (wdf h 8 15 0), frac := wdf h 7 23 0,
    sat := 0, bad := false, outs := [], room := room, inC := 0, inA := 0, inB := 0 }

/-- The header words after the job. -/
def sreHeader (h : List Byte) (step0 step : Nat) (r : SreRun) : List Byte :=
  let set (w hi lo x : Nat) : Nat := (setFld (BitVec.ofNat 32 w) hi lo x).toNat
  wordBytes [wd h 0, set (wd h 1) 7 0 r.cicPh, set (wd h 2) 5 5 r.phA, set (wd h 3) 5 5 r.phB, wd h 4, step0, step, r.frac,
    trunc 16 r.lead, wd h 9, wd h 10, 0, 0, 0, 0, 0]

/-- Busy cycles of a job (R214). -/
def sreCycles (c : SreCfg) (r : SreRun) (nIn : Nat) : Nat :=
  let x := max (if c.enCic then r.inC else 0) (max (if c.enA then r.inA else 0) (max (if c.enB then r.inB else 0)
    (if c.enInt then r.outs.length * (1 + c.blend.toNat) else 0)))
  4 + if c.enCic || c.enA || c.enB || c.enInt then x else nIn

/-- The stage of job `job` becomes `st`. -/
def sreEnd (s : State) (job : SreJob) (st : SreStage) : State :=
  { s with sre := { s.sre with jobs := s.sre.jobs.map (fun j => if j = job then { j with stage := st } else j) } }

/-- The job's computation from its descriptor and input (R212 steps 3 to 5). -/
def sreCompute (s : State) (job : SreJob) (h : List Byte) (sec : List (List Byte)) (inp : List Byte) : State :=
  let j := job.entry
  let f6 := wd j 6
  let step0 := if f6.testBit 1 then wd j 7 else wd h 5
  let step := if f6.testBit 1 then wd j 7 else wd h 6
  let d := if f6.testBit 2 then Drift.zero else driftOf (sec.getD 0 [])
  let step := if f6.testBit 2 then step0 else step
  let m := if f6.testBit 0 ∧ (wd h 0).testBit 18 then driftMeasure h step0 step d (wd j 8) (wdAddr j 9) else (d, step, 0)
  let c : SreCfg := ⟨h, m.2.1, s.sre.coef, j.take 56 ++ h ++ sec.flatten ++ inp⟩
  let nIn := wdf j 3 31 16
  let run := chainRun c ((List.range nIn).map (sreIn (wdf h 0 15 14) c.rnd inp)) (sreInit h sec (wdf j 5 31 16)) 0
  let r := run.1
  let out := sreOut (wdf h 0 13 12) c.rnd r.outs.reverse
  let a := wdAddr j 0
  let secs := sreSections j h
  let new : List (List Byte) := [driftBytes m.1, numBytes 8 r.cicI ++ numBytes 8 r.cicZ, numBytes 4 r.fa, numBytes 4 r.fb, numBytes 4 r.fi]
  let ws := (wdAddr j 4, out.1) :: (a, sreHeader h step0 m.2.1 r) ::
    (List.zip secs new).filterMap (fun p => if p.1.1 then some (a + p.1.2.1, p.2) else none)
  let s := addc s Reg.SRE_SKEW_CLIP m.2.2
  let s := addc s (Reg.SRE_ENG_CYC job.engine) (sreCycles c r nIn)
  if r.bad then sreEnd s job (.ended sreCOEF 0 0 0 [])
  else sreEnd s job (.ended run.2.2.toNat (min 65535 (r.sat + out.2)) run.2.1 r.outs.length ws)

/-- The input arrives; an uncorrectable error ends the job with MEM. -/
def sreStart (s : State) (job : SreJob) (h : List Byte) (sec : List (List Byte)) : State :=
  let j := job.entry
  match memRead s (srePort s job.engine job.ring) (wdAddr j 2) (sreBufLen (wdf h 0 15 14) (wdf j 3 31 16)) with
  | (none, s) => sreEnd s job (.ended sreMEM 0 0 0 [])
  | (some inp, s) => sreCompute s job h sec inp

/-- A fetched job starts: one whose stream was busy first has its descriptor read and checked (R206, R212). -/
def sreGo (s : State) (job : SreJob) : State :=
  match job.stage with
  | .ready h sec => sreStart s job h sec
  | .waiting =>
    if sreBlocked (wdAddr job.entry 0) (s.sre.jobs.takeWhile (· != job)) then s
    else
      let c := sreDescribe s (srePort s job.engine job.ring) job.entry
      let s := sreEnd c.2 job c.1
      match c.1 with
      | .ready h sec => sreStart s { job with stage := c.1 } h sec
      | _ => s
  | .ended _ _ _ _ _ => s

/-- SRE_JOB_START (R212): the oldest job of the engine that has not ended. -/
def execSreJobStart (engine : Fin 4) (s : State) : Host.Outcome State Fault Refusal :=
  live s (if frozen s then s
    else match s.sre.jobs.find? (fun j => j.engine == engine.val && !j.stage.isEnded) with
      | some job => sreGo s job
      | none => s)

/-- The status, the consumer word and the counters of a completed job (R212 step 6, R213). -/
def sreStatus (s : State) (job : SreJob) (code sat used out : Nat) : State :=
  let s := sramPut s (job.off + 56) (wordBytes [sat + 2 ^ 28 * code + 2 ^ 31, out + 2 ^ 16 * used])
  let s := advanceCons s (.sre job.ring)
  let s := addc (inc s Reg.SRE_JOBS) Reg.SRE_SAT sat
  let s := if code = 0 then s else wr s Reg.SRE_LAST_ERR (BitVec.ofNat 32 (2 ^ 20 * job.ring + 2 ^ 16 * code + job.index % 1024))
  if code ≤ 1 then (if (wd job.entry 6).testBit 3 then orr s Reg.SRE_INT_STAT 4 else s)
  else orr (inc s Reg.SRE_JOB_ERRS) Reg.SRE_INT_STAT (if code = sreCOEF then 0x28 else 8)

/-- The first job of engine `e` completes, if it has ended and its writes are acknowledged. -/
def sreComplete (s : State) (job : SreJob) : State :=
  match job.stage with
  | .ready _ _ => s
  | .waiting => s
  | .ended code sat used out ws =>
    match memWrites (srePort s job.engine job.ring) ws s with
    | (false, s) => s
    | (true, s) => sreStatus { s with sre := { s.sre with jobs := s.sre.jobs.erase job } } job code sat used out

/-- SRE_JOB_COMPLETE (R212). -/
def execSreJobComplete (engine : Fin 4) (s : State) : Host.Outcome State Fault Refusal :=
  live s (if frozen s then s
    else match s.sre.jobs.find? (fun j => j.engine == engine.val) with
      | some job => sreComplete s job
      | none => s)

/-! ### Coefficient loads (R215) -/

/-- A command ends with a code: 0 for success. -/
def sreCmdEnd (s : State) (code : Nat) : State :=
  let st := Reg.SRE_CMD_STAT
  let s := wrf s st 2 0 code
  if code = 0 then orr (wrb s st 30 true) Reg.SRE_INT_STAT 1 else orr (wrb s st 29 true) Reg.SRE_INT_STAT 2

/-- A write that found busy: err with code 1, and no interrupt (Table 7.9). -/
def sreBusy (s : State) : State := wrb (wrf s Reg.SRE_CMD_STAT 2 0 1) Reg.SRE_CMD_STAT 29 true

/-- A write of SRE_CMD (Table 7.9). -/
def sreCmdWrite (s : State) (v : Word) : State :=
  let a := 64 * rdf s Reg.SRE_CMD_ARG0 31 6 + 2 ^ 32 * rdf s Reg.SRE_CMD_ARG1 15 0
  if s.sre.load.isSome then sreBusy s
  else if fld v 27 24 ≠ 1 then sreCmdEnd s 1
  else if rdf s Reg.SRE_CMD_ARG0 5 4 ≠ 0 ∨ !inDram s a 8192 then sreCmdEnd s 2
  else wrb { s with sre := { s.sre with load := some (rdf s Reg.SRE_CMD_ARG0 3 0, a) } } Reg.SRE_CMD_STAT 31 true

/-- LOAD_COEF (R215): a write of SRE_CMD with op 1. -/
def execLoadCoef (who : Who) (s : State) : Host.Outcome State Fault Refusal :=
  live s (swWrite s who Reg.SRE_CMD (fun s => sreCmdWrite s 0x1000000))

/-- A coefficient with its parity bit. -/
def coefWord (x : Nat) : BitVec 21 := BitVec.ofNat 21 (x % 2 ^ 20 + 2 ^ 20 * (parity 20 x).toNat)

/-- Fill `n` coefficients from index `k`. -/
def coefFill (img : List Byte) (k : Nat) (m : SMap (BitVec 21)) : SMap (BitVec 21) :=
  foldS (fun m i => SMap.put 0 m (k + i) (coefWord (le img (4 * i) 4))) (List.range 2048) m

/-- LOAD_COEF_COMPLETE (R215): no fetched job references the bank, or waits with a descriptor not yet read. -/
def execLoadCoefComplete (s : State) : Host.Outcome State Fault Refusal :=
  live s (match s.sre.load with
    | none => s
    | some (b, a) =>
      if s.sre.jobs.any (fun j => j.banks.contains b || j.stage == .waiting) then s
      else
        let r := memRead s ⟨13, 1, none⟩ a 8192
        let s := wrb { r.2 with sre := { r.2.sre with load := none } } Reg.SRE_CMD_STAT 31 false
        match r.1 with
        | none => sreCmdEnd s 3
        | some img => sreCmdEnd { s with sre := { s.sre with coef := coefFill img (2048 * b) s.sre.coef } } 0)

/-- In M10 the engines abandon the jobs they hold (R217). -/
def sreFreeze (s : State) : State := { s with sre := { s.sre with jobs := [] } }

/-- What a read of the SRE page register at `a` returns. -/
def srePageRead (s : State) (a : Nat) : Word :=
  if a = Reg.SRE_STAT then
    let b (e : Nat) : Nat := (s.sre.jobs.any (fun j => j.engine == e)).toNat * 2 ^ e
    BitVec.ofNat 32 ((frozen s).toNat * 32 + s.sre.load.isSome.toNat * 16 + b 0 + b 1 + b 2 + b 3)
  else rd s a

end Sys2Proof.Machine
end

