-- ==== Sys2Proof/Machine/Deflate.lean ====
section
/-! DEFINITION. The deflate engine (R233 to R239): an RFC 1951 decompressor, a compressor whose choice of matches and codes the spec leaves open and whose stream is valid whatever it chooses, and their jobs. -/

namespace Sys2Proof.Machine

/-! ### Bits -/

/-- The bits of a byte, least significant first. -/
def byteBits (b : Byte) : List Bool := (List.range 8).map b.getLsbD

/-- The number spelled by bits, least significant first. -/
def bitsNat : List Bool → Nat
  | [] => 0
  | b :: bs => b.toNat + 2 * bitsNat bs

/-- The whole bytes of a bit list, at most `n`, and the bits left. -/
def takeBytes : Nat → List Bool → List Byte × List Bool
  | 0, bs => ([], bs)
  | n + 1, bs =>
    if bs.length < 8 then ([], bs)
    else let r := takeBytes n (bs.drop 8); (BitVec.ofNat 8 (bitsNat (bs.take 8)) :: r.1, r.2)

/-! ### Codes (RFC 1951) -/

/-- A code set's sum of 2^(15 − length), 2^15 for a complete set. -/
def kraft (ls : List Nat) : Nat := (ls.map (fun l => if l = 0 then 0 else 2 ^ (15 - l))).sum

/-- The set of a literal/length code or of the code-length code is complete. -/
def setOk (ls : List Nat) : Bool := kraft ls == 2 ^ 15

/-- The set of a distance code is complete, or a single code of length 1. -/
def distOk (ls : List Nat) : Bool := setOk ls || (ls.filter (· != 0)) == [1]

/-- The outcome of reading a code: more bits are needed, nothing matches, or a symbol and the bits left. -/
inductive Sym where
  | more
  | bad
  | sym (n : Nat) (rest : List Bool)
  deriving DecidableEq, Repr

/-- The symbols of length `l`, rising. -/
def symsOf (ls : List Nat) (l : Nat) : List Nat := (List.range ls.length).filter (fun i => ls.getD i 0 == l)

/-- Read one canonical code, from length `l` up; the fuel is the lengths left. Bits that no longer code of the set can begin match no code. -/
def readSym (ls : List Nat) : Nat → Nat → Nat → Nat → List Bool → Sym
  | 0, _, _, _, _ => .bad
  | _ + 1, _, _, _, [] => .more
  | n + 1, l, code, first, b :: bs =>
    let c := 2 * code + b.toNat
    let xs := symsOf ls l
    if c < first + xs.length then .sym (xs.getD (c - first) 0) bs
    else if ls.all (fun x => decide (x ≤ l)) then .bad
    else readSym ls n (l + 1) c (2 * (first + xs.length)) bs

/-- Read one symbol of a code set. -/
def symbol (ls : List Nat) (bs : List Bool) : Sym := readSym ls 15 1 0 0 bs

/-- The fixed literal/length code. -/
def fixedLit : List Nat := List.replicate 144 8 ++ List.replicate 112 9 ++ List.replicate 24 7 ++ List.replicate 8 8

/-- The fixed distance code. -/
def fixedDist : List Nat := List.replicate 32 5

/-- The order of the code-length code's lengths. -/
def clOrder : List Nat := [16, 17, 18, 0, 8, 7, 9, 6, 10, 5, 11, 4, 12, 3, 13, 2, 14, 1, 15]

/-- Base and extra bits of length symbol 257 + `i`. -/
def lenBase (i : Nat) : Nat × Nat :=
  if i < 8 then (i + 3, 0) else if i = 28 then (258, 0) else ((4 + i % 4) * 2 ^ (i / 4 - 1) + 3, i / 4 - 1)

/-- Base and extra bits of distance symbol `i`. -/
def distBase (i : Nat) : Nat × Nat := if i < 4 then (i + 1, 0) else ((2 + i % 2) * 2 ^ (i / 2 - 1) + 1, i / 2 - 1)

/-! ### One element of a stream -/

def eCODE : Nat := 3
def eDIST : Nat := 4
def eLEN : Nat := 5
def eLIMIT : Nat := 6

/-- The outcome of one element: more bits are needed, a fault, or the decompressor after it. -/
inductive Elem where
  | more
  | err (code : Nat)
  | ok (i : Inflate)
  deriving DecidableEq, Repr

/-- The next phase at the end of a block. -/
def blockEnd (i : Inflate) (rest : List Bool) : Inflate := { i with phase := if i.last then .ended else .head, bits := rest }

/-- A block header. -/
def elemHead (i : Inflate) : Elem :=
  if i.bits.length < 3 then .more
  else
    let rest := i.bits.drop 3
    let i := { i with last := i.bits.getD 0 false }
    match bitsNat ((i.bits.drop 1).take 2) with
    | 0 => .ok { i with phase := .storedLen, bits := rest.drop (rest.length % 8) }
    | 1 => .ok { i with phase := .codes fixedLit fixedDist, bits := rest }
    | 2 => .ok { i with phase := .dynHead, bits := rest }
    | _ => .err eCODE

/-- LEN and NLEN. -/
def elemStoredLen (i : Inflate) : Elem :=
  if i.bits.length < 32 then .more
  else
    let n := bitsNat (i.bits.take 16)
    let rest := i.bits.drop 32
    if bitsNat ((i.bits.drop 16).take 16) ≠ 65535 - n then .err eCODE
    else if n = 0 then .ok (blockEnd i rest)
    else .ok { i with phase := .stored n, bits := rest }

/-- A literal byte to deliver (R238). -/
def literal (i : Inflate) (b : Byte) : Elem :=
  if i.limit < i.total + 1 then .err eLIMIT else .ok { i with pendLit := some b }

/-- A byte of a stored block. -/
def elemStored (i : Inflate) (n : Nat) : Elem :=
  if i.bits.length < 8 then .more
  else
    let b := BitVec.ofNat 8 (bitsNat (i.bits.take 8))
    let rest := i.bits.drop 8
    literal (if n = 1 then blockEnd i rest else { i with phase := .stored (n - 1), bits := rest }) b

/-- HLIT, HDIST and HCLEN. -/
def elemDynHead (i : Inflate) : Elem :=
  let hlit := bitsNat (i.bits.take 5)
  let hdist := bitsNat ((i.bits.drop 5).take 5)
  if 5 ≤ i.bits.length ∧ 29 < hlit then .err eLEN
  else if 10 ≤ i.bits.length ∧ 29 < hdist then .err eLEN
  else if i.bits.length < 14 then .more
  else .ok { i with phase := .dynClen (hlit + 257) (hdist + 1) (bitsNat ((i.bits.drop 10).take 4) + 4) [], bits := i.bits.drop 14 }

/-- The code-length code from its lengths in the order of the format. -/
def clSet (got : List Nat) : List Nat :=
  (List.range 19).map (fun y => got.getD (clOrder.findIdx (· == y)) 0)

/-- One length of the code-length code. -/
def elemDynClen (i : Inflate) (nlit ndist ncl : Nat) (got : List Nat) : Elem :=
  if i.bits.length < 3 then .more
  else
    let got := got ++ [bitsNat (i.bits.take 3)]
    let rest := i.bits.drop 3
    if got.length < ncl then .ok { i with phase := .dynClen nlit ndist ncl got, bits := rest }
    else if setOk (clSet got) then .ok { i with phase := .dynLens nlit ndist (clSet got) [], bits := rest }
    else .err eCODE

/-- The lengths of both codes are read: check the sets. -/
def dynSets (i : Inflate) (nlit : Nat) (got : List Nat) (rest : List Bool) : Elem :=
  let lit := got.take nlit
  let dist := got.drop nlit
  if lit.getD 256 0 = 0 ∨ !setOk lit ∨ !distOk dist then .err eCODE
  else .ok { i with phase := .codes lit dist, bits := rest }

/-- `n` more lengths `l`. -/
def dynMore (i : Inflate) (nlit ndist : Nat) (cl got : List Nat) (l n : Nat) (rest : List Bool) : Elem :=
  let got := got ++ List.replicate n l
  if nlit + ndist < got.length then .err eLEN
  else if got.length = nlit + ndist then dynSets i nlit got rest
  else .ok { i with phase := .dynLens nlit ndist cl got, bits := rest }

/-- One symbol of the code lengths. -/
def elemDynLens (i : Inflate) (nlit ndist : Nat) (cl got : List Nat) : Elem :=
  let rep (base eb l : Nat) (rest : List Bool) : Elem :=
    if rest.length < eb then .more else dynMore i nlit ndist cl got l (base + bitsNat (rest.take eb)) (rest.drop eb)
  match symbol cl i.bits with
  | .more => .more
  | .bad => .err eCODE
  | .sym y rest =>
    if y < 16 then dynMore i nlit ndist cl got y 1 rest
    else if y = 16 then (if got = [] then .err eCODE else rep 3 2 (got.getLast?.getD 0) rest)
    else if y = 17 then rep 3 3 0 rest
    else rep 11 7 0 rest

/-- One literal/length symbol with its extra bits. -/
def elemCodes (i : Inflate) (lit dist : List Nat) : Elem :=
  match symbol lit i.bits with
  | .more => .more
  | .bad => .err eCODE
  | .sym y rest =>
    if y < 256 then literal { i with bits := rest } (BitVec.ofNat 8 y)
    else if y = 256 then .ok (blockEnd i rest)
    else if 285 < y then .err eCODE
    else
      let p := lenBase (y - 257)
      if rest.length < p.2 then .more
      else .ok { i with phase := .distance (p.1 + bitsNat (rest.take p.2)) lit dist, bits := rest.drop p.2 }

/-- One distance symbol with its extra bits, and the checks of a match (R238). -/
def elemDistance (i : Inflate) (len : Nat) (lit dist : List Nat) : Elem :=
  match symbol dist i.bits with
  | .more => .more
  | .bad => .err eCODE
  | .sym y rest =>
    let p := distBase y
    if 29 < y then .err eCODE
    else if rest.length < p.2 then .more
    else
      let d := p.1 + bitsNat (rest.take p.2)
      if i.total < d then .err eDIST
      else if i.limit < i.total + len then .err eLIMIT
      else .ok { i with phase := .codes lit dist, bits := rest.drop p.2, pendLen := len, pendDist := d }

/-- One element. -/
def elem (i : Inflate) : Elem :=
  match i.phase with
  | .head => elemHead i
  | .storedLen => elemStoredLen i
  | .stored n => elemStored i n
  | .dynHead => elemDynHead i
  | .dynClen a b c got => elemDynClen i a b c got
  | .dynLens a b cl got => elemDynLens i a b cl got
  | .codes lit dist => elemCodes i lit dist
  | .distance n lit dist => elemDistance i n lit dist
  | .ended => .more

/-! ### A decompression job (R236, R238) -/

/-- A job's progress: the decompressor, input left, bytes taken, output newest first, places left. -/
structure InfRun where
  i : Inflate
  inp : List Byte
  used : Nat
  out : List Byte
  room : Nat
  deriving DecidableEq, Repr

/-- Deliver one byte. -/
def deliver1 (r : InfRun) (b : Byte) : InfRun :=
  { r with i := { r.i with hist := b :: r.i.hist, total := r.i.total + 1 }, out := b :: r.out, room := r.room - 1 }

/-- Deliver what is pending while there is room; the fuel is at least the places. -/
def deliverPend : Nat → InfRun → InfRun
  | 0, r => r
  | n + 1, r =>
    if r.room = 0 then r
    else match r.i.pendLit with
      | some b => let r := deliver1 r b; { r with i := { r.i with pendLit := none } }
      | none =>
        if r.i.pendLen = 0 then r
        else
          let r := deliver1 r (r.i.hist.getD (r.i.pendDist - 1) 0)
          deliverPend n { r with i := { r.i with pendLen := r.i.pendLen - 1 } }

/-- Output waits in the context. -/
def pends (i : Inflate) : Bool := i.pendLit.isSome || i.pendLen != 0

/-- Bytes taken up to the one that holds the first undecoded bit. -/
def usedTo (r : InfRun) : Nat := r.used - (r.i.bits.length - 1) / 8

/-- Run the decompressor: it delivers, decodes, and takes a byte when it needs bits; answers the run's end, the code and in_used. The fuel bounds the elements and bytes. -/
def infRun : Nat → InfRun → InfRun × Nat × Nat
  | 0, r => (r, 1, r.used)
  | n + 1, r =>
    let r := deliverPend r.room r
    if pends r.i then (r, 2, r.used)
    else if r.i.phase = .ended then (r, 0, r.used)
    else match elem r.i with
      | .ok i => infRun n { r with i := i }
      | .err c => (r, c, usedTo r)
      | .more =>
        match r.inp with
        | [] => (r, 1, r.used)
        | b :: bs => infRun n { r with i := { r.i with bits := r.i.bits ++ byteBits b }, inp := bs, used := r.used + 1 }

/-- A decompressor at the start of a stream. -/
def Inflate.start (limit : Nat) : Inflate := ⟨.head, false, [], [], 0, limit, none, 0, 0⟩

/-- A decompression job over its input: output bytes, code, in_used, and the context after it. -/
def inflateJob (i : Inflate) (inp : List Byte) (room : Nat) : List Byte × Nat × Nat × DflCtx :=
  let r := infRun (3 * (8 * inp.length + i.bits.length) + 16) ⟨i, inp, 0, [], room⟩
  let i := { r.1.i with hist := r.1.i.hist.take 32768 }
  (r.1.out.reverse, r.2.1, r.2.2, if 3 ≤ r.2.1 then .failed else .dec (if r.2.1 = 0 then { i with bits := [] } else i))

/-! ### The compressor's codes (R233) -/

/-- `n` bits of a number, least significant first. -/
def natBits (n x : Nat) : List Bool := (List.range n).map x.testBit

/-- The first canonical code of length `l`. -/
def firstCode (ls : List Nat) : Nat → Nat
  | 0 => 0
  | l + 1 => if l = 0 then 0 else 2 * (firstCode ls l + (symsOf ls l).length)

/-- The code of symbol `y`, its most significant bit first. -/
def codeOf (ls : List Nat) (y : Nat) : List Bool :=
  let l := ls.getD y 0
  (natBits l (firstCode ls l + ((List.range y).filter (fun x => ls.getD x 0 == l)).length)).reverse

/-- A token: a byte, or a match of a length at a distance. -/
inductive Tok where
  | lit (b : Byte)
  | copy (len dist : Nat)
  deriving DecidableEq, Repr

/-- The index of the last of `n` symbols whose base is at most `x`. -/
def symOf (base : Nat → Nat × Nat) (n x : Nat) : Nat := ((List.range n).filter (fun i => decide ((base i).1 ≤ x))).getLast?.getD 0

/-- The bits of a token. -/
def tokBits (lit dist : List Nat) : Tok → List Bool
  | .lit b => codeOf lit b.toNat
  | .copy n d =>
    let i := symOf lenBase 29 n
    let k := symOf distBase 30 d
    codeOf lit (257 + i) ++ natBits (lenBase i).2 (n - (lenBase i).1) ++ codeOf dist k ++ natBits (distBase k).2 (d - (distBase k).1)

/-- A match of length `n` at distance `d` stands at the front of `bs`, `hist` the bytes before it, newest first. -/
def matchAt (hist bs : List Byte) (n d : Nat) : Bool :=
  decide (3 ≤ n ∧ n ≤ 258 ∧ n ≤ bs.length ∧ 1 ≤ d ∧ d ≤ 32768 ∧ d ≤ hist.length) &&
  (List.range n).all (fun i => bs.getD i 0 == if i < d then hist.getD (d - 1 - i) 0 else bs.getD (i - d) 0)

/-- The tokens of `bs`: the chosen matches where they are matches, bytes elsewhere. -/
def toksOf : List (Nat × Nat) → List Byte → List Byte → List Tok
  | _, _, [] => []
  | [], _, bs => bs.map .lit
  | (n, d) :: cs, hist, b :: bs =>
    if matchAt hist (b :: bs) n d then .copy n d :: toksOf cs (((b :: bs).take n).reverse ++ hist) ((b :: bs).drop n)
    else .lit b :: toksOf cs (b :: hist) bs

/-- The lengths that code-length symbols spell: a symbol and, for 16 to 18, its repeat count. -/
def spell : List (Nat × Nat) → List Nat → List Nat
  | [], got => got
  | (y, n) :: xs, got => spell xs (got ++ if y < 16 then [y] else List.replicate n (if y = 16 then got.getLast?.getD 0 else 0))

/-- The repeat count of code-length symbol `y` is one that its extra bits express. -/
def repOk (y n : Nat) : Bool :=
  decide (y < 16 ∨ (y = 16 ∧ 3 ≤ n ∧ n ≤ 6) ∨ (y = 17 ∧ 3 ≤ n ∧ n ≤ 10) ∨ (y = 18 ∧ 11 ≤ n ∧ n ≤ 138))

/-- Both codes have the symbols of a token. -/
def tokCoded (lit dist : List Nat) : Tok → Bool
  | .lit b => lit.getD b.toNat 0 != 0
  | .copy n d => lit.getD (257 + symOf lenBase 29 n) 0 != 0 && dist.getD (symOf distBase 30 d) 0 != 0

/-- The codes and symbols spell a header that the decompressor accepts (Table 9.7), codes have at most 15 bits, and the tokens to come have codes: those given, or any where they are not known yet. -/
def dynOk (need : Option (List Tok)) (lit dist cl : List Nat) (ops : List (Nat × Nat)) : Bool :=
  let covers : Bool :=
    match need with
    | some ts => lit.getD 256 0 != 0 && ts.all (tokCoded lit dist)
    | none => lit.length == 286 && dist.length == 30 && (lit ++ dist).all (· != 0)
  decide (257 ≤ lit.length ∧ lit.length ≤ 286 ∧ 1 ≤ dist.length ∧ dist.length ≤ 30) && cl.length == 19 &&
  (lit ++ dist).all (fun l => decide (l ≤ 15)) && cl.all (fun l => decide (l ≤ 7)) && covers &&
  setOk lit && distOk dist && setOk cl && spell ops [] == lit ++ dist &&
  ops.all (fun x => decide (cl.getD x.1 0 ≠ 0) && repOk x.1 x.2) && ops.head?.any (fun x => x.1 != 16)

/-- The codes the compressor falls back on: 8 and 9 bits, 4 and 5 bits. -/
def plainLit : List Nat := List.replicate 226 8 ++ List.replicate 60 9
def plainDist : List Nat := List.replicate 2 4 ++ List.replicate 28 5
def plainCl : List Nat := (List.range 19).map (fun y => if y = 4 ∨ y = 5 ∨ y = 8 ∨ y = 9 then 2 else 0)

/-- The codes of a dynamic block: those chosen where they make a valid header. -/
def dynCodes (need : Option (List Tok)) (c : List Nat × List Nat × List Nat × List (Nat × Nat)) : List Nat × List Nat × List Nat × List (Nat × Nat) :=
  if dynOk need c.1 c.2.1 c.2.2.1 c.2.2.2 then c else (plainLit, plainDist, plainCl, (plainLit ++ plainDist).map (fun l => (l, 0)))

/-- The code-length code's lengths that the header gives, in the order of the format. -/
def clGiven (cl : List Nat) : List Nat :=
  let xs := clOrder.map (fun y => cl.getD y 0)
  xs.take (max 4 (19 - (xs.reverse.takeWhile (· == 0)).length))

/-- The header of a dynamic block after its first 3 bits. -/
def dynHeader (lit dist cl : List Nat) (ops : List (Nat × Nat)) : List Bool :=
  let g := clGiven cl
  natBits 5 (lit.length - 257) ++ natBits 5 (dist.length - 1) ++ natBits 4 (g.length - 4) ++ g.flatMap (natBits 3) ++
  ops.flatMap (fun x => codeOf cl x.1 ++
    if x.1 = 16 then natBits 2 (x.2 - 3) else if x.1 = 17 then natBits 3 (x.2 - 3) else if x.1 = 18 then natBits 7 (x.2 - 11) else [])

/-! ### A compression job (R236, R237) -/

/-- Zero bits up to a byte boundary. -/
def padBits (bs : List Bool) : List Bool := bs ++ List.replicate ((8 - bs.length % 8) % 8) false

/-- The tokens of the first `n` bytes held. -/
def heldToks (d : Deflate) (n : Nat) : List Tok := toksOf (Config.deflateMatches d.jobs d.pieces) d.hist (d.buf.take n)

/-- Emit the header of a block, last or not, with dynamic codes for the tokens `need` or fixed ones, unless it has been emitted. -/
def compOpen (dyn last : Bool) (need : Option (List Tok)) (d : Deflate) : Deflate :=
  match d.blk with
  | some _ => d
  | none =>
    if dyn then
      let c := dynCodes need (Config.deflateCodes d.jobs d.pieces)
      { d with blk := some (c.1, c.2.1), bits := d.bits ++ [last, false, true] ++ dynHeader c.1 c.2.1 c.2.2.1 c.2.2.2 }
    else { d with blk := some (fixedLit, fixedDist), bits := d.bits ++ [last, true, false] }

/-- Code the first `n` bytes held, in the open block. -/
def compCode (n : Nat) (d : Deflate) : Deflate :=
  match d.blk with
  | none => d
  | some c =>
    { d with
      bits := d.bits ++ (heldToks d n).flatMap (tokBits c.1 c.2)
      hist := ((d.buf.take n).reverse ++ d.hist).take 32768, buf := d.buf.drop n, pieces := d.pieces + 1 }

/-- End the current block: code what is held, and the end-of-block symbol. -/
def compClose (dyn last : Bool) (d : Deflate) : Deflate :=
  let d := compOpen dyn last (some (heldToks d d.buf.length)) d
  let d := compCode d.buf.length d
  match d.blk with
  | none => d
  | some c => { d with bits := d.bits ++ codeOf c.1 256, blk := none, count := 0 }

/-- A block is current: it holds input, or its header is out. -/
def inBlock (d : Deflate) : Bool := d.count != 0 || d.blk.isSome

/-- Take input: a block ends after `size` bytes (R235). The fuel is at least the blocks. -/
def compFeed (dyn : Bool) (size : Nat) : Nat → List Byte → Deflate → Deflate
  | 0, _, d => d
  | f + 1, inp, d =>
    let k := size - d.count
    if inp.length < k then { d with buf := d.buf ++ inp, count := d.count + inp.length }
    else compFeed dyn size f (inp.drop k) (compClose dyn false { d with buf := d.buf ++ inp.take k, count := d.count + k })

/-- Code part of what is held before its block ends, as the engine chooses. -/
def compEarly (dyn : Bool) (d : Deflate) : Deflate :=
  let n := min (Config.deflateEarly d.jobs) d.buf.length
  if n = 0 then d else compCode n (compOpen dyn false none d)

/-- A flush (R237): BLOCK ends the current block; SYNC also adds an empty stored block; FINAL ends it with BFINAL = 1, or a further empty block where its header is out already, and pads to a byte. -/
def compFlush (dyn : Bool) (flush : Nat) (d : Deflate) : Deflate :=
  let ended := if inBlock d then compClose dyn false d else d
  match flush with
  | 0 => compEarly dyn d
  | 1 => ended
  | 2 => { ended with bits := padBits (ended.bits ++ [false, false, false]) ++ List.replicate 16 false ++ List.replicate 16 true }
  | _ =>
    let e := compClose dyn true (if d.blk.isSome then ended else d)
    { e with bits := padBits e.bits, fin := true }

/-- Write whole bytes: the output, the bits left. -/
def compOut (d : Deflate) (room : Nat) : List Byte × Deflate :=
  let t := takeBytes room d.bits
  (t.1, { d with bits := t.2 })

/-- A compression job with options F8[28:22] (flush, tables, irq, bsz): output bytes, code, in_used, and the context after it. What a full output buffer leaves, a pending flush among it, stays in the context and is written first by the next job. -/
def deflateJob (d : Deflate) (inp : List Byte) (room opts : Nat) : List Byte × Nat × Nat × Deflate :=
  if d.fin then
    let o := compOut d room
    if o.2.bits = [] then (o.1, 0, 0, { o.2 with ended := true }) else (o.1, 2, 0, o.2)
  else
    let flush := opts / 32
    let dyn := opts.testBit 4
    let feed (xs : List Byte) : Deflate := compFeed dyn (2 ^ (opts % 8 + 10)) (xs.length + 2) xs { d with jobs := d.jobs ++ [(xs, opts + 128 * room)] }
    let all := compFlush dyn flush (feed inp)
    let n := Config.deflateTakes (d.jobs ++ [(inp, opts + 128 * room)])
    let part := compEarly dyn (feed (inp.take n))
    if room < all.bits.length / 8 ∧ n < inp.length ∧ room ≤ part.bits.length / 8 then
      let o := compOut part room
      (o.1, 2, n, o.2)
    else
      let o := compOut all room
      if all.fin ∧ o.2.bits = [] then (o.1, 0, inp.length, { o.2 with ended := true })
      else (o.1, if o.1.length = room ∧ o.2.bits ≠ [] then 2 else 1, inp.length, o.2)

/-! ### Jobs (R228, R234, R235) -/

def dflJOB : Nat := 7
def dflSTATE : Nat := 8
def dflADDR : Nat := 9
def dflMEM : Nat := 10

/-- The context of a job. -/
def dflCtx (s : State) (j : List Byte) : DflCtx := SMap.get .none s.dfl.ctx (wdAddr j 0)

/-- A context a job without start may continue (R234, R236, R237): initialised for its op, neither failed nor ended; a decompressor that has read its last block but not delivered its last byte continues. -/
def ctxOk (c : DflCtx) (op : Nat) : Bool :=
  match c with
  | .comp d => op == 0 && !d.ended
  | .dec i => op == 1 && (i.phase != .ended || pends i)
  | _ => false

/-- The check of a job: its code, 0 when it passes (Table 9.7). -/
def dflCheck (s : State) (j : List Byte) : Nat :=
  let op := wdf j 8 31 30
  let start := (wd j 8).testBit 29
  if wdf j 1 31 16 ≠ 0 ∨ wdf j 3 31 16 ≠ 0 ∨ wdf j 4 31 24 ≠ 0 ∨ wdf j 6 31 16 ≠ 0 ∨ wdf j 7 31 24 ≠ 0 ∨ wdf j 8 19 0 ≠ 0 ∨
    wd j 10 ≠ 0 ∨ wd j 11 ≠ 0 ∨ wd j 12 ≠ 0 ∨ wd j 13 ≠ 0 ∨ wdf j 14 26 24 ≠ 0 ∨ wdf j 15 31 24 ≠ 0 ∨ 1 < op ∨
    wdf j 7 23 0 = 0 ∨ (op = 1 ∧ start ∧ wd j 9 = 0) then dflJOB
  else if !start && !ctxOk (dflCtx s j) op then dflSTATE
  else if wdAddr j 0 % 64 ≠ 0 ∨ !inDram s (wdAddr j 0) (if op = 0 then 65536 else 33792) ∨
    !inMem s (wdAddr j 2) (wdf j 4 23 0) ∨ !inMem s (wdAddr j 5) (wdf j 7 23 0) then dflADDR
  else 0

/-- Take the next job of ring `r`. -/
def dflFetch (s : State) (r : Fin 4) : State :=
  let i := ringNext s (.dfl r)
  let o := ringEntry s (.dfl r) i
  let j := sramGet s o 64
  let c := dflCheck s j
  let job : DflJob := ⟨r, i % ringSize s (.dfl r), o, j, if c = 0 then none else some (c, 0, 0)⟩
  setRingNext { s with dfl := { s.dfl with job := some job, last := r } } (.dfl r) (i + 1)

/-- DFL_JOB_FETCH (R228). -/
def execDflJobFetch (s : State) : Host.Outcome State Fault Refusal :=
  live s (if rdb s Reg.DFL_CTRL 0 && !gateAsked s 84 && !frozen s && s.dfl.job.isNone then
    match bestRing s ((after 4 s.dfl.last.val).map (fun r => .dfl (Fin.ofNat 4 r))) with
    | some (.dfl r) => dflFetch s r
    | _ => s
  else s)

/-- A job ends with a code, in_used and out_used. -/
def dflEnd (s : State) (job : DflJob) (code used out : Nat) : State :=
  { s with dfl := { s.dfl with job := some { job with ended := some (code, used, out) } } }

/-- The job's output, code, in_used and context from its input. -/
def dflResult (s : State) (j inp : List Byte) : List Byte × Nat × Nat × DflCtx :=
  let start := (wd j 8).testBit 29
  let room := wdf j 7 23 0
  if wdf j 8 31 30 = 0 then
    let d : Deflate := match start, dflCtx s j with
      | false, .comp d => d
      | _, _ => Deflate.start
    let r := deflateJob d inp room (wdf j 8 28 22)
    (r.1, r.2.1, r.2.2.1, .comp r.2.2.2)
  else
    let i : Inflate := match start, dflCtx s j with
      | false, .dec i => i
      | _, _ => Inflate.start (wd j 9)
    inflateJob i inp room

/-- The engine runs the job it holds, if its op is `op`; a write that is not acknowledged leaves it unfinished. -/
def dflWork (s : State) (op : Nat) : State :=
  match s.dfl.job with
  | some job =>
    let j := job.entry
    if frozen s || job.ended.isSome || wdf j 8 31 30 != op then s
    else match memRead s (accelPort 6 (wdf j 8 21 20)) (wdAddr j 2) (wdf j 4 23 0) with
      | (none, s) => dflEnd s job dflMEM 0 0
      | (some inp, s) =>
        let r := dflResult s j inp
        match memWrite s (accelPort 6 (wdf j 8 21 20)) (wdAddr j 5) r.1 with
        | (false, s) => s
        | (true, s) =>
          dflEnd { s with dfl := { s.dfl with ctx := SMap.put .none s.dfl.ctx (wdAddr j 0) r.2.2.2 } } job r.2.1 r.2.2.1 r.1.length
  | none => s

/-- COMPRESS (R237). -/
def execCompress (s : State) : Host.Outcome State Fault Refusal := live s (dflWork s 0)

/-- DECOMPRESS (R238). -/
def execDecompress (s : State) : Host.Outcome State Fault Refusal := live s (dflWork s 1)

/-- Status words, consumer word and registers of a job that has ended. -/
def dflComplete (s : State) (job : DflJob) (code used out : Nat) : State :=
  let s := { s with dfl := { s.dfl with job := none } }
  let s := sramPut s (job.off + 56) (wordBytes [used + 2 ^ 27 * code + 2 ^ 31, out])
  let s := inc (advanceCons s (.dfl job.ring)) Reg.DFL_JOBS
  if code < 3 then (if (wd job.entry 8).testBit 25 then orr s Reg.DFL_INT_STAT 1 else s)
  else
    let s := orr (inc s Reg.DFL_JOB_ERRS) Reg.DFL_INT_STAT 2
    wr s Reg.DFL_LAST_ERR (BitVec.ofNat 32 (2 ^ 20 * job.ring + 2 ^ 16 * code + job.index % 1024))

/-- DFL_JOB_COMPLETE (R236). -/
def execDflJobComplete (s : State) : Host.Outcome State Fault Refusal :=
  live s (if frozen s then s
    else match s.dfl.job with
      | some job =>
        match job.ended with
        | some (c, u, o) => dflComplete s job c u o
        | none => s
      | none => s)

/-- In M10 the engine abandons the job it holds (R239). -/
def dflFreeze (s : State) : State := { s with dfl := { s.dfl with job := none } }

/-- What a read of the DFL page register at `a` returns. -/
def dflPageRead (s : State) (a : Nat) : Word :=
  if a = Reg.DFL_STAT then BitVec.ofNat 32 ((frozen s).toNat * 2 + s.dfl.job.isSome.toNat) else rd s a

end Sys2Proof.Machine
end

