-- ==== Sys2Proof/Machine/Crypto.lean ====
section
/-! DEFINITION. The ciphers, hashes and key wraps the spec names by their standards: AES (FIPS 197), AES counter mode and its key derivation (RFC 3711, RFC 6188), GCM (RFC 7714), HMAC-SHA1, the key wrap of RFC 5649, SHA-2 (FIPS 180-4). PRESUMED: the standards are not part of the spec's text. -/

namespace Sys2Proof.Machine

/-! ### AES (FIPS 197): bytes as numbers, the state column by column -/

/-- The S-box, byte `i` at bits [8i+7:8i]. -/
def aesSboxTable : Nat := 0x16bb54b00f2d99416842e6bf0d89a18cdf2855cee9871e9b948ed9691198f8e19e1dc186b95735610ef6034866b53e708a8bbd4b1f74dde8c6b4a61c2e2578ba08ae7a65eaf4566ca94ed58d6d37c8e779e4959162acd3c25c2406490a3a32e0db0b5ede14b8ee4688902a22dc4f816073195d643d7ea7c41744975fec130ccdd2f3ff1021dab6bcf5389d928f40a351a89f3c507f02f94585334d43fbaaefd0cf584c4a39becb6a5bb1fc20ed00d153842fe329b3d63b52a05a6e1b1a2c830975b227ebe28012079a059618c323c7041531d871f1e5a534ccf73f362693fdb7c072a49cafa2d4adf04759fa7dc982ca76abd7fe2b670130c56f6bf27b777c63

/-- The inverse S-box. -/
def aesInvTable : Nat := 0x7d0c2155631469e126d677ba7e042b17619953833cbbebc8b0f52aae4d3be0a0ef9cc9939f7ae52d0d4ab519a97f51605fec8027591012b131c7078833a8dd1ff45acd78fec0db9a2079d2c64b3e56fc1bbe18aa0e62b76f89c5291d711af1476edf751ce837f9e28535ade72274ac9673e6b4f0cecff297eadc674f4111913a6b8a130103bdafc1020f3fca8f1e2cd00645b3b80558e4f70ad3bc8c00abd890849d8da75746155edab9edfd5048706c92b6655dcc5ca4d41698688664f6f87225d18b6d49a25b76b224d92866a12e084ec3fa420b954cee3d23c2a632947b54cbe9dec444438e3487ff2f9b8239e37cfbd7f3819ea340bf38a53630d56a0952

/-- The low `n` bytes of a number through a table of bytes. -/
def subBytes (table : Nat) : Nat → Nat → Nat
  | 0, _ => 0
  | n + 1, x => slice table (8 * (x % 256) + 7) (8 * (x % 256)) + 256 * subBytes table n (x / 256)

/-- Multiplication by x in GF(2^8), of each of the 16 bytes of a block (byte i at bits 8i + 7 to 8i). -/
def xtime (x : Nat) : Nat :=
  ((x &&& 0x7F7F7F7F7F7F7F7F7F7F7F7F7F7F7F7F) * 2) ^^^ (((x >>> 7) &&& 0x01010101010101010101010101010101) * 0x1B)

/-- Multiplication of each byte of a block by a constant below 16. -/
def gmul (k x : Nat) : Nat :=
  let x2 := xtime x
  let x4 := xtime x2
  let x8 := xtime x4
  (k % 2 * x) ^^^ (k / 2 % 2 * x2) ^^^ (k / 4 % 2 * x4) ^^^ (k / 8 % 2 * x8)

/-- A block turned right by `n` bits. -/
def turn (n x : Nat) : Nat := (x >>> n) ||| ((x <<< (128 - n)) % 2 ^ 128)

/-- Row r of a block (bytes r, r + 4, r + 8, r + 12) moved left by k·r columns. -/
def shiftRows (k x : Nat) : Nat :=
  (x &&& 0xFF000000FF000000FF000000FF) ||| turn (32 * k % 128) (x &&& 0xFF000000FF000000FF000000FF00) |||
  turn (64 * k % 128) (x &&& 0xFF000000FF000000FF000000FF0000) ||| turn (96 * k % 128) (x &&& 0xFF000000FF000000FF000000FF000000)

/-- Every column with row r + 1 in the place of row r. -/
def rowUp (x : Nat) : Nat :=
  ((x >>> 8) &&& 0x00FFFFFF00FFFFFF00FFFFFF00FFFFFF) ||| ((x &&& 0xFF000000FF000000FF000000FF) <<< 24)

/-- Every column times the circulant of (a, b, c, d). -/
def mixColumns (a b c d x : Nat) : Nat := gmul a x ^^^ rowUp (gmul b x ^^^ rowUp (gmul c x ^^^ rowUp (gmul d x)))

/-- The words of the key schedule, newest first; `n` more words. -/
def expandKey (nk : Nat) : Nat → Nat → Nat → List Nat → List Nat
  | 0, _, _, ws => ws
  | n + 1, i, rcon, ws =>
    let p := ws.headD 0
    let t :=
      if i % nk = 0 then subBytes aesSboxTable 4 (p >>> 8 ||| (p % 256) <<< 24) ^^^ rcon
      else if nk = 8 ∧ i % 8 = 4 then subBytes aesSboxTable 4 p
      else p
    expandKey nk n (i + 1) (if i % nk = 0 then xtime rcon else rcon) ((ws.getD (nk - 1) 0 ^^^ t) :: ws)

/-- The words of a schedule, four to a round key. -/
def byFour : List Nat → List Nat
  | a :: b :: c :: d :: ws => (a + 2 ^ 32 * b + 2 ^ 64 * c + 2 ^ 96 * d) :: byFour ws
  | _ => []

/-- The round keys of a 16-byte or 32-byte key. -/
def roundKeys (key : List Byte) : List Nat :=
  let nk := key.length / 4
  byFour (expandKey nk (4 * (nk + 7) - nk) nk 1 ((List.range nk).map (fun i => le key (4 * i) 4)).reverse).reverse

/-- The rounds after the first AddRoundKey. -/
def encRounds : List Nat → Nat → Nat
  | [], x => x
  | [k], x => shiftRows 1 (subBytes aesSboxTable 16 x) ^^^ k
  | k :: ks, x => encRounds ks (mixColumns 2 3 1 1 (shiftRows 1 (subBytes aesSboxTable 16 x)) ^^^ k)

/-- The rounds of the inverse cipher before the last AddRoundKey. -/
def decRounds : List Nat → Nat → Nat
  | [], x => x
  | [k], x => subBytes aesInvTable 16 (shiftRows 3 x) ^^^ k
  | k :: ks, x => decRounds ks (mixColumns 14 11 13 9 (subBytes aesInvTable 16 (shiftRows 3 x) ^^^ k))

/-- AES of one block. -/
def aesEnc (key blk : List Byte) : List Byte :=
  match roundKeys key with
  | [] => blk
  | k :: ks => leBytes 16 (encRounds ks (leNat blk ^^^ k))

/-- The inverse cipher of one block. -/
def aesDec (key blk : List Byte) : List Byte :=
  match (roundKeys key).reverse with
  | [] => blk
  | k :: ks => leBytes 16 (decRounds ks (leNat blk ^^^ k))

/-! ### AES counter mode (RFC 3711 section 4.1.1) and key derivation (section 4.3) -/

/-- `n` blocks of keystream from counter `iv`. -/
def cmBlocks (key : List Byte) : Nat → Nat → List Byte
  | 0, _ => []
  | n + 1, iv => aesEnc key (beBytes 16 iv) ++ cmBlocks key n ((iv + 1) % 2 ^ 128)

/-- AES-CM of `m` with the 128-bit counter `iv`. -/
def aesCm (key : List Byte) (iv : Nat) (m : List Byte) : List Byte := xorBytes m (cmBlocks key ((m.length + 15) / 16) iv)

/-- The key derivation of rate 0: `n` bytes under a label, from a 14-byte salt. -/
def srtpKdf (key salt : List Byte) (label n : Nat) : List Byte :=
  (cmBlocks key ((n + 15) / 16) ((beNat salt ^^^ (label * 2 ^ 48)) * 2 ^ 16)).take n

/-! ### SHA-1 and HMAC-SHA1 -/

def add32 (a b : Nat) : Nat := (a + b) % 2 ^ 32
def rotl32 (n x : Nat) : Nat := (x * 2 ^ n) % 2 ^ 32 + x / 2 ^ (32 - n)
def not32 (x : Nat) : Nat := 2 ^ 32 - 1 - x

/-- The message with the padding of a hash of blocks of `blk` bytes and a length field of `l` bytes. -/
def mdPad (blk l : Nat) (m : List Byte) : List Byte :=
  m ++ 0x80#8 :: List.replicate ((2 * blk - 1 - l - m.length % blk) % blk) 0#8 ++ beBytes l (8 * m.length)

/-- `n` big-endian words of `w` bytes. -/
def beWords (w n : Nat) (bs : List Byte) : List Nat := (List.range n).map (fun i => be bs (w * i) w)

/-- The schedule of SHA-1, newest first. -/
def sha1Sched : Nat → List Nat → List Nat
  | 0, w => w
  | n + 1, w => sha1Sched n (rotl32 1 (w.getD 2 0 ^^^ w.getD 7 0 ^^^ w.getD 13 0 ^^^ w.getD 15 0) :: w)

/-- The rounds of SHA-1. -/
def sha1Rounds : List Nat → Nat → List Nat → List Nat
  | [], _, h => h
  | w :: ws, t, h =>
    let a := h.getD 0 0
    let b := h.getD 1 0
    let c := h.getD 2 0
    let d := h.getD 3 0
    let f := if t < 20 then (b &&& c) ||| (not32 b &&& d) else if t < 40 then b ^^^ c ^^^ d
      else if t < 60 then (b &&& c) ||| (b &&& d) ||| (c &&& d) else b ^^^ c ^^^ d
    let k := if t < 20 then 0x5A827999 else if t < 40 then 0x6ED9EBA1 else if t < 60 then 0x8F1BBCDC else 0xCA62C1D6
    sha1Rounds ws (t + 1) [add32 (add32 (rotl32 5 a) f) (add32 (add32 (h.getD 4 0) k) w), a, rotl32 30 b, c, d]

/-- SHA-1 over `n` blocks. -/
def sha1Blocks : Nat → List Byte → List Nat → List Nat
  | 0, _, h => h
  | n + 1, bs, h =>
    let w := (sha1Sched 64 (beWords 4 16 bs).reverse).reverse
    sha1Blocks n (bs.drop 64) (List.zipWith add32 h (sha1Rounds w 0 h))

/-- SHA-1. -/
def sha1 (m : List Byte) : List Byte :=
  let p := mdPad 64 8 m
  ((sha1Blocks (p.length / 64) p [0x67452301, 0xEFCDAB89, 0x98BADCFE, 0x10325476, 0xC3D2E1F0]).map (beBytes 4)).flatten

/-- HMAC-SHA1 with a key of at most 64 bytes. -/
def hmacSha1 (key m : List Byte) : List Byte :=
  let k := sub key 0 64
  sha1 (k.map (· ^^^ 0x5C) ++ sha1 (k.map (· ^^^ 0x36) ++ m))

/-! ### GCM -/

/-- The product in GF(2^128) of GCM: `i` bits of `x` are left, `v` is the shifted factor. -/
def ghashMul : Nat → Nat → Nat → Nat → Nat
  | 0, _, _, z => z
  | i + 1, x, v, z =>
    ghashMul i x (if v % 2 = 1 then (v / 2) ^^^ (0xE1 * 2 ^ 120) else v / 2) (if x.testBit i then z ^^^ v else z)

/-- GHASH over `n` blocks. -/
def ghash (h : Nat) : Nat → List Byte → Nat → Nat
  | 0, _, y => y
  | n + 1, bs, y => ghash h n (bs.drop 16) (ghashMul 128 (y ^^^ be bs 0 16) h 0)

/-- Zeros up to a multiple of 16 bytes. -/
def pad16 (bs : List Byte) : List Byte := bs ++ List.replicate ((16 - bs.length % 16) % 16) 0#8

/-- Keystream of GCM: `n` blocks from the 32-bit counter `c`. -/
def gcmBlocks (key iv : List Byte) : Nat → Nat → List Byte
  | 0, _ => []
  | n + 1, c => aesEnc key (iv ++ beBytes 4 c) ++ gcmBlocks key iv n (c + 1)

/-- GCM encryption or decryption of `m` with a 12-byte IV. -/
def gcmCrypt (key iv m : List Byte) : List Byte := xorBytes m (gcmBlocks key iv ((m.length + 15) / 16) 2)

/-- The GCM tag of ciphertext `c` and associated data `a`. -/
def gcmTag (key iv a c : List Byte) : List Byte :=
  let d := pad16 a ++ pad16 c ++ beBytes 8 (8 * a.length) ++ beBytes 8 (8 * c.length)
  let y := ghash (beNat (aesEnc key (List.replicate 16 0#8))) (d.length / 16) d 0
  xorBytes (aesEnc key (iv ++ beBytes 4 1)) (beBytes 16 y)

/-! ### Key wrap (RFC 3394, RFC 5649) -/

/-- One pass of the wrap over the registers from number `t` on: A, and the registers. -/
def wrapPass (key : List Byte) : List (List Byte) → Nat → List Byte → List Byte × List (List Byte)
  | [], _, a => (a, [])
  | r :: rs, t, a =>
    let b := aesEnc key (a ++ r)
    let q := wrapPass key rs (t + 1) (xorBytes (b.take 8) (beBytes 8 t))
    (q.1, b.drop 8 :: q.2)

/-- Passes of the wrap. -/
def wrapPasses (key : List Byte) : Nat → Nat → List Byte × List (List Byte) → List Byte × List (List Byte)
  | 0, _, x => x
  | n + 1, t, x => wrapPasses key n (t + x.2.length) (wrapPass key x.2 t x.1)

/-- One pass of the unwrap, over the registers last first, from number `t` down. -/
def unwrapPass (key : List Byte) : List (List Byte) → Nat → List Byte → List Byte × List (List Byte)
  | [], _, a => (a, [])
  | r :: rs, t, a =>
    let b := aesDec key (xorBytes a (beBytes 8 t) ++ r)
    let q := unwrapPass key rs (t - 1) (b.take 8)
    (q.1, b.drop 8 :: q.2)

/-- Passes of the unwrap. -/
def unwrapPasses (key : List Byte) : Nat → Nat → List Byte × List (List Byte) → List Byte × List (List Byte)
  | 0, _, x => x
  | n + 1, t, x => unwrapPasses key n (t - x.2.length) (unwrapPass key x.2 t x.1)

/-- 8-byte pieces of a list. -/
def pieces8 (bs : List Byte) : List (List Byte) := (List.range (bs.length / 8)).map (fun i => (bs.drop (8 * i)).take 8)

/-- Zeros up to a multiple of 8 bytes. -/
def pad8 (bs : List Byte) : List Byte := bs ++ List.replicate ((8 - bs.length % 8) % 8) 0#8

/-- RFC 5649 wrap of a plaintext of more than 8 bytes. -/
def keyWrap (kek p : List Byte) : List Byte :=
  let r := wrapPasses kek 6 1 (beBytes 4 0xA65959A6 ++ beBytes 4 p.length, pieces8 (pad8 p))
  r.1 ++ r.2.flatten

/-- RFC 5649 unwrap: none when the initial value, the length or the padding is wrong. -/
def keyUnwrap (kek c : List Byte) : Option (List Byte) :=
  let r := (pieces8 (c.drop 8)).reverse
  let x := unwrapPasses kek 6 (6 * r.length) (c.take 8, r)
  let p := x.2.reverse.flatten
  let n := be x.1 4 4
  if be x.1 0 4 ≠ 0xA65959A6 ∨ p.length < n ∨ n + 8 ≤ p.length ∨ (p.drop n).any (· != 0#8) then none else some (p.take n)

/-! ### SHA-2 (FIPS 180-4), of words of `w` bits -/

/-- The constants of SHA-256, word `i` at bits [32i+31:32i]. -/
def sha256K : Nat := 0xc67178f2bef9a3f7a4506ceb90befffa8cc7020884c8781478a5636f748f82ee682e6ff35b9cca4f4ed8aa4a391c0cb334b0bcb52748774c1e376c0819a4c116106aa070f40e3585d6990624d192e819c76c51a3c24b8b70a81a664ba2bfe8a192722c8581c2c92e766a0abb650a735453380d134d2c6dfc2e1b213827b70a851429296706ca6351d5a79147c6e00bf3bf597fc7b00327c8a831c66d983e515276f988da5cb0a9dc4a7484aa2de92c6f240ca1cc0fc19dc6efbe4786e49b69c1c19bf1749bdc06a780deb1fe72be5d74550c7dc3243185be12835b01d807aa98ab1c5ed5923f82a459f111f13956c25be9b5dba5b5c0fbcf71374491428a2f98

/-- The constants of SHA-384 and SHA-512, word `i` at bits [64i+63:64i]. -/
def sha512K : Nat := 0x6c44198c4a4758175fcb6fab3ad6faec597f299cfc657e2a4cc5d4becb3e42b6431d67c49c100d4c3c9ebe0a15c9bebc32caab7b40c7249328db77f523047d841b710b35131c471b113f9804bef90dae0a637dc5a2c898a606f067aa72176fbaf57d4f7fee6ed178eada7dd6cde0eb1ed186b8c721c0c207ca273eceea26619cc67178f2e372532bbef9a3f7b2c67915a4506cebde82bde990befffa23631e288cc702081a6439ec84c87814a1f0ab7278a5636f43172f60748f82ee5defb2fc682e6ff3d6b2b8a35b9cca4f7763e3734ed8aa4ae3418acb391c0cb3c5c95a6334b0bcb5e19b48a82748774cdf8eeb991e376c085141ab5319a4c116b8d2d0c8106aa07032bbd1b8f40e35855771202ad69906245565a910d192e819d6ef5218c76c51a30654be30c24b8b70d0f89791a81a664bbc423001a2bfe8a14cf1036492722c851482353b81c2c92e47edaee6766a0abb3c77b2a8650a73548baf63de53380d139d95b3df4d2c6dfc5ac42aed2e1b21385c26c92627b70a8546d22ffc142929670a0e6e7006ca6351e003826fd5a79147930aa725c6e00bf33da88fc2bf597fc7beef0ee4b00327c898fb213fa831c66d2db43210983e5152ee66dfab76f988da831153b55cb0a9dcbd41fbd44a7484aa6ea6e4832de92c6f592b0275240ca1cc77ac9c650fc19dc68b8cd5b5efbe4786384f25e3e49b69c19ef14ad2c19bf174cf6926949bdc06a725c7123580deb1fe3b1696b172be5d74f27b896f550c7dc3d5ffb4e2243185be4ee4b28c12835b0145706fbed807aa98a3030242ab1c5ed5da6d8118923f82a4af194f9b59f111f1b605d0193956c25bf348b538e9b5dba58189dbbcb5c0fbcfec4d3b2f7137449123ef65cd428a2f98d728ae22

def rotrW (w n x : Nat) : Nat := x / 2 ^ n + (x % 2 ^ n) * 2 ^ (w - n)

/-- The rotations of a SHA-2: of Σ0, Σ1, σ0, σ1 (the last number of σ is a shift). -/
structure Sha2 where
  w : Nat
  rounds : Nat
  k : Nat
  b0 : Nat × Nat × Nat
  b1 : Nat × Nat × Nat
  s0 : Nat × Nat × Nat
  s1 : Nat × Nat × Nat
  deriving DecidableEq, Repr

def sha2_32 : Sha2 := ⟨32, 64, sha256K, (2, 13, 22), (6, 11, 25), (7, 18, 3), (17, 19, 10)⟩
def sha2_64 : Sha2 := ⟨64, 80, sha512K, (28, 34, 39), (14, 18, 41), (1, 8, 7), (19, 61, 6)⟩

def bigSig (w : Nat) (r : Nat × Nat × Nat) (x : Nat) : Nat := rotrW w r.1 x ^^^ rotrW w r.2.1 x ^^^ rotrW w r.2.2 x
def smallSig (w : Nat) (r : Nat × Nat × Nat) (x : Nat) : Nat := rotrW w r.1 x ^^^ rotrW w r.2.1 x ^^^ (x / 2 ^ r.2.2)

/-- The schedule, newest first. -/
def sha2Sched (p : Sha2) : Nat → List Nat → List Nat
  | 0, w => w
  | n + 1, w =>
    sha2Sched p n ((smallSig p.w p.s1 (w.getD 1 0) + w.getD 6 0 + smallSig p.w p.s0 (w.getD 14 0) + w.getD 15 0) % 2 ^ p.w :: w)

/-- The rounds. -/
def sha2Rounds (p : Sha2) : List Nat → Nat → List Nat → List Nat
  | [], _, h => h
  | x :: xs, t, h =>
    let g (i : Nat) : Nat := h.getD i 0
    let ch := (g 4 &&& g 5) ^^^ ((2 ^ p.w - 1 - g 4) &&& g 6)
    let maj := (g 0 &&& g 1) ^^^ (g 0 &&& g 2) ^^^ (g 1 &&& g 2)
    let t1 := g 7 + bigSig p.w p.b1 (g 4) + ch + slice p.k (p.w * t + p.w - 1) (p.w * t) + x
    let t2 := bigSig p.w p.b0 (g 0) + maj
    sha2Rounds p xs (t + 1) [(t1 + t2) % 2 ^ p.w, g 0, g 1, g 2, (g 3 + t1) % 2 ^ p.w, g 4, g 5, g 6]

/-- `n` blocks. -/
def sha2Blocks (p : Sha2) : Nat → List Byte → List Nat → List Nat
  | 0, _, h => h
  | n + 1, bs, h =>
    let x := (sha2Sched p (p.rounds - 16) (beWords (p.w / 8) 16 bs).reverse).reverse
    sha2Blocks p n (bs.drop (2 * p.w)) (List.zipWith (fun a b => (a + b) % 2 ^ p.w) h (sha2Rounds p x 0 h))

/-- A SHA-2 from its initial value. -/
def sha2 (p : Sha2) (iv : List Nat) (m : List Byte) : List Byte :=
  let d := mdPad (2 * p.w) (p.w / 4) m
  ((sha2Blocks p (d.length / (2 * p.w)) d iv).map (beBytes (p.w / 8))).flatten

/-- SHA-256. -/
def sha256 (m : List Byte) : List Byte := sha2 sha2_32 [0x6a09e667, 0xbb67ae85, 0x3c6ef372, 0xa54ff53a, 0x510e527f, 0x9b05688c, 0x1f83d9ab, 0x5be0cd19] m

/-- SHA-384. -/
def sha384 (m : List Byte) : List Byte := (sha2 sha2_64 [0xcbbb9d5dc1059ed8, 0x629a292a367cd507, 0x9159015a3070dd17, 0x152fecd8f70e5939, 0x67332667ffc00b31, 0x8eb44a8768581511, 0xdb0c2e0d64f98fa7, 0x47b5481dbefa4fa4] m).take 48

/-- SHA-512. -/
def sha512 (m : List Byte) : List Byte := sha2 sha2_64 [0x6a09e667f3bcc908, 0xbb67ae8584caa73b, 0x3c6ef372fe94f82b, 0xa54ff53a5f1d36f1, 0x510e527fade682d1, 0x9b05688c2b3e6c1f, 0x1f83d9abfb41bd6b, 0x5be0cd19137e2179] m

end Sys2Proof.Machine
end

