-- ==== Sys2Proof/Machine/Srtp.lean ====
section
/-! DEFINITION. SRTP and SRTCP packets (R277, R287): session keys, headers, protection and verification as RFC 3711, RFC 6188 and RFC 7714 state them. PRESUMED: the RFCs are not part of the spec's text. -/

namespace Sys2Proof.Machine

/-- Session keys of a suite (Table 11.1). -/
structure Keys where
  suite : Nat
  key : List Byte
  salt : List Byte
  auth : List Byte
  deriving DecidableEq, Repr

/-- Bytes of a suite's cipher key. -/
def keyLen (suite : Nat) : Nat := if suite = 3 ∨ suite = 4 ∨ suite = 6 then 32 else 16

/-- Bytes of a suite's salt. -/
def saltLen (suite : Nat) : Nat := if 5 ≤ suite then 12 else 14

/-- Bytes of a suite's authentication key. -/
def authLen (suite : Nat) : Nat := if 5 ≤ suite then 0 else 20

/-- The suite is AEAD. -/
def isGcm (suite : Nat) : Bool := decide (5 ≤ suite)

/-- Bytes of a suite's tag; an SRTCP packet of suites 1 to 4 always carries 10. -/
def tagLen (suite : Nat) (rtcp : Bool) : Nat :=
  if isGcm suite then 16 else if !rtcp && (suite == 2 || suite == 4) then 4 else 10

/-- Bytes of an SRTCP trailer: the E flag and the index. -/
def trailLen (rtcp : Bool) : Nat := if rtcp then 4 else 0

/-- Length of the RTP header, with CSRCs and extension; none when it runs past the packet. -/
def rtpHdr (p : List Byte) : Option Nat :=
  let base := 12 + 4 * slice (be p 0 1) 3 0
  let n := if (be p 0 1).testBit 4 then base + 4 + 4 * be p (base + 2) 2 else base
  if ((be p 0 1).testBit 4 ∧ p.length < base + 4) ∨ p.length < n then none else some n

/-- Length of the part before the encrypted portion. -/
def clearLen (p : List Byte) (rtcp : Bool) : Option Nat :=
  if rtcp then (if p.length < 8 then none else some 8) else rtpHdr p

/-- The SSRC. -/
def ssrcOf (p : List Byte) (rtcp : Bool) : Nat := if rtcp then be p 4 4 else be p 8 4

/-- The packet index: ROC and sequence number, or the SRTCP index. -/
def pktIndex (p : List Byte) (rtcp : Bool) (v : Nat) : Nat := if rtcp then v else 65536 * v + be p 2 2

/-- The counter of AES-CM (RFC 3711 section 4.1.1). -/
def cmIv (k : Keys) (p : List Byte) (rtcp : Bool) (v : Nat) : Nat :=
  (2 ^ 16 * beNat k.salt) ^^^ (2 ^ 64 * ssrcOf p rtcp) ^^^ (2 ^ 16 * pktIndex p rtcp v)

/-- The IV of GCM (RFC 7714 sections 8.1 and 9.1). -/
def gcmIv (k : Keys) (p : List Byte) (rtcp : Bool) (v : Nat) : List Byte :=
  let mid := if rtcp then beBytes 4 (ssrcOf p rtcp) ++ beBytes 2 0 ++ beBytes 4 v else beBytes 4 (ssrcOf p rtcp) ++ beBytes 6 (pktIndex p rtcp v)
  xorBytes k.salt (beBytes 2 0 ++ mid)

/-- The E flag and SRTCP index. -/
def trailer (e : Bool) (v : Nat) : List Byte := beBytes 4 (v + 2 ^ 31 * e.toNat)

/-- Protect packet `p` whose first `n` bytes stay clear: ROC or SRTCP index `v`, E flag `e`. -/
def sealPkt (k : Keys) (p : List Byte) (n : Nat) (rtcp e : Bool) (v : Nat) : List Byte :=
  let h := p.take n
  let m := p.drop n
  if isGcm k.suite then
    let iv := gcmIv k p rtcp v
    if rtcp && !e then p ++ gcmTag k.key iv (p ++ trailer e v) [] ++ trailer e v
    else
      let c := gcmCrypt k.key iv m
      let t := if rtcp then trailer e v else []
      h ++ c ++ gcmTag k.key iv (h ++ t) c ++ t
  else
    let c := if rtcp && !e then m else aesCm k.key (cmIv k p rtcp v) m
    let a := if rtcp then trailer e v else beBytes 4 v
    let t := (hmacSha1 k.auth (h ++ c ++ a)).take (tagLen k.suite rtcp)
    if rtcp then h ++ c ++ a ++ t else h ++ c ++ t

/-- The E flag and index word of a protected SRTCP packet. -/
def trailWord (k : Keys) (p : List Byte) : Nat :=
  if isGcm k.suite then be p (p.length - 4) 4 else be p (p.length - 14) 4

/-- Verify and decrypt protected packet `p`; none when the tag does not match. -/
def openPkt (k : Keys) (p : List Byte) (n : Nat) (rtcp : Bool) (v : Nat) : Option (List Byte) :=
  let t := tagLen k.suite rtcp
  let e := !rtcp || (trailWord k p).testBit 31
  let body := p.take (p.length - t - trailLen rtcp)
  let h := body.take n
  let c := body.drop n
  if isGcm k.suite then
    let iv := gcmIv k p rtcp v
    let tag := sub p (p.length - t - trailLen rtcp) t
    let tr := if rtcp then trailer e v else []
    if e then (if gcmTag k.key iv (h ++ tr) c = tag then some (h ++ gcmCrypt k.key iv c) else none)
    else if gcmTag k.key iv (body ++ tr) [] = tag then some body else none
  else
    let a := if rtcp then trailer e v else beBytes 4 v
    if (hmacSha1 k.auth (body ++ a)).take t = p.drop (p.length - t) then
      some (if e then h ++ aesCm k.key (cmIv k p rtcp v) c else body)
    else none

/-- Session keys of a master key and salt (RFC 3711 section 4.3, rate 0; RFC 7714 section 11 for the 12-byte salt). -/
def deriveKeys (suite : Nat) (rtcp : Bool) (mk ms : List Byte) : Keys :=
  let s14 := sub ms 0 14
  let l := if rtcp then 3 else 0
  { suite := suite, key := srtpKdf mk s14 l (keyLen suite), auth := srtpKdf mk s14 (l + 1) (authLen suite),
    salt := srtpKdf mk s14 (l + 2) (saltLen suite) }

end Sys2Proof.Machine
end

