-- ==== Sys2Proof/Machine/Cipher.lean ====
section
/-! DEFINITION. The cipher engine (file 11): key slots, blobs, commands, the scheduler, protect and unprotect jobs. -/

namespace Sys2Proof.Machine

/-! ### Key slots (R278 to R280) -/

/-- Offset of slot `n` in shared SRAM. -/
def slotOff (n : Nat) : Nat := 0x680000 + 64 * n

/-- The 64 bytes of slot `n`. -/
def slotBytes (s : State) (n : Nat) : List Byte := sramGet s (slotOff n) 64

/-- Write slot `n`, zeros after the bytes given. -/
def setSlot (s : State) (n : Nat) (bs : List Byte) : State := sramPut s (slotOff n) (sub bs 0 64)

/-- Fields of a slot header (Table 11.3). -/
def slotSuite (b : List Byte) : Nat := if wdf b 0 31 24 = 1 then wdf b 0 23 20 else 0
def slotRtcp (b : List Byte) : Bool := (wd b 0).testBit 19
def slotSecond (b : List Byte) : Bool := (wd b 0).testBit 18

/-- Suites 3 and 4 take a pair of slots. -/
def pairSuite (x : Nat) : Bool := x == 3 || x == 4

def pageBase (s : State) (p : Nat) : Nat := rdf s (Reg.CIP_PAGE_SLOTS p) 11 0
def pageCount (s : State) (p : Nat) : Nat := rdf s (Reg.CIP_PAGE_SLOTS p) 28 16

/-- Slot `n` lies in page `p`'s range. -/
def inRange (s : State) (p n : Nat) : Bool := decide (pageBase s p ≤ n ∧ n < pageBase s p + pageCount s p)

/-- Slot `n`, and the slot after it for a pair, lie in page `p`'s range (R280). -/
def ownsSlot (s : State) (p n suite : Nat) : Bool :=
  inRange s p n && (!pairSuite suite || (inRange s p (n + 1) && n % 2 == 0))

/-- The session keys in slot `n`'s bytes and the next slot's (Table 11.4). -/
def slotKeys (b b2 : List Byte) : Keys :=
  let x := slotSuite b
  { suite := x, key := sub b 4 (keyLen x), salt := sub b (4 + keyLen x) (saltLen x),
    auth := if pairSuite x then sub b2 4 20 else sub b (4 + keyLen x + saltLen x) (authLen x) }

/-- Write session keys into slot `n`, and into the next slot for a pair (R282). -/
def installKeys (s : State) (page n : Nat) (rtcp : Bool) (k : Keys) : State :=
  let h := page + 2 ^ 19 * rtcp.toNat + 2 ^ 20 * k.suite + 2 ^ 24
  if pairSuite k.suite then
    setSlot (setSlot s n (leBytes 4 h ++ k.key ++ k.salt)) (n + 1) (leBytes 4 (h + 2 ^ 18) ++ k.auth)
  else setSlot s n (leBytes 4 h ++ k.key ++ k.salt ++ k.auth)

/-! ### Blobs (R281 to R283) -/

/-- Plaintext bytes of a blob (Table 11.6). -/
def plainLen (suite : Nat) (session : Bool) : Nat :=
  4 + keyLen suite + saltLen suite + if session then authLen suite else 0

/-- Blob bytes of a plaintext length. -/
def blobLen (n : Nat) : Nat := (n + 7) / 8 * 8 + 8

/-- The blob sizes of Table 11.6. -/
def blobSizes : List Nat := [40, 48, 56, 64, 80]

def cipBUSY : Nat := 1
def cipOWNER : Nat := 2
def cipADDR : Nat := 3
def cipLENGTH : Nat := 4
def cipKEK : Nat := 5
def cipUNWRAP : Nat := 6
def cipFORMAT : Nat := 7
def cipEMPTY : Nat := 8
def cipMEM : Nat := 9
def cipFROZEN : Nat := 10
def cipOP : Nat := 11

/-- A blob lies 8-byte aligned in memory. -/
def blobPlaced (s : State) (a n : Nat) : Bool := a % 8 == 0 && inMem s a n

/-- KEK `i` is installed. -/
def kekValid (s : State) (i : Nat) : Bool := rdb s Reg.CIP_KEK_VALID i

/-- A command of page `p` ends: `code` 0 is success; `len` is the length of an EXPORT. -/
def cipCmdEnd (s : State) (p code : Nat) : State :=
  let st := Reg.CIP_U_CMD_STAT p
  let s := wrf (wrb s st 31 false) st 3 0 code
  if code = 0 then orr (wrb s st 30 true) (Reg.CIP_U_INT_STAT p) 1 else orr (wrb s st 29 true) (Reg.CIP_U_INT_STAT p) 2

/-- The keys of an unwrapped plaintext, and its rtcp bit; none under FORMAT (R282 step 6). -/
def blobKeys (p : List Byte) (len : Nat) : Option (Keys × Bool) :=
  let h := wd p 0
  let x := slice h 23 20
  let rtcp := h.testBit 19
  let session := h.testBit 18
  let k := sub p 4 (keyLen x)
  let sl := sub p (4 + keyLen x) (saltLen x)
  if slice h 31 24 ≠ 1 ∨ x = 0 ∨ 6 < x ∨ slice h 17 0 ≠ 0 ∨ p.length ≠ plainLen x session ∨ len ≠ blobLen (plainLen x session) then none
  else if session then some (⟨x, k, sl, sub p (4 + keyLen x + saltLen x) (authLen x)⟩, rtcp)
  else some (deriveKeys x rtcp k sl, rtcp)

/-- The requests of a command, in the default class of port 13 (Table 10.4). -/
def cipPort : Requester := ⟨13, 7, none⟩

/-- UNWRAP (R282). -/
def runUnwrap (s : State) (c : CipCmd) : State :=
  if !inRange s c.page c.slot then cipCmdEnd s c.page cipOWNER
  else if !blobPlaced s c.addr c.len then cipCmdEnd s c.page cipADDR
  else if !blobSizes.contains c.len then cipCmdEnd s c.page cipLENGTH
  else match c.key with
    | none => cipCmdEnd s c.page cipKEK
    | some kek =>
      match memRead s cipPort c.addr c.len with
      | (none, s) => cipCmdEnd s c.page cipMEM
      | (some b, s) =>
        match keyUnwrap kek b with
        | none => cipCmdEnd s c.page cipUNWRAP
        | some p =>
          match blobKeys p c.len with
          | none => cipCmdEnd s c.page cipFORMAT
          | some (k, rtcp) =>
            if !ownsSlot s c.page c.slot k.suite then cipCmdEnd s c.page cipOWNER
            else cipCmdEnd (installKeys s c.page c.slot rtcp k) c.page 0

/-- ERASE (R284). -/
def runErase (s : State) (c : CipCmd) : State :=
  let b := slotBytes s c.slot
  let pair := pairSuite (slotSuite b) && !slotSecond b
  if !inRange s c.page c.slot || (pair && !inRange s c.page (c.slot + 1)) then cipCmdEnd s c.page cipOWNER
  else cipCmdEnd (if pair then setSlot (setSlot s c.slot []) (c.slot + 1) [] else setSlot s c.slot []) c.page 0

/-- The session plaintext of a slot. -/
def sessionPlain (b b2 : List Byte) : List Byte :=
  let k := slotKeys b b2
  leBytes 4 (2 ^ 24 + 2 ^ 20 * k.suite + 2 ^ 19 * (slotRtcp b).toNat + 2 ^ 18) ++ k.key ++ k.salt ++ k.auth

/-- EXPORT (R283). -/
def runExport (s : State) (c : CipCmd) : State :=
  let b := slotBytes s c.slot
  let x := slotSuite b
  let empty := x == 0 || slotSecond b
  let n := if empty then 0 else blobLen (plainLen x true)
  if !inRange s c.page c.slot || (!empty && !ownsSlot s c.page c.slot x) then cipCmdEnd s c.page cipOWNER
  else if !blobPlaced s c.addr n then cipCmdEnd s c.page cipADDR
  else match if c.kek = 0 then none else c.key with
    | none => cipCmdEnd s c.page cipKEK
    | some kek =>
      if empty then cipCmdEnd s c.page cipEMPTY
      else
        let blob := keyWrap kek (sessionPlain b (slotBytes s (c.slot + 1)))
        cipCmdEnd (wrf (memWrite_ s cipPort c.addr blob) (Reg.CIP_U_CMD_STAT c.page) 15 8 n) c.page 0

/-- Run a command to its end. -/
def runCipCmd (s : State) (c : CipCmd) : State :=
  match c.op with
  | 1 => runUnwrap s c
  | 2 => runErase s c
  | _ => runExport s c

/-! ### Commands (R294, R296, R297) -/

/-- CIP_STAT.running: enable, rng_seeded and not frozen. -/
def cipRunning (s : State) : Bool := rdb s Reg.CIP_CTRL 0 && s.cip.seeded && !frozen s

/-- Core `c` holds a job. -/
def coreBusy (s : State) (c : Nat) : Bool := s.cip.jobs.any (fun j => j.core == c && j.ended.isNone)

/-- Core `c` can take new work: the engine runs, its domain is not being gated, and it is free. -/
def coreFree (s : State) (c : Nat) : Bool := cipRunning s && !gateAsked s (68 + c) && !coreBusy s c

/-- Core `c` can take work that the engine holds already (an accepted ingress job, R292; a command it took): such work completes after enable is cleared (Table 11.13), and where a gate is asked of every core it keeps those whose domains still run. DEDUCED, log entry 114. -/
def coreOpen (s : State) (c : Nat) : Bool :=
  s.cip.seeded && !frozen s && !coreBusy s c && !gated s (68 + c) && (!gateAsked s (68 + c) || (List.range 8).all (fun d => gateAsked s (68 + d)))

/-- A free core can take the waiting command. -/
def cmdStarts (s : State) (x : CipCmd) (c : Nat) : Bool := if x.taken then coreOpen s c else coreFree s c

/-- The waiting commands that an enabled engine sees are held by it. -/
def takeCmds (s : State) : State :=
  if cipRunning s then { s with cip := { s.cip with cmds := s.cip.cmds.map (fun c => { c with taken := true }) } } else s

/-- The ERASEs that the engine holds run at once: an ERASE never waits for running jobs (R285). -/
def runErases (s : State) : State :=
  let now (c : CipCmd) : Bool := c.op == 2 && c.taken && !frozen s
  (s.cip.cmds.filter now).foldl runErase { s with cip := { s.cip with cmds := s.cip.cmds.filter (fun c => !now c) } }

/-- The engine takes the waiting commands; each ERASE, and the oldest of the others when a core is free for it (R293), runs. -/
def cipKick (s : State) : State :=
  let s := runErases (takeCmds s)
  match s.cip.cmds with
  | c :: cs => if (List.range 8).any (cmdStarts s c) then runCipCmd { s with cip := { s.cip with cmds := cs } } c else s
  | [] => s

/-- A write of `v` to CIP_U_CMD of page `p`. A write that finds busy sets err and its code alone (Table 11.12: cmd_err reports a command that failed). Before the engine is seeded it accepts no command (R294): the write starts nothing, DESIGN CHOICE of log entry 115. -/
def cipCmdWrite (s : State) (p : Nat) (v : Word) : State :=
  let st := Reg.CIP_U_CMD_STAT p
  let refuse (code : Nat) : State := wrb (wrf s st 3 0 code) st 29 true
  let fail (code : Nat) : State := orr (refuse code) (Reg.CIP_U_INT_STAT p) 2
  let op := fld v 27 24
  let kek := fld v 19 16
  if frozen s then fail cipFROZEN
  else if rdb s st 31 then refuse cipBUSY
  else if op = 0 ∨ 3 < op then fail cipOP
  else if !s.cip.seeded then s
  else
    let key := if kekValid s kek then some (SMap.get [] s.cip.keks kek) else none
    let c : CipCmd :=
      ⟨p, op, kek, key, fld v 11 0, rd2 s (Reg.CIP_U_ARG0 p) (Reg.CIP_U_ARG1 p), rdf s (Reg.CIP_U_ARG2 p) 7 0, cipRunning s⟩
    cipKick { wrb s st 31 true with cip := { s.cip with cmds := s.cip.cmds ++ [c] } }

/-- A row that writes CIP_U_CMD. -/
def cipCmdRow (s : State) (who : Who) (page : Fin 64) (op : Nat) (kek : Nat) (slot : BitVec 12) : State :=
  swWrite s who (Reg.CIP_U_CMD page) (fun s => cipCmdWrite s page (BitVec.ofNat 32 (2 ^ 24 * op + 2 ^ 16 * kek + slot.toNat)))

/-- UNWRAP (R282). -/
def execUnwrap (who : Who) (page : Fin 64) (kek : Fin 16) (slot : BitVec 12) (s : State) : Host.Outcome State Fault Refusal :=
  live s (cipCmdRow s who page 1 kek slot)

/-- ERASE (R284). -/
def execErase (who : Who) (page : Fin 64) (slot : BitVec 12) (s : State) : Host.Outcome State Fault Refusal :=
  live s (cipCmdRow s who page 2 0 slot)

/-- EXPORT (R283). -/
def execExportKeys (who : Who) (page : Fin 64) (kek : Fin 16) (slot : BitVec 12) (s : State) : Host.Outcome State Fault Refusal :=
  live s (cipCmdRow s who page 3 kek slot)

/-- CIP_RESERVED_OP (R297): op 0 or 4 to 15. -/
def execCipReservedOp (who : Who) (page : Fin 64) (op : Fin 13) (slot : BitVec 12) (s : State) : Host.Outcome State Fault Refusal :=
  live s (cipCmdRow s who page (if op.val = 0 then 0 else 3 + op.val) 0 slot)

/-! ### Jobs: start (R285, R286, R293) -/

def cjAUTH : Nat := 1
def cjREPLAY : Nat := 2
def cjKEY : Nat := 3
def cjOWNER : Nat := 4
def cjJOB : Nat := 5
def cjADDR : Nat := 6
def cjSPACE : Nat := 7
def cjROLLOVER : Nat := 8
def cjFORMAT : Nat := 9
def cjSSRC : Nat := 10
def cjMEM : Nat := 11

/-- The request of a ring entry (Table 11.7). -/
def reqOf (j : List Byte) : CipReq :=
  { slot := wdf j 6 11 0, inAddr := wdAddr j 0, inLen := wdf j 2 11 0, outAddr := wdAddr j 3, outCap := wdf j 5 11 0,
    unprot := (wd j 6).testBit 31, rtcp := (wd j 6).testBit 30, clear := (wd j 6).testBit 29, irq := (wd j 6).testBit 28,
    arg := wd j 7, ctx := wdAddr j 8, cls := wdf j 6 27 26 }

/-- JOB: a field marked 0 is not 0, or a length is out of range. -/
def cipJobBad (j : List Byte) : Bool :=
  let r := reqOf j
  wdf j 1 31 16 != 0 || wdf j 2 31 12 != 0 || wdf j 4 31 16 != 0 || wdf j 5 31 12 != 0 || wdf j 6 25 12 != 0 ||
  wdf j 9 31 16 != 0 || wd j 10 != 0 || wd j 11 != 0 || wd j 12 != 0 || wd j 13 != 0 || wdf j 14 26 12 != 0 ||
  (r.unprot && r.arg != 0) || (!r.unprot && r.ctx != 0) ||
  decide (r.inLen < 12 ∨ 2048 < r.inLen ∨ r.outCap = 0 ∨ 2048 < r.outCap)

/-- KEY (Table 11.9). -/
def keyBad (slot : Nat) (b b2 : List Byte) (rtcp : Bool) : Bool :=
  let x := slotSuite b
  x == 0 || slotSecond b || slotRtcp b != rtcp ||
  (pairSuite x && (slot % 2 != 0 || slotSuite b2 != x || !slotSecond b2))

/-- OWNER and KEY of a request of page `p` at its start. -/
def slotCheck (s : State) (p : Nat) (r : CipReq) : Nat :=
  let b := slotBytes s r.slot
  let b2 := slotBytes s (r.slot + 1)
  if !inRange s p r.slot || (pairSuite (slotSuite b) && !inRange s p (r.slot + 1)) then cjOWNER
  else if keyBad r.slot b b2 r.rtcp then cjKEY
  else 0

/-- ADDR of a ring job. -/
def cipPlaced (s : State) (r : CipReq) : Bool :=
  inMem s r.inAddr r.inLen && inMem s r.outAddr r.outCap && (!r.unprot || (r.ctx % 32 == 0 && inMem s r.ctx 32))

/-- The first checks of a ring entry: JOB, OWNER, KEY, ADDR. -/
def ringPre (s : State) (p : Nat) (j : List Byte) : Nat :=
  let r := reqOf j
  if cipJobBad j then cjJOB
  else if slotCheck s p r ≠ 0 then slotCheck s p r
  else if !cipPlaced s r then cjADDR
  else 0

/-- The context of a flow: the second half of its flow entry (Table 12.4). -/
def flowCtxAddr (s : State) (f : Nat) : Nat := rd2 s Reg.PKT_FLOW_BASE_LO Reg.PKT_FLOW_BASE_HI + 64 * f + 32

/-- A context is in use by a job, of a ring or of the ingress path, that has started and not completed, or by an ingress result not yet taken. -/
def ctxBusy (s : State) (a : Nat) : Bool :=
  s.cip.jobs.any (fun j => j.req.unprot && j.req.ctx == a) || s.cip.results.any (fun r => flowCtxAddr s r.1.flow == a)

/-- A flow has an ingress job that has started and whose result has not been taken. -/
def flowBusy (s : State) (f : Nat) : Bool :=
  s.cip.jobs.any (fun j => j.ingress.any (fun i => i.flow == f)) || s.cip.results.any (fun r => r.1.flow == f)

/-- The next entry of page `p`'s ring. -/
def cipHead (s : State) (p : Fin 64) : List Byte := sramGet s (ringEntry s (.cip p) (ringNext s (.cip p))) 64

/-- The next job of the ring may start: no running job has its context. -/
def headStarts (s : State) (p : Fin 64) : Bool :=
  let r := reqOf (cipHead s p)
  !(r.unprot && ctxBusy s r.ctx)

/-- The ring head has waited CIP_SCHED.age × 100 ns (R293). -/
def aged (s : State) (p : Fin 64) : Bool :=
  decide (rdf s Reg.CIP_SCHED 9 0 * 125 ≤ s.mono.toNat - SMap.get 0 s.ringSince (ringDesc (.cip p)).cfg)

/-- Rings in the order in which they are considered, after the one served last. -/
def cipOrder (s : State) : List (Fin 64) := (after 64 s.cip.last.val).map (Fin.ofNat 64)

/-- Start the next job of page `p`'s ring on core `c`. -/
def startRing (s : State) (c : Nat) (p : Fin 64) : State :=
  let i := ringNext s (.cip p)
  let j := cipHead s p
  let r := reqOf j
  let job : CipJob :=
    { ingress := none, page := p, index := i % ringSize s (.cip p), off := ringEntry s (.cip p) i, req := r, core := c,
      pre := ringPre s p j, keys := slotBytes s r.slot ++ slotBytes s (r.slot + 1), ended := none }
  setRingNext { s with cip := { s.cip with jobs := s.cip.jobs ++ [job], last := p } } (.cip p) (i + 1)

/-- Start an ingress job on core `c` (R292). -/
def startIngress (s : State) (c : Nat) (i : Ingress) (rest : List Ingress) : State :=
  let r : CipReq :=
    { slot := i.slot, inAddr := i.addr, inLen := i.len, outAddr := i.addr, outCap := 2048, unprot := true, rtcp := false,
      clear := false, irq := false, arg := 0, ctx := flowCtxAddr s i.flow, cls := 0 }
  let job : CipJob :=
    { ingress := some i, page := Fin.ofNat 64 i.page, index := 0, off := 0, req := r, core := c, pre := slotCheck s i.page r,
      keys := slotBytes s r.slot ++ slotBytes s (r.slot + 1), ended := none }
  { s with cip := { s.cip with jobs := s.cip.jobs ++ [job], ingress := rest } }

/-- The first ingress job, if no running job has its flow or its context. -/
def nextIngress (s : State) : Option (Ingress × List Ingress) :=
  match s.cip.ingress with
  | i :: rest => if flowBusy s i.flow || ctxBusy s (flowCtxAddr s i.flow) then none else some (i, rest)
  | [] => none

/-- The scheduler gives core `c`, which may take new work, the first that waits of R293. -/
def cipSchedule (s : State) (c : Nat) : State :=
  let ok := (cipOrder s).filter (headStarts s)
  let pick (ps : List (Fin 64)) : Option (Fin 64) :=
    match bestRing s (ps.map .cip) with
    | some (.cip p) => some p
    | _ => none
  match s.cip.cmds with
  | x :: xs => runCipCmd { s with cip := { s.cip with cmds := xs } } x
  | [] =>
    match pick (ok.filter (aged s)) with
    | some p => startRing s c p
    | none =>
      match nextIngress s with
      | some (i, rest) => startIngress s c i rest
      | none =>
        match pick ok with
        | some p => startRing s c p
        | none => s

/-- The scheduler gives core `c`, which takes no new work, the first of the commands and ingress jobs that the engine holds. -/
def cipScheduleHeld (s : State) (c : Nat) : State :=
  match s.cip.cmds.find? (·.taken) with
  | some x => runCipCmd { s with cip := { s.cip with cmds := s.cip.cmds.erase x } } x
  | none =>
    match nextIngress s with
    | some (i, rest) => startIngress s c i rest
    | none => s

/-- CIPHER_SCHEDULE (R293). -/
def execCipherSchedule (core : Fin 8) (s : State) : Host.Outcome State Fault Refusal :=
  live s (if coreFree s core then cipSchedule s core else if coreOpen s core then cipScheduleHeld s core else s)

/-! ### Jobs: processing (R287 to R291) -/

/-- A job that fails. -/
def cipFail (code : Nat) : CipEnd := ⟨code, 0, 0, [], []⟩

/-- Fields of an unprotect context (Table 11.8). -/
def ctxRoc (x : List Byte) : Nat := wd x 0
def ctxSl (x : List Byte) : Nat := wdf x 1 31 16
def ctxChk (x : List Byte) : Bool := (wd x 1).testBit 1
def ctxInit (x : List Byte) : Bool := (wd x 1).testBit 0
def ctxMap (x : List Byte) : Nat := le x 8 8

/-- The ROC estimate of R290. -/
def rocEstimate (x : List Byte) (sq : Nat) : Int :=
  let roc : Int := ctxRoc x
  let sl := ctxSl x
  if ctxInit x then roc
  else if sl < 32768 then (if sl + 32768 < sq then roc - 1 else roc)
  else if sq < sl - 32768 then roc + 1 else roc

/-- The context with 1 added to a counter of X5, and the write of X5 alone. -/
def ctxCount (a : Nat) (x : List Byte) (replay : Bool) : List MemOut × List Byte :=
  let w := if replay then 65536 * wdf x 5 31 16 + (wdf x 5 15 0 + 1) % 65536 else 65536 * ((wdf x 5 31 16 + 1) % 65536) + wdf x 5 15 0
  ([(a + 20, leBytes 4 w)], patch x 20 (leBytes 4 w))

/-- The context after an accepted packet: `v` its ROC or SRTCP index, `dlt` its distance to the highest index. -/
def ctxAccept (x : List Byte) (rtcp : Bool) (v sq : Nat) (dlt : Int) : List Byte :=
  if ctxInit x ∨ 0 < dlt then
    let m := (ctxMap x * 2 ^ (if ctxInit x then 0 else dlt.toNat) ||| 1) % 2 ^ 64
    let roc := if rtcp then 2 ^ 31 * wdf x 0 31 31 + v else v
    let w1 := 65536 * (if rtcp then ctxSl x else sq) + wdf x 1 15 1 * 2
    patch x 0 (leBytes 4 roc ++ leBytes 4 w1 ++ leBytes 8 m)
  else patch x 8 (leBytes 8 (ctxMap x ||| 2 ^ (-dlt).toNat))

/-- The replay window refuses index distance `dlt`. -/
def replayed (x : List Byte) (dlt : Int) : Bool :=
  !ctxInit x && (decide (dlt ≤ -64) || (decide (dlt ≤ 0) && (ctxMap x).testBit (-dlt).toNat))

/-- UNPROTECT of packet `p` with context `x` (R287 to R290). -/
def unprotectPkt (k : Keys) (r : CipReq) (p x : List Byte) : CipEnd :=
  let t := tagLen k.suite r.rtcp + trailLen r.rtcp
  match clearLen p r.rtcp with
  | none => cipFail cjFORMAT
  | some n =>
    if slice (be p 0 1) 7 6 ≠ 2 ∨ p.length < n + t then cipFail cjFORMAT
    else if r.outCap < p.length - t then cipFail cjSPACE
    else if ctxChk x ∧ ssrcOf p r.rtcp ≠ wd x 4 then cipFail cjSSRC
    else
      let sq := be p 2 2
      let v : Int := if r.rtcp then (trailWord k p % 2 ^ 31 : Nat) else rocEstimate x sq
      if v < 0 ∨ 2 ^ 32 ≤ v then cipFail cjROLLOVER
      else
        let i := pktIndex p r.rtcp v.toNat
        let hi := if r.rtcp then wdf x 0 30 0 else 65536 * ctxRoc x + ctxSl x
        let dlt : Int := (i : Int) - hi
        if replayed x dlt then let c := ctxCount r.ctx x true; ⟨cjREPLAY, 0, v.toNat, c.1, c.2⟩
        else match openPkt k p n r.rtcp v.toNat with
          | none => let c := ctxCount r.ctx x false; ⟨cjAUTH, 0, v.toNat, c.1, c.2⟩
          | some out =>
            let x := ctxAccept x r.rtcp v.toNat sq dlt
            ⟨0, out.length, v.toNat, [(r.outAddr, out), (r.ctx, x.take 16)], x⟩

/-- PROTECT of packet `p` (R287, R291). -/
def protectPkt (k : Keys) (r : CipReq) (p : List Byte) : CipEnd :=
  match clearLen p r.rtcp with
  | none => cipFail cjFORMAT
  | some n =>
    let len := p.length + tagLen k.suite r.rtcp + trailLen r.rtcp
    if slice (be p 0 1) 7 6 ≠ 2 then cipFail cjFORMAT
    else if r.outCap < len ∨ 2048 < len then cipFail cjSPACE
    else if r.rtcp ∧ 2 ^ 31 ≤ r.arg then cipFail cjROLLOVER
    else let out := sealPkt k p n r.rtcp (!(r.rtcp && r.clear)) r.arg
      ⟨0, out.length, r.arg, [(r.outAddr, out)], []⟩

/-- The requests of a job, in its class. -/
def jobPort (r : CipReq) : Requester := accelPort 7 r.cls

/-- Process a job: read its input and context, and end it. -/
def cipProcess (s : State) (j : CipJob) : CipEnd × State :=
  let k := slotKeys (j.keys.take 64) (j.keys.drop 64)
  if j.pre ≠ 0 then (cipFail j.pre, s)
  else match memRead s (jobPort j.req) j.req.inAddr j.req.inLen with
    | (none, s) => (cipFail cjMEM, s)
    | (some p, s) =>
      if !j.req.unprot then (protectPkt k j.req p, s)
      else match memRead s (jobPort j.req) j.req.ctx 32 with
        | (none, s) => (cipFail cjMEM, s)
        | (some x, s) => (unprotectPkt k j.req p x, s)

/-- Core `c` processes the job it holds, of the given kind. -/
def cipWork (s : State) (c : Nat) (unprot : Bool) : State :=
  match s.cip.jobs.find? (fun j => j.core == c && j.ended.isNone && j.req.unprot == unprot) with
  | some j =>
    if frozen s then s
    else
      let r := cipProcess s j
      { r.2 with cip := { r.2.cip with jobs := r.2.cip.jobs.map (fun x => if x = j then { j with ended := some r.1, keys := [] } else x) } }
  | none => s

/-- PROTECT (R287). -/
def execProtect (core : Fin 8) (s : State) : Host.Outcome State Fault Refusal := live s (cipWork s core false)

/-- UNPROTECT (R290): of a ring job or an ingress job. -/
def execUnprotect (core : Fin 8) (s : State) : Host.Outcome State Fault Refusal := live s (cipWork s core true)

/-! ### Jobs: completion (R286, R291, R292) -/

/-- The page's counters and interrupts for a job that ended (Table 11.12). -/
def pageCount1 (s : State) (p code : Nat) (irq ingress : Bool) (entry : Nat) : State :=
  let s := inc s (Reg.CIP_U_JOBS p)
  let s := if code = cjAUTH then inc s (Reg.CIP_U_AUTH_FAIL p) else if code = cjREPLAY then inc s (Reg.CIP_U_REPLAY p) else s
  if code = 0 then (if irq then orr s (Reg.CIP_U_INT_STAT p) 4 else s)
  else
    let s := orr (inc s (Reg.CIP_U_JOB_ERRS p)) (Reg.CIP_U_INT_STAT p) 8
    wr s (Reg.CIP_U_LAST_ERR p) (BitVec.ofNat 32 (2 ^ 31 * ingress.toNat + 2 ^ 16 * code + entry % 1024))

/-- A ring job completes: its writes, its status, the consumer word. -/
def completeRing (s : State) (j : CipJob) (e : CipEnd) : State :=
  match memWrites (jobPort j.req) e.writes s with
  | (false, s) => s
  | (true, s) =>
    let s := { s with cip := { s.cip with jobs := s.cip.jobs.erase j } }
    let s := sramPut s (j.off + 56) (wordBytes [e.outLen + 2 ^ 27 * e.code + 2 ^ 31, e.index])
    pageCount1 (advanceCons s (.cip j.page)) j.page e.code j.req.irq false j.index

/-- An ingress job completes: it counts, and its result goes to the packet path. -/
def completeIngress (s : State) (j : CipJob) (i : Ingress) (e : CipEnd) : State :=
  let s := { s with cip := { s.cip with jobs := s.cip.jobs.erase j, results := s.cip.results ++ [(i, e)] } }
  let s := inc s Reg.CIP_INGRESS_JOBS
  let s := if e.code = 0 then s else inc s Reg.CIP_INGRESS_ERRS
  let s := if e.code = 0 then (memWrites (jobPort j.req) (e.writes.take 1) s).2 else s
  pageCount1 s j.page e.code false true 0

/-- The first job of a ring, or of the ingress path, completes if it has ended (R286, R292): results stand in order. -/
def cipComplete (s : State) (src : Option (Fin 64)) : State :=
  let mine (j : CipJob) : Bool :=
    match src with
    | some p => j.ingress.isNone && j.page == p
    | none => j.ingress.isSome
  match s.cip.jobs.find? mine with
  | some j =>
    match j.ended, j.ingress with
    | some e, some i => completeIngress s j i e
    | some e, none => completeRing s j e
    | none, _ => s
  | none => s

/-- CIPHER_JOB_COMPLETE (R291): of a page's ring, or of the ingress path. -/
def execCipherJobComplete (src : Option (Fin 64)) (s : State) : Host.Outcome State Fault Refusal :=
  live s (if frozen s then s else cipComplete s src)

/-! ### Administration (R279, R294) -/

/-- A write of CIP_PAGEp_SLOTS is refused with this code, 0 when it is accepted (R279). -/
def slotsRefusal (s : State) (p base count : Nat) : Nat :=
  let stop := base + count
  if count ≠ 0 ∧ (4096 < stop ∨ (List.range 64).any (fun q => q != p && decide (base < pageBase s q + pageCount s q ∧ pageBase s q < stop ∧
      pageCount s q ≠ 0))) then 1
  else if (List.range (pageCount s p)).any (fun i =>
      let n := pageBase s p + i
      decide (n < base ∨ stop ≤ n) && wdf (slotBytes s n) 0 31 24 != 0) then 2
  else if rdb s (Reg.CIP_U_CMD_STAT p) 31 then 3
  else 0

/-- A write of CIP_PAGEp_SLOTS. -/
def pageSlotsWrite (s : State) (p : Nat) (v : Word) : State :=
  let c := slotsRefusal s p (fld v 11 0) (fld v 28 16)
  if c = 0 then plainWrite s (Reg.CIP_PAGE_SLOTS p) v
  else wrb (wrf (wrf s Reg.CIP_ADM_STAT 1 0 c) Reg.CIP_ADM_STAT 7 2 p) Reg.CIP_ADM_STAT 31 true

/-- PAGE_SLOTS_WRITE (R279). -/
def execPageSlotsWrite (who : Who) (page : Fin 64) (value : Word) (s : State) : Host.Outcome State Fault Refusal :=
  live s (swWrite s who (Reg.CIP_PAGE_SLOTS page) (fun s => pageSlotsWrite s page value))

/-- The value written to CIP_RNG_SEED0 waits for that of SEED1; only Benchmark writes them (R294, R297). -/
def rngSeedWrite (s : State) (who : Who) (a : Nat) (v : Word) : State :=
  match who with
  | .core _ => refuseAccess s srcCip who a true false
  | .bmk =>
    if a = (Reg.CIP_RNG_SEED 0) then stage s a v
    else { s with cip := { s.cip with seeded := true, seed := (stagedOr s (Reg.CIP_RNG_SEED 0) 0).toNat + 2 ^ 32 * v.toNat } }

/-- CIP_RNG_SEED (R294): a write of CIP_RNG_SEED1. -/
def execCipRngSeed (who : Who) (value : Word) (s : State) : Host.Outcome State Fault Refusal :=
  live s (swWrite s who (Reg.CIP_RNG_SEED 1) (fun s => rngSeedWrite s who (Reg.CIP_RNG_SEED 1) value))

/-- In M10 the engine abandons what it holds and zeroes the key registers (R296). -/
def cipFreeze (s : State) : State := { s with cip := { s.cip with cmds := [], jobs := [], ingress := [], results := [] } }

/-- What a read of the CIP page register at `a` returns. -/
def cipPageRead (s : State) (a : Nat) : Word :=
  let p := (a - 0x1085000000) / 2 ^ 16
  if a = Reg.CIP_STAT then
    let busy := ((List.range 8).map (fun c => if coreBusy s c then 2 ^ (8 + c) else 0)).sum
    BitVec.ofNat 32 ((cipRunning s).toNat + (frozen s).toNat * 2 + s.cip.seeded.toNat * 4 + busy)
  else match a % 2 ^ 16 with
    | 0x000 => BitVec.ofNat 32 p
    | 0x004 => rd s (Reg.CIP_PAGE_SLOTS p)
    | 0x008 => BitVec.ofNat 32 ((frozen s).toNat * 4 + (rdb s (Reg.CIP_U_CMD_STAT p) 31).toNat * 2 +
        (s.cip.jobs.any (fun j => j.ingress.isNone && j.page.val == p)).toNat)
    | _ => rd s a

/-- A write of `v` to the CIP page register at `a`. -/
def cipPageWrite (s : State) (who : Who) (a : Nat) (v : Word) : State :=
  let p := (a - 0x1085000000) / 2 ^ 16
  if a = (Reg.CIP_RNG_SEED 0) ∨ a = (Reg.CIP_RNG_SEED 1) then rngSeedWrite s who a v
  else if a = Reg.CIP_CTRL then plainWrite s a (setFld v 6 4 (min 4 (fld v 6 4)))
  else if a = Reg.CIP_SCHED then plainWrite s a (if fld v 9 0 = 0 then setFld v 9 0 1 else v)
  else if 0x1085008100 ≤ a ∧ a < 0x1085008200 then pageSlotsWrite s ((a - 0x1085008100) / 4) v
  else match a % 2 ^ 16 with
    | 0x010 => cipCmdWrite s p v
    | 0x100 => ringCfgWrite s who (.cip (Fin.ofNat 64 p)) v
    | 0x104 => ringBaseWrite s (.cip (Fin.ofNat 64 p)) v
    | _ => plainWrite s a v

end Sys2Proof.Machine
end

