-- ==== Sys2Proof/Machine/NetTime.lean ====
section
/-! DEFINITION. Network time (R330 to R334, R342): its value at any instant, segments, slews and steps; and the event log record every block's events end in (R404). -/

namespace Sys2Proof.Machine

/-- 2^48 seconds in units of 2^-32 ns (R330). -/
def ntWrap32 : Nat := 2 ^ 48 * 10 ^ 9 * 2 ^ 32

/-- 2^48 seconds in units of 2^-16 ns. -/
def ntWrap : Nat := 2 ^ 48 * 10 ^ 9 * 2 ^ 16

/-- The frequency offset in force. -/
def ffoOf (s : State) : Int := sint (rd s Reg.DTM_FFO)

/-- The slew rate in ppb. -/
def slewRate (s : State) : Nat := rdf s Reg.DTM_SLEW_CFG 15 0

/-- The current segment (R331). -/
def curSeg (s : State) : Seg := ⟨s.dtm.n0, s.dtm.m0, s.dtm.slew, ffoOf s, slewRate s⟩

/-- The part of a segment's slew added over `dx` / 262144 cycles (R333). -/
def slewAdded (g : Seg) (dx : Int) : Int :=
  let a := dx * g.rate
  if g.slew = 0 then 0 else if 0 ≤ g.slew then min g.slew a else max g.slew (-a)

/-- Network time in 2^-32 ns, `dx` / 262144 cycles after the start of a segment (R331). -/
def segAt (g : Seg) (dx : Int) : Int :=
  let num := dx * 2 ^ 16 * ((2 ^ 40 : Nat) + g.ffo) * 10 ^ 9 + slewAdded g dx * 2 ^ 16 * 2 ^ 40
  g.n0 + num / (5 * 10 ^ 9 * 2 ^ 40 : Nat)

/-- Begin a new segment at monotonic count `m`, the slew reduced by what has been added. -/
def segmentAt (s : State) (m : Nat) : State :=
  let g := curSeg s
  let dx : Int := ((m : Int) - g.m0) * 262144
  { s with dtm := { s.dtm with n0 := (segAt g dx % ntWrap32).toNat, m0 := m, slew := g.slew - slewAdded g dx, past := g :: s.dtm.past } }

/-- The monotonic count at which the slew has been added in full. -/
def slewEnd (s : State) : Nat :=
  let per := slewRate s * 262144
  s.dtm.m0 + (s.dtm.slew.natAbs + per - 1) / per

/-- The segment that holds now: a slew that has ended began a new one. -/
def settle (s : State) : State :=
  if s.dtm.slew ≠ 0 ∧ slewEnd s ≤ s.mono.toNat then segmentAt s (slewEnd s) else s

/-- Begin a new segment now. -/
def rebase (s : State) : State := segmentAt (settle s) s.mono.toNat

/-- Network time in a segment at an instant in 1/262144 of a cycle, in 2^-16 ns. -/
def segTime (g : Seg) (x : Int) : Nat := (segAt g (x - g.m0 * 262144) % ntWrap32).toNat / 2 ^ 16

/-- The segment that an instant lies in: the newest that had begun; the oldest for an instant before the first. -/
def segOf (x : Int) (cur : Seg) (past : List Seg) : Seg :=
  ((cur :: past).find? (fun g => decide ((g.m0 : Int) * 262144 ≤ x))).getD (past.getLast?.getD cur)

/-- Network time at an instant in 1/262144 of a cycle, in 2^-16 ns (R331, R342). -/
def ntAtX (s : State) (x : Int) : Nat :=
  let s := settle s
  segTime (segOf x (curSeg s) s.dtm.past) x

/-- Network time now, in 2^-16 ns. -/
def ntNow (s : State) : Nat := ntAtX s (s.mono.toNat * 262144)

/-- Network time at monotonic count `m`. -/
def ntAt (s : State) (m : Nat) : Nat := ntAtX s (m * 262144)

/-- Fields of a network time. -/
def ntFrac (n : Nat) : Nat := n % 2 ^ 16
def ntNs (n : Nat) : Nat := n / 2 ^ 16 % 10 ^ 9
def ntSec (n : Nat) : Nat := n / 2 ^ 16 / 10 ^ 9

/-- `a` − `b` modulo 2^48 s, as the nearest signed difference. -/
def ntDiff (a b : Nat) : Int :=
  let d := (a + ntWrap - b % ntWrap) % ntWrap
  if ntWrap / 2 ≤ d then (d : Int) - ntWrap else d

/-- The first count from `lo` up to `lo + 2^n` at which network time has reached `t` (bisection). -/
def ntReach (s : State) (t : Nat) : Nat → Nat → Nat
  | 0, lo => if 0 ≤ ntDiff (ntAt s lo) t then lo else lo + 1
  | n + 1, lo => if 0 ≤ ntDiff (ntAt s (lo + 2 ^ n - 1)) t then ntReach s t n lo else ntReach s t n (lo + 2 ^ n)

/-- Time moves on until network time has reached `t`. -/
def ntWait (s : State) (t : Nat) : State := notBefore s (ntReach s t 62 s.mono.toNat)

/-- The head frame of a class queue is judged against the time stepped from `b` to `a` (R322): a forward step that passes its launch time has it judged late or not under R320; one judged late waits again where a backward step puts its launch time ahead. -/
def stepJudge (b a : Nat) : List TxFrame → List TxFrame
  | [] => []
  | x :: xs =>
    match x.launch with
    | some t => (if ntDiff b t < 0 ∧ 0 < ntDiff a t then { x with judged := false }
        else if x.late ∧ ntDiff a t < 0 then { x with late := false } else x) :: xs
    | none => x :: xs

/-- Add `d` (2^-16 ns) to network time; a step ends any slew (R334). -/
def ntStep (s : State) (d : Int) : State :=
  let b := ntNow s
  let s := rebase s
  let s := { s with dtm := { s.dtm with n0 := (((s.dtm.n0 : Int) + d * 2 ^ 16) % ntWrap32).toNat, slew := 0 } }
  let s := { s with pkt := { s.pkt with eg := s.pkt.eg.map (fun e => (e.1, stepJudge b (ntNow s) e.2)) } }
  orr (inc s Reg.DTM_STEP_COUNT) Reg.DTM_INT_STAT 8

/-- The monotonic instant of a capture corrected by `c` (2^-16 ns), in 1/262144 of a cycle: a raw instant is a count with a 16-bit fraction (R342). -/
def corrX (raw : Nat) (c : Int) : Int := 4 * raw + 5 * c

/-! ### The event log (R404, R405) -/

/-- Event codes whose numbers the spec does not give. -/
def evMODE : Nat := 0
def evTHRESH : Nat := 1
def evEXT : Nat := 2
def evNOIMAGE : Nat := 3
def evCAL : Nat := 4
def evREJECT : Nat := 5

/-- The flash log after records are added: it holds 32 768 of them, and the oldest erase block of 2 048 goes when it needs room (R405). -/
def flashAdd (l : List EvRec) (n : List EvRec) : List EvRec :=
  let x := l ++ n
  x.drop ((x.length - 32768 + 2047) / 2048 * 2048)

/-- Copy the records not yet in flash to the flash log (R405). -/
def logFlush (s : State) : State :=
  { s with bmk := { s.bmk with flashLog := flashAdd s.bmk.flashLog (s.bmk.log.drop (s.bmk.log.length - s.bmk.unsaved)), unsaved := 0 } }

/-- Write an event record (R404): the ring holds 2 048, and an ERROR or FATAL record goes to flash at once (R405). -/
def evLog (s : State) (sev src : Nat) (code : BitVec 16) (arg : Word) (data : BitVec 64) : State :=
  let r : EvRec := ⟨s.mono, BitVec.ofNat 32 (ntSec (ntNow s)), BitVec.ofNat 16 s.bmk.seq, sev, src, code, arg, data⟩
  let full := 2048 ≤ s.bmk.log.length
  let s := if full then inc s Reg.BMK_LOG_OVW else s
  let l := (if full then s.bmk.log.drop 1 else s.bmk.log) ++ [r]
  let s := { s with bmk := { s.bmk with log := l, seq := (s.bmk.seq + 1) % 65536, unsaved := min 2048 (s.bmk.unsaved + 1) } }
  if 2 ≤ sev then logFlush (orr s Reg.BMK_INT_STAT 8) else s

/-- Write an event of Benchmark or another block whose code number the spec leaves open. -/
def evNamed (s : State) (sev src ev : Nat) (arg : Word) : State :=
  evLog s sev src (Config.eventCode ev) arg 0

/-- An event of Benchmark whose severity the spec leaves open too. -/
def evBmk (s : State) (ev : Nat) (arg : Word) : State := evNamed s (Config.eventSev ev).val 0 ev arg

/-- The part enters mode `m` (R426). -/
def modeChange (s : State) (m : Nat) : State :=
  let s := orr (wrf s Reg.PWR_MODE 3 0 m) Reg.PWR_INT_STAT 1
  evNamed s 0 srcPwr evMODE (Config.eventArg evMODE m)

end Sys2Proof.Machine
end

