-- ==== Sys2Proof/Machine/Datum.lean ====
section
/-! DEFINITION. Datum (file 13): reads of network time, ffo, slews, steps, the servo, event pins, captures, SyncE. -/

namespace Sys2Proof.Machine

/-! ### Rationals -/

/-- Reduce a rational with a positive denominator. -/
def Frac.red (x : Frac) : Frac := let g := Nat.gcd x.1.natAbs x.2; (x.1 / (g : Int), x.2 / g)

def Frac.add (x y : Frac) : Frac := Frac.red (x.1 * y.2 + y.1 * x.2, x.2 * y.2)

/-- x × num / den. -/
def Frac.scale (x : Frac) (num : Int) (den : Nat) : Frac := Frac.red (x.1 * num, x.2 * den)

def Frac.le (x y : Frac) : Bool := decide (x.1 * y.2 ≤ y.1 * x.2)

/-- rne(x × 2^40). -/
def Frac.u40 (x : Frac) : Int := rne (x.1 * (2 ^ 40 : Nat)) x.2

/-! ### Registers of the clocks -/

/-- Servo source of Table 13.1. -/
def srvSrc (s : State) : Nat := rdf s Reg.DTM_SRV_CFG 2 0

/-- Software owns ffo and the slew. -/
def swOwns (s : State) : Bool := srvSrc s == 0

/-- NT_READ_LATCH (R332): a read of DTM_NT_FRAC latches the other fields and the count. -/
def ntReadLatch (s : State) : State × Word :=
  let n := ntNow s
  let s := wr s Reg.DTM_NT_NS (BitVec.ofNat 32 (ntNs n))
  let s := wr2 s Reg.DTM_NT_SEC_LO Reg.DTM_NT_SEC_HI (ntSec n)
  let s := { s with latches := SMap.put (0, []) s.latches Reg.DTM_NT_FRAC (1, []) }
  (wr2 s Reg.DTM_NT_MONO_LO Reg.DTM_NT_MONO_HI s.mono.toNat, BitVec.ofNat 32 (ntFrac n))

/-- A read of DTM_NT_NS to DTM_NT_MONO_HI: the latched word, or before any latch the current one (R7). -/
def ntUpper (s : State) (a : Nat) : Word :=
  if SMap.get (0, []) s.latches Reg.DTM_NT_FRAC = (1, []) then rd s a else rd (ntReadLatch s).1 a

/-- NT_READ_LATCH (R332). -/
def execNtReadLatch (who : Who) (s : State) : Host.Outcome State Fault Refusal :=
  live s (swRead s who Reg.DTM_NT_FRAC ntReadLatch)

/-- Set ffo: a new segment begins where it changes (R331). -/
def setFfo (s : State) (v : Int) : State :=
  if ofSint 32 v = rd s Reg.DTM_FFO then s
  else
  let s := rebase s
  let d := { s.dtm with ffoAcc := s.dtm.ffoAcc + ffoOf s * ((s.mono.toNat : Int) - s.dtm.ffoMark), ffoMark := s.mono.toNat }
  wr { s with dtm := d } Reg.DTM_FFO (ofSint 32 v)

/-- Time moves on to the cycle after `at`, if it is still in it: Datum applies the events of one cycle in the order of R341, so that one which comes after an event that R341 puts behind it belongs to a later cycle. DESIGN CHOICE, log entry 116. -/
def laterThan (s : State) (when : Option Nat) : State :=
  match when with
  | some m => notBefore s (m + 1)
  | none => s

/-- Software writes ffo or a slew in this cycle (R341). -/
def tuned (s : State) : State :=
  let s := laterThan s s.dtm.measAt
  { s with dtm := { s.dtm with tuneAt := some s.mono.toNat } }

/-- A write of DTM_FFO: ignored unless src is NONE. -/
def ffoWrite (s : State) (v : Word) : State := if swOwns s then setFfo (tuned s) (sint v) else s

/-- FFO_WRITE (R331). -/
def execFfoWrite (who : Who) (value : Word) (s : State) : Host.Outcome State Fault Refusal :=
  live s (swWrite s who Reg.DTM_FFO (fun s => ffoWrite s value))

/-- The slew not yet added now. -/
def slewLeft (s : State) : Int := (rebase s).dtm.slew

/-- A write of DTM_SLEW_OFS starts a slew, or replaces the amount left (R333). -/
def slewWrite (s : State) (v : Word) : State :=
  if swOwns s then
    let s := tuned s
    let s := if slewLeft s = 0 ∧ v = 0 then settle s else rebase s
    { s with dtm := { s.dtm with slew := sint v * (5 * 10 ^ 9) } }
  else s

/-- SLEW_WRITE (R333). -/
def execSlewWrite (who : Who) (value : Word) (s : State) : Host.Outcome State Fault Refusal :=
  live s (swWrite s who Reg.DTM_SLEW_OFS (fun s => slewWrite s value))

/-- SLEW_END (R333): the amount has been added; a new segment begins. -/
def execSlewEnd (s : State) : Host.Outcome State Fault Refusal :=
  live s (if s.dtm.slew = 0 then s else settle (notBefore s (slewEnd s)))

/-- DTM_SLEW_OFS as read: rounded away from zero to 2^-16 ns (R333). -/
def slewRead (s : State) : Word :=
  let x := slewLeft s
  let n : Nat := (x.natAbs + 5 * 10 ^ 9 - 1) / (5 * 10 ^ 9)
  ofSint 32 (if x < 0 then -(n : Int) else n)

/-! ### Servo states (R340) -/

/-- DTM_INT_STAT bits. -/
def dtmInt (s : State) (bit : Nat) : State := orr s Reg.DTM_INT_STAT (BitVec.ofNat 32 (2 ^ bit))

/-- The servo enters LOCKED; in M7 the part returns to its origin mode (Table 16.2). -/
def enterLocked (s : State) : State :=
  let s := wrb (dtmInt { s with dtm := { s.dtm with state := 2, outCnt := 0 } } 5) Reg.PWR_MODE 17 false
  if mode s = 7 then modeChange s (rdf s Reg.PWR_MODE 11 8) else s

/-- The servo enters HOLDOVER; from M4, M5 and M6 the part enters M7 (Table 16.2). -/
def enterHoldover (s : State) : State :=
  let s := dtmInt { s with dtm := { s.dtm with state := 3, holdSince := s.mono.toNat } } 6
  let s := wrb s Reg.PWR_MODE 17 true
  let m := mode s
  if m = 4 ∨ m = 5 ∨ m = 6 then modeChange (wrf s Reg.PWR_MODE 11 8 m) 7 else s

/-- The servo enters ACQUIRE; from FREE and HOLDOVER fi takes the ffo in force (R338). -/
def enterAcquire (s : State) : State :=
  let fi := if s.dtm.state = 0 ∨ s.dtm.state = 3 then (ffoOf s, 2 ^ 40) else s.dtm.fi
  wrb { s with dtm := { s.dtm with state := 1, fi := fi, inCnt := 0, outCnt := 0 } } Reg.PWR_MODE 17 false

/-- The servo enters FREE. -/
def enterFree (s : State) : State := wrb { s with dtm := { s.dtm with state := 0 } } Reg.PWR_MODE 17 false

/-! ### Steps (R334, R338, R339) -/

/-- A step applied while the servo is locked ends the lock (Table 13.2). -/
def unlock (s : State) : State := if s.dtm.state = 2 then enterAcquire s else s

/-- The software step in the STEP registers, in 2^-16 ns. -/
def stepAmount (s : State) : Int :=
  (sext 48 (rd2 s Reg.DTM_STEP_S_LO Reg.DTM_STEP_S_HI) * 10 ^ 9 + sint (rd s Reg.DTM_STEP_NS)) * 65536

/-- An output instant was passed by a forward step, or had passed when the output was armed (R349). -/
def evoPast (s : State) (t : Nat) : Bool := decide (0 < ntDiff (ntNow s) t)

/-- Output `k` of the pins: 0 to 3 TIME_EVT_OUT, 4 PPS_OUT. -/
def outAt (s : State) (k : Nat) : PulseOut := SMap.get PulseOut.reset s.dtm.outs k
def setOut (s : State) (k : Nat) (p : PulseOut) : State := { s with dtm := { s.dtm with outs := SMap.put PulseOut.reset s.dtm.outs k p } }

/-- The period of output `k` in ns: one second for PPS_OUT. -/
def outPeriod (s : State) (k : Nat) : Nat := if k = 4 then 10 ^ 9 else (rd s (Reg.DTM_EVO_PERIOD k)).toNat

/-- The width of a pulse in ns (R348, R350). -/
def outWidth (s : State) (k : Nat) : Nat :=
  if k = 4 then rdf s Reg.DTM_PPSO_CFG 23 4 * 1000 else min (rd s (Reg.DTM_EVO_WIDTH k)).toNat (outPeriod s k - 8)

/-- The output repeats. -/
def outRepeats (s : State) (k : Nat) : Bool := k == 4 || rdf s (Reg.DTM_EVO_CFG k) 1 0 == 2

/-- The output is in a mode that pulses. -/
def outPulses (s : State) (k : Nat) : Bool :=
  if k = 4 then rdb s Reg.DTM_PPSO_CFG 0 else rdf s (Reg.DTM_EVO_CFG k) 1 0 == 1 || rdf s (Reg.DTM_EVO_CFG k) 1 0 == 2

/-- The register and bit of the output's late flag. -/
def outLate (s : State) (k : Nat) : State :=
  dtmInt (wrb s (if k = 4 then Reg.DTM_PPSO_CFG else Reg.DTM_EVO_CFG k) 3 true) 2

/-- The first instant of a repeating output still in the future, at or after instant `t`. -/
def nextFuture (s : State) (k t : Nat) : Nat :=
  let p := outPeriod s k * 65536
  let d := ntDiff (ntNow s) t
  if d < 0 then t else (t + p * (d.toNat / p + 1)) % ntWrap

/-- A pulse starts now; a repeating output goes on to instant `next`. -/
def startPulse (s : State) (k next : Nat) : State :=
  let o := outAt s k
  setOut s k { o with armed := o.armed && outRepeats s k, next := next, high := true, stop := s.mono.toNat + (outWidth s k * 5 + 3) / 4 }

/-- An instant that has been missed: one pulse at once, late, and the first future instant next (R349). -/
def latePulse (s : State) (k : Nat) : State :=
  outLate (startPulse s k (nextFuture s k (outAt s k).next)) k

/-- Judge every armed output after a step. -/
def outsAfterStep (s : State) : State :=
  foldS (fun s k => if (outAt s k).armed && outPulses s k && evoPast s (outAt s k).next then latePulse s k else s) [0, 1, 2, 3, 4] s

/-- A step of `d` (2^-16 ns): network time, the lock, and the outputs. -/
def doStep (s : State) (d : Int) : State := outsAfterStep (unlock (ntStep s d))

/-- The step that waits (pend_val), in 2^-16 ns. -/
def pendVal (s : State) : Int := sext 64 (rd2 s Reg.DTM_STEP_PEND_LO Reg.DTM_STEP_PEND_HI)

/-- A software step or a confirm comes in this cycle, before Datum's other events in it (R341): the pending step is gone. -/
def stepping (s : State) : State :=
  let s := laterThan (laterThan s s.dtm.measAt) s.dtm.tuneAt
  { s with dtm := { s.dtm with pend := false, stepAt := some s.mono.toNat } }

/-- go: a software step; it withdraws any pending step. -/
def stepGo (s : State) : State := doStep (stepping s) (stepAmount s)

/-- confirm: apply the pending step (R339); a locked servo goes to ACQUIRE (Table 13.2), and the next measurement is a first one (Table 13.3). -/
def stepConfirm (s : State) : State :=
  if s.dtm.pend then
    let s := doStep (stepping s) (pendVal s)
    { s with dtm := { s.dtm with first := true } }
  else s

/-- cancel (R339). -/
def stepCancel (s : State) : State := { s with dtm := { s.dtm with pend := false } }

/-- A write of DTM_STEP_CTRL. -/
def stepCtrlWrite (s : State) (v : Word) : State :=
  let s := if v.getLsbD 0 then stepGo s else s
  let s := if v.getLsbD 1 then stepConfirm s else s
  if v.getLsbD 2 then stepCancel s else s

/-- STEP_GO (R334). -/
def execStepGo (who : Who) (s : State) : Host.Outcome State Fault Refusal :=
  live s (swWrite s who Reg.DTM_STEP_CTRL (fun s => stepCtrlWrite s 1))
/-- STEP_CONFIRM (R339). -/
def execStepConfirm (who : Who) (s : State) : Host.Outcome State Fault Refusal :=
  live s (swWrite s who Reg.DTM_STEP_CTRL (fun s => stepCtrlWrite s 2))
/-- STEP_CANCEL (R339). -/
def execStepCancel (who : Who) (s : State) : Host.Outcome State Fault Refusal :=
  live s (swWrite s who Reg.DTM_STEP_CTRL (fun s => stepCtrlWrite s 4))

/-! ### The servo (R336 to R341) -/

/-- A write of DTM_SRV_CFG: its src puts the servo in FREE; hours return to 0 when src changes (R354). -/
def srvCfgWrite (s : State) (v : Word) : State :=
  let old := srvSrc s
  let s := enterFree (plainWrite s Reg.DTM_SRV_CFG v)
  let s := { s with dtm := { s.dtm with pend := false, first := true } }
  if srvSrc s = old then s
  else wrf { s with dtm := { s.dtm with learnSec := 0, c0Hist := [], ageDue := false } } Reg.DTM_PLUMB_STAT 31 16 0

/-- SERVO_SOURCE_WRITE (R336). -/
def execServoSourceWrite (who : Who) (value : Word) (s : State) : Host.Outcome State Fault Refusal :=
  live s (swWrite s who Reg.DTM_SRV_CFG (fun s => srvCfgWrite s value))

/-- ffo limited by DTM_SRV_FFO_LIM. -/
def clampFfo (s : State) (x : Int) : Int :=
  let l : Int := min (rd s Reg.DTM_SRV_FFO_LIM).toNat (2 ^ 31 - 1)
  clampInt (-l) l x

/-- The counts of measurements in and out of the lock threshold, and what they lead to (R338, R340). -/
def srvCount (s : State) (o : Int) : State :=
  let inside := o.natAbs ≤ rdf s Reg.DTM_SRV_LOCK 15 0 * 65536
  let d := s.dtm
  let s := { s with dtm := if inside then { d with inCnt := d.inCnt + 1, outCnt := 0 } else { d with outCnt := d.outCnt + 1, inCnt := 0 } }
  if s.dtm.state = 1 ∧ 16 ≤ s.dtm.inCnt then enterLocked s
  else if s.dtm.state = 2 ∧ 16 ≤ s.dtm.outCnt then enterAcquire s
  else s

/-- The phase loop's update of ffo over `dm` counts (R338). -/
def srvLoop (s : State) (o : Int) (dm : Nat) : State :=
  let u : Frac := Frac.red (-5 * o, 262144 * dm)
  let ki := rdf s Reg.DTM_SRV_CFG 11 8
  let kp := rdf s Reg.DTM_SRV_CFG 7 4
  let fi := if srvSrc s = 4 then (sint (rd s Reg.DTM_SYNCE_FFO), 2 ^ 40) else Frac.add s.dtm.fi (Frac.scale u 1 (2 ^ ki))
  let s := setFfo { s with dtm := { s.dtm with fi := fi } } (clampFfo s (Frac.u40 (Frac.add fi (Frac.scale u 1 (2 ^ kp)))))
  srvCount s o

/-- A measurement inside the step limit. -/
def srvTrack (s : State) (o : Int) : State :=
  let m := s.mono.toNat
  let dm := m - s.dtm.mPrev
  let first := s.dtm.first
  let s := { s with dtm := { s.dtm with mPrev := m, first := false } }
  if first ∨ dm = 0 then s else srvLoop s o dm

/-- A measurement outside the step limit: a backward step above the threshold waits for software, any other is applied (R338, R339). -/
def srvStep (s : State) (o : Int) : State :=
  if 0 < o ∧ (rd s Reg.DTM_STEP_THRESH).toNat * 65536 < o then
    dtmInt (wr2 { s with dtm := { s.dtm with pend := true } } Reg.DTM_STEP_PEND_LO Reg.DTM_STEP_PEND_HI (trunc 64 (-o))) 4
  else
    let s := doStep s (-o)
    let s := if s.dtm.state = 1 then s else enterAcquire s
    { s with dtm := { s.dtm with first := true } }

/-- The servo discards a measurement: in M10, or in the cycle of a software step or confirm (R341, R359). -/
def srvDiscards (s : State) : Bool := frozen s || s.dtm.stepAt == some s.mono.toNat

/-- A measurement `o` in 2^-16 ns (R338). -/
def srvMeasure (s : State) (o : Int) : State :=
  if srvDiscards s then inc s Reg.DTM_SRV_DISCARD
  else
    let s := wr2 { s with dtm := { s.dtm with measAt := some s.mono.toNat } } Reg.DTM_SRV_LAST_LO Reg.DTM_SRV_LAST_HI (trunc 64 o)
    let s := if s.dtm.state = 0 ∨ s.dtm.state = 3 then enterAcquire s else s
    let s := { s with dtm := { s.dtm with lastMeas := s.mono.toNat } }
    let big := (rd s Reg.DTM_SRV_LIM).toNat * 65536 ≤ o.natAbs
    if s.dtm.pend ∧ big then wr2 s Reg.DTM_STEP_PEND_LO Reg.DTM_STEP_PEND_HI (trunc 64 (-o))
    else
      let s := if s.dtm.pend then inc { s with dtm := { s.dtm with pend := false } } Reg.DTM_STEP_WITHDRAWN else s
      if big then srvStep s o else srvTrack s o

/-- A write of DTM_SRV_MEAS_HI: the measurement of PTP and HYBRID (R337). -/
def measWrite (s : State) (v : Word) : State :=
  let o := sext 64 ((stagedOr s Reg.DTM_SRV_MEAS_LO 0).toNat + v.toNat * 2 ^ 32)
  if srvSrc s = 1 ∨ srvSrc s = 4 then srvMeasure s o else s

/-- SERVO_MEASUREMENT (R337, R338): a write of DTM_SRV_MEAS_HI after one of DTM_SRV_MEAS_LO. -/
def execServoMeasurement (who : Who) (lo hi : Word) (s : State) : Host.Outcome State Fault Refusal :=
  live s (swWrite s who Reg.DTM_SRV_MEAS_HI (fun s => measWrite (stage s Reg.DTM_SRV_MEAS_LO lo) hi))

/-- The count at which the servo gives a source up (R340). -/
def lossAt (s : State) : Nat := s.dtm.lastMeas + rdf s Reg.DTM_SRV_LOCK 31 16 * 125000000

/-- SERVO_LOSS_TIMEOUT (R340): ACQUIRE goes to FREE, LOCKED to HOLDOVER; under SYNCE a lock is lost by an invalid window alone (Table 13.2). -/
def execServoLossTimeout (s : State) : Host.Outcome State Fault Refusal :=
  live s (if s.dtm.state = 1 then enterFree (notBefore s (lossAt s))
    else if s.dtm.state = 2 ∧ srvSrc s ≠ 3 then enterHoldover (notBefore s (lossAt s))
    else s)

/-! ### SyncE (R352) -/

/-- A valid window: SYNCE takes its offset, and locks. -/
def synceValid (s : State) (ys : Word) : State :=
  let s := wr { s with dtm := { s.dtm with synceValid := true } } Reg.DTM_SYNCE_FFO ys
  if srvSrc s = 3 then
    if srvDiscards s then inc s Reg.DTM_SRV_DISCARD
    else
      let s := if s.dtm.state = 0 ∨ s.dtm.state = 3 then enterAcquire s else s
      let s := setFfo { s with dtm := { s.dtm with lastMeas := s.mono.toNat, measAt := some s.mono.toNat } } (sint ys)
      if s.dtm.state = 1 then enterLocked s else s
  else s

/-- An invalid window: SYNCE loses its lock. -/
def synceInvalid (s : State) : State :=
  let s := { s with dtm := { s.dtm with synceValid := false } }
  if srvSrc s = 3 ∧ s.dtm.state = 2 then enterHoldover s else s

/-- The port whose recovered clock SyncE counts. -/
def syncePort (s : State) : Nat := rdf s Reg.DTM_SYNCE_CFG 7 4

/-- Port `n`'s link is up. -/
def linkUp (s : State) (n : Nat) : Bool := rdb s (Reg.ETH_STAT n) 0

/-- A SyncE window begins now. -/
def synceOpen (s : State) : State :=
  { s with dtm := { s.dtm with synceStart := s.mono.toNat, synceLost := !linkUp s (syncePort s) } }

/-- The port has had its link throughout the window. -/
def synceKept (s : State) : Bool := linkUp s (syncePort s) && !s.dtm.synceLost

/-- SYNCE_WINDOW (R352): a window ends; `offset` is what it measured, none when it measured nothing. A window in which the port lost its link is invalid. -/
def execSynceWindow (offset : Option Word) (s : State) : Host.Outcome State Fault Refusal :=
  live s (if rdb s Reg.DTM_SYNCE_CFG 0 then
    let t := s.dtm.synceStart + 2 ^ rdf s Reg.DTM_SYNCE_CFG 11 8 * 1250000000
    let s := notBefore s t
    match if synceKept s then offset else none with
    | some ys => synceValid (synceOpen s) ys
    | none => synceInvalid (synceOpen s)
  else s)

/-! ### Event outputs (R348 to R350) -/

/-- The start time in the START registers, in 2^-16 ns. -/
def evoStart (s : State) (k : Nat) : Nat :=
  (rd2 s (Reg.DTM_EVO_START_S_LO k) (Reg.DTM_EVO_START_S_HI k) * 10 ^ 9 + rdf s (Reg.DTM_EVO_START_NS k) 29 0) * 65536 % ntWrap

/-- The low word that waits for the high word `a` of a wide value is taken over (R7). -/
def takeStaged (s : State) (low : Nat) : State :=
  let s := plainWrite s low (stagedOr s low (rd s low))
  { s with staged := SMap.put none s.staged low none }

/-- A write of DTM_EVOk_START_S_HI, with the low word that waits for it (R7), arms the output (R348); an instant already passed gives a late pulse (R349). -/
def evoArm (s : State) (k : Nat) (v : Word) : State :=
  let s := plainWrite (takeStaged s (Reg.DTM_EVO_START_S_LO k)) (Reg.DTM_EVO_START_S_HI k) v
  let s := setOut s k { outAt s k with armed := true, next := evoStart s k }
  if outPulses s k && evoPast s (outAt s k).next then latePulse s k else s

/-- EVENT_OUT_ARM (R348). -/
def execEventOutArm (who : Who) (out : Fin 4) (value : Word) (s : State) : Host.Outcome State Fault Refusal :=
  live s (swWrite s who (Reg.DTM_EVO_START_S_HI out) (fun s => evoArm s out value))

/-- Network time reaches the output's instant. -/
def outReached (s : State) (k : Nat) : State :=
  if (outAt s k).armed && outPulses s k then
    let t := (outAt s k).next
    startPulse (ntWait s t) k ((t + outPeriod s k * 65536) % ntWrap)
  else s

/-- EVENT_OUT_PULSE (R349). -/
def execEventOutPulse (out : Fin 4) (s : State) : Host.Outcome State Fault Refusal := live s (outReached s out)

/-- PPS_OUT_PULSE (R350). -/
def execPpsOutPulse (s : State) : Host.Outcome State Fault Refusal := live s (outReached s 4)

/-- EVENT_OUT_PULSE_END (R348): output 4 is PPS_OUT. -/
def execEventOutPulseEnd (out : Fin 5) (s : State) : Host.Outcome State Fault Refusal :=
  live s (if (outAt s out).high then
    let s := notBefore s (outAt s out).stop
    setOut s out { outAt s out with high := false }
  else s)

/-- The whole second that follows now, in 2^-16 ns. -/
def nextSecond (s : State) : Nat := (ntNow s / (10 ^ 9 * 65536) + 1) * (10 ^ 9 * 65536) % ntWrap

/-- A write of DTM_PPSO_CFG (Table 13.9); enabling aims at the next whole second. -/
def ppsoWrite (s : State) (v : Word) : State :=
  let was := rdb s Reg.DTM_PPSO_CFG 0
  let w := fld v 23 4
  let s := plainWrite s Reg.DTM_PPSO_CFG (setFld v 23 4 (if w = 0 then 1 else min w 999999))
  if v.getLsbD 0 && !was then setOut s 4 { outAt s 4 with armed := true, next := nextSecond s }
  else if !v.getLsbD 0 then setOut s 4 { outAt s 4 with armed := false, high := false } else s

/-- A write of DTM_EVOk_CFG: in mode OFF the output is low (R348), in mode RCLK it carries the recovered clock of port rport divided by div (R352). -/
def evoCfgWrite (s : State) (k : Nat) (v : Word) : State :=
  let s := plainWrite s (Reg.DTM_EVO_CFG k) v
  let clock := if fld v 1 0 = 3 then some (fld v 15 12, fld v 31 16) else none
  setOut s k { outAt s k with high := (outAt s k).high && decide (fld v 1 0 ≠ 0 ∧ fld v 1 0 ≠ 3), clock := clock }

/-! ### Captures (R351) -/

def inAt (s : State) (i : Nat) : CapIn := SMap.get CapIn.reset s.dtm.ins i
def setIn (s : State) (i : Nat) (c : CapIn) : State := { s with dtm := { s.dtm with ins := SMap.put CapIn.reset s.dtm.ins i c } }

/-- The edge is one the input selects. -/
def edgeWanted (s : State) (i : Nat) (rising : Bool) : Bool :=
  let a := Reg.DTM_EVI_CFG i
  rdb s a 0 && (if rising then rdb s a 1 else rdb s a 2)

/-- The PPS measurement of a capture (R337): distance to the nearest whole second. -/
def ppsOffset (n : Nat) : Int :=
  let sec := 10 ^ 9 * 65536
  let r := n % sec
  if 2 * r < sec then r else (r : Int) - sec

/-- The network time of an edge now at input `i`, less its delay. -/
def captureTime (s : State) (i : Nat) : Nat :=
  (((ntNow s : Int) - sext 16 (rdf s (Reg.DTM_EVI_CFG i) 31 16) * 65536) % ntWrap).toNat

/-- An edge is captured, or lost. -/
def capture (s : State) (i : Nat) (rising : Bool) : State :=
  let c := inAt s i
  let m := s.mono.toNat
  let soon := c.last.any (fun l => decide (m < l + 13))
  if soon ∨ 4 ≤ c.fifo.length then dtmInt (inc s (Reg.DTM_EVI_OVF i)) 0
  else dtmInt (setIn s i ⟨c.fifo ++ [(rising, captureTime s i)], some m⟩) 1

/-- EVENT_IN_CAPTURE (R351); with src PPS, a capture of input 4 is a measurement. -/
def execEventInCapture (inp : Fin 5) (rising : Bool) (s : State) : Host.Outcome State Fault Refusal :=
  live s (if edgeWanted s inp rising then
    let n := (inAt s inp).fifo.length
    let t := captureTime s inp
    let s := capture s inp rising
    if inp = 4 ∧ srvSrc s = 2 ∧ n < (inAt s inp).fifo.length then srvMeasure s (ppsOffset t) else s
  else s)

/-- A read of DTM_EVIi_TS0 pops a capture and latches the rest (R351). -/
def capturePop (s : State) (i : Nat) : State × Word :=
  match (inAt s i).fifo with
  | [] => (s, 0)
  | (rise, n) :: cs =>
    let s := setIn s i { inAt s i with fifo := cs }
    let s := wr s (Reg.DTM_EVI_TS1 i) (BitVec.ofNat 32 (ntNs n))
    (wr2 s (Reg.DTM_EVI_TS2 i) (Reg.DTM_EVI_TS3 i) (ntSec n), BitVec.ofNat 32 (2 ^ 31 + rise.toNat * 2 ^ 30 + ntFrac n))

/-- CAPTURE_POP (R351). -/
def execCapturePop (who : Who) (inp : Fin 5) (s : State) : Host.Outcome State Fault Refusal :=
  live s (swRead s who (Reg.DTM_EVI_TS0 inp) (fun s => capturePop s inp))

/-! ### Freeze, and the page (R359, R360) -/

/-- On entry to M10 a locked servo enters HOLDOVER (R359). -/
def dtmFreeze (s : State) : State := if s.dtm.state = 2 then enterHoldover s else s

/-- Own quality reported to peers (R356). -/
def qSelf (s : State) : Nat :=
  if s.dtm.state = 2 ∧ srvSrc s ≠ 0 then 15
  else if s.dtm.state = 3 then max 1 (14 - (s.mono.toNat - s.dtm.holdSince) / (3600 * 1250000000) / 2)
  else 0

/-- The peers of the table, highest quality first (R357). -/
def peerTable (s : State) : List Peer := s.dtm.peers.filter (·.inTable)

/-- DTM_PEERj and DTM_PEERj_R. -/
def peerWord (s : State) (j : Nat) : Word :=
  match (peerTable s)[j]? with
  | some p => BitVec.ofNat 32 (2 ^ 31 + p.used.toNat * 2 ^ 30 + p.q * 2 ^ 26 + p.addr)
  | none => 0
def peerRWord (s : State) (j : Nat) : Word :=
  match (peerTable s)[j]? with
  | some p => match p.r with
    | some r => ofSint 32 (satTo 32 (Frac.u40 r)).1
    | none => 0
  | none => 0

/-- What a read of the DTM page register at `a` returns. -/
def dtmPageRead (s : State) (a : Nat) : Word :=
  let o := a % 4096
  if 0x800 ≤ o ∧ o < 0x900 then (if o % 8 = 0 then peerWord s ((o - 0x800) / 8) else peerRWord s ((o - 0x800) / 8))
  else if 0x100 ≤ o ∧ o < 0x180 ∧ o % 32 = 0 then setBit (rd s a) 2 (outAt s ((o - 0x100) / 32)).armed
  else match o with
    | 0x004 => BitVec.ofNat 32 (s.dtm.state + s.dtm.pend.toNat * 8 + (slewLeft s != 0).toNat * 16 + s.dtm.synceValid.toNat * 32)
    | 0x010 => BitVec.ofNat 32 s.mono.toNat
    | 0x01C => ntUpper s a
    | 0x020 => ntUpper s a
    | 0x024 => ntUpper s a
    | 0x028 => ntUpper s a
    | 0x02C => ntUpper s a
    | 0x014 => BitVec.ofNat 32 (s.mono.toNat / 2 ^ 32)
    | 0x034 => slewRead s
    | 0x3AC => BitVec.ofNat 32 (qSelf s)
    | _ => rd s a

/-- DTM_PTP_CFG.tx_onestep is held at 0 in this mode (Table 16.1). -/
def onestepHeld (s : State) : Bool :=
  let f (m : Nat) : Bool := m != 6 && m != 11
  let org := rdf s Reg.PWR_MODE 11 8
  match mode s with
  | 10 => false
  | 7 => f org
  | 8 => f org
  | 9 =>
    match rdf s Reg.PWR_MODE 15 12 with
    | 7 => f org
    | 8 => f org
    | p => f p
  | m => f m

/-- A write of DTM_SLEW_CFG: a rate of 0 stores 1; a new segment begins where a slew goes on at another rate (R331). -/
def slewRateWrite (s : State) (v : Word) : State :=
  let r := max 1 (fld v 15 0)
  plainWrite (if slewLeft s ≠ 0 ∧ r ≠ slewRate s then rebase s else settle s) Reg.DTM_SLEW_CFG (setFld v 15 0 r)

/-- A write of `v` to the DTM page register at `a`. -/
def dtmPageWrite (s : State) (a : Nat) (v : Word) : State :=
  let o := a % 4096
  let k := (o - 0x100) / 32
  if 0x100 ≤ o ∧ o < 0x180 then
    match o % 32 with
    | 0x00 => evoCfgWrite s k v
    | 0x0C => evoArm s k v
    | 0x10 => plainWrite s a (if v.toNat < 16 then 16 else v)
    | 0x14 => plainWrite s a (if v.toNat < 8 then 8 else v)
    | _ => plainWrite s a v
  else match o with
    | 0x030 => ffoWrite s v
    | 0x034 => slewWrite s v
    | 0x038 => slewRateWrite s v
    | 0x04C => stepCtrlWrite s v
    | 0x060 => srvCfgWrite s v
    | 0x070 => stage s a v
    | 0x074 => measWrite s v
    | 0x090 => plainWrite s a (if onestepHeld s then setBit v 1 false else v)
    | 0x0A0 => synceOpen (plainWrite s a v)
    | 0x0B0 => ppsoWrite s v
    | _ => plainWrite s a v

end Sys2Proof.Machine
end

