-- ==== Sys2Proof/Machine/PktBase.lean ====
section
/-! DEFINITION. Ethernet ports, cells, frame parsing, timestamps, granules and receive rings: what the packet path's commands are built from (R298 to R302, R308, R312, R314, R315, R342). -/

namespace Sys2Proof.Machine

/-! ### Ports (R298, R299) -/

/-- Port `n` exists: no 100 GbE port below it, by its mode or by the mode its link resolved to, takes its lane. -/
def portExists (s : State) (n : Nat) : Bool :=
  n % 2 == 0 || (rdf s (Reg.ETH_CTRL (n - 1)) 2 0 != 5 && rdf s (Reg.ETH_STAT (n - 1)) 3 1 != 5)

/-- ETH_CTRL.mode selects a mode of Table 12.1 that the port can have. -/
def portEnabled (s : State) (n : Nat) : Bool :=
  let m := rdf s (Reg.ETH_CTRL n) 2 0
  portExists s n && decide (1 ≤ m ∧ m ≤ 5) && (m != 5 || n % 2 == 0)

/-- The port is enabled and its lanes' clock domains run: a gated SerDes lane does no work (R11, Table 16.6). -/
def portOn (s : State) (n : Nat) : Bool :=
  portEnabled s n && !gated s (48 + n) && (rdf s (Reg.ETH_CTRL n) 2 0 != 5 || !gated s (48 + n + 1))

/-- The resolved mode. -/
def resMode (s : State) (n : Nat) : Nat := rdf s (Reg.ETH_STAT n) 3 1

/-- Rate of the port in Gbit/s (Table 12.1). -/
def portRate (s : State) (n : Nat) : Nat :=
  match resMode s n with
  | 1 => 1
  | 2 => 10
  | 3 => 25
  | 4 => 50
  | _ => 100

/-- Counts of the monotonic counter, rounded up, that `b` bytes take at the port. -/
def byteCounts (s : State) (n b : Nat) : Nat := (b * 10 + portRate s n - 1) / portRate s n

/-- Network time, in 2^-16 ns rounded up, that `b` bytes take at the port. -/
def byteTime (s : State) (n b : Nat) : Nat := (65536 * (8 * b) + portRate s n - 1) / portRate s n

/-! ### Interrupts and drops -/

/-- A PKT_RX counter increments (Table 12.11). -/
def rxCount (s : State) (a : Nat) : State := orr (inc s a) Reg.PKT_INT_STAT 1

/-! ### Cells (R300, R302, R373) -/

/-- Cells of a frame of `n` bytes, FCS included. -/
def cellsOf (n : Nat) : Nat := min 36 ((n + 255) / 256)

/-- Shared cells that are free: 7 680 less those the router reserves. -/
def freeShared (s : State) : Nat := 7680 - rdf s Reg.FAB_RXRES 12 0 - s.pkt.sh

/-- Cells of port `n`'s reserve in use. -/
def ownUsed (s : State) (n : Nat) : Nat := SMap.get 0 s.pkt.own n

def addOwn (s : State) (n : Nat) (d : Int) : State :=
  { s with pkt := { s.pkt with own := SMap.put 0 s.pkt.own n ((ownUsed s n : Int) + d).toNat } }

/-- Which cells a frame takes: a port's reserve and then the shared cells, the shared cells alone, or the router's. -/
inductive CellUse where
  | port
  | shared
  | router
  deriving DecidableEq, Repr

/-- Cells for a frame of `n` bytes: those of the reserve, shared and router's taken; none when they are not available. -/
def cellPlan (s : State) (u : CellUse) (port n : Nat) : Option (Nat × Nat × Nat) :=
  let c := cellsOf n
  match u with
  | .port =>
    let o := min c (32 - ownUsed s port)
    if c - o ≤ freeShared s then some (o, c - o, 0) else none
  | .shared => if c ≤ freeShared s then some (0, c, 0) else none
  | .router => if s.pkt.fab + c ≤ rdf s Reg.FAB_RXRES 12 0 then some (0, 0, c) else none

/-- Frame `fid`, a frame without bytes where none is stored. -/
def frameAt (s : State) (fid : Nat) : Frame := (SMap.get none s.pkt.frames fid).getD ⟨16, [], 0, 0, 0, 0, 0, 0⟩

def putFrame (s : State) (fid : Nat) (f : Option Frame) : State := { s with pkt := { s.pkt with frames := SMap.put none s.pkt.frames fid f } }

/-- Store a frame in the cells of `c`; its number. -/
def storeFrame (s : State) (f : Frame) (c : Nat × Nat × Nat) : Nat × State :=
  let id := s.pkt.nextFid
  let s := addOwn (putFrame s id (some { f with own := c.1, sh := c.2.1, fab := c.2.2 })) f.port c.1
  (id, { s with pkt := { s.pkt with nextFid := id + 1, sh := s.pkt.sh + c.2.1, fab := s.pkt.fab + c.2.2 } })

/-- Free a frame's cells (R302). -/
def freeFrame (s : State) (fid : Nat) : State :=
  let f := frameAt s fid
  let s := addOwn (putFrame s fid none) f.port (-(f.own : Int))
  { s with pkt := { s.pkt with sh := s.pkt.sh - f.sh, fab := s.pkt.fab - f.fab } }

/-- A copy of a frame has left: its cells are freed with the last (R346). -/
def dropRef (s : State) (fid : Nat) : State :=
  let f := frameAt s fid
  if f.refs ≤ 1 then freeFrame s fid else putFrame s fid (some { f with refs := f.refs - 1 })

/-! ### Parsing (Table 12.3) -/

/-- An IPv4 header without options or an IPv6 header without extension headers, and the UDP header after it. -/
structure Parsed where
  v6 : Bool
  /-- Offset of the IP header. -/
  ip : Nat
  src : List Byte
  dst : List Byte
  /-- Offset of the UDP header. -/
  udp : Nat
  sport : Nat
  dport : Nat
  /-- Bytes of UDP payload. -/
  len : Nat
  deriving DecidableEq, Repr

/-- The frame carries one 802.1Q tag. -/
def tagged (d : List Byte) : Bool := be d 12 2 == 0x8100

/-- Offset of the byte after the EtherType. -/
def l3Off (d : List Byte) : Nat := if tagged d then 18 else 14

def etherType (d : List Byte) : Nat := be d (l3Off d - 2) 2

/-- VLAN ID, 0 for an untagged frame, and PCP. -/
def vlanId (d : List Byte) : Nat := if tagged d then slice (be d 14 2) 11 0 else 0
def vlanPcp (d : List Byte) : Nat := slice (be d 14 2) 15 13

def dstMac (d : List Byte) : Nat := be d 0 6
def srcMac (d : List Byte) : Nat := be d 6 6

/-- UDP over IPv4 or IPv6. -/
def parseUdp (d : List Byte) : Option Parsed :=
  let o := l3Off d
  let mk (v6 : Bool) (h a : Nat) : Parsed :=
    { v6 := v6, ip := o, src := sub d (o + (if v6 then 8 else 12)) a, dst := sub d (o + (if v6 then 24 else 16)) a, udp := o + h,
      sport := be d (o + h) 2, dport := be d (o + h + 2) 2, len := min (be d (o + h + 4) 2) (d.length - o - h) - 8 }
  if etherType d = 0x0800 ∧ o + 28 ≤ d.length ∧ be d o 1 = 0x45 ∧ be d (o + 9) 1 = 17 then some (mk false 20 4)
  else if etherType d = 0x86DD ∧ o + 48 ≤ d.length ∧ be d o 1 / 16 = 6 ∧ be d (o + 6) 1 = 17 then some (mk true 40 16)
  else none

/-- The UDP payload. -/
def udpPay (d : List Byte) (p : Parsed) : List Byte := sub d (p.udp + 8) p.len

/-- Offset of the PTP message, for a PTP frame (Table 12.3 rule 5). -/
def ptpOff (d : List Byte) : Option Nat :=
  if etherType d = 0x88F7 then some (l3Off d)
  else match parseUdp d with
    | some p => if p.dport = 319 ∨ p.dport = 320 then some (p.udp + 8) else none
    | none => none

/-- A fabric frame, and a fabric HELLO (R362). -/
def isFabric (d : List Byte) : Bool := etherType d == 0x88B5
def isHello (d : List Byte) : Bool := isFabric d && slice (be d (l3Off d) 1) 3 0 == 0

/-- A credited fabric frame: class 1 to 3. -/
def isCredited (d : List Byte) : Bool := isFabric d && slice (be d (l3Off d + 1) 1) 7 6 != 0

/-! ### Timestamps (R342) -/

/-- Correction of a receive instant of port `n`, in 2^-16 ns. -/
def rxCorr (s : State) (n : Nat) : Int := if resMode s n = 0 then 0 else sint (rd s (Reg.DTM_PC_RX n (resMode s n - 1)))
def txCorr (s : State) (n : Nat) : Int := if resMode s n = 0 then 0 else sint (rd s (Reg.DTM_PC_TX n (resMode s n - 1)))

/-- Monotonic timestamp of a corrected instant in 1/262144 of a cycle. -/
def monoOf (x : Int) : Nat := (x / 262144 % (2 ^ 48 : Nat)).toNat

/-- An 8-byte timestamp as PTP and fabric messages carry it: seconds and nanoseconds. -/
def secNs (n : Nat) : List Byte := beBytes 6 (ntSec n) ++ beBytes 4 (ntNs n)

/-! ### Granules (R308, R310, R312) -/

def granSize (s : State) : Nat := 256 * 2 ^ rdf s Reg.PKT_GRAN_CFG 31 30
def granCount (s : State) : Nat := rdf s Reg.PKT_GRAN_CFG 23 0
def granAddr (s : State) (g : Nat) : Nat := rd2 s Reg.PKT_GRAN_BASE_LO Reg.PKT_GRAN_BASE_HI + g * granSize s
def gflBase (s : State) : Nat := rd2 s Reg.PKT_GFL_BASE_LO Reg.PKT_GFL_BASE_HI

/-- Free granules. -/
def gFree (s : State) : Nat := s.pkt.gTail - s.pkt.gHead

/-- Address of entry `i` of the free-list FIFO. -/
def gflAddr (s : State) (i : Nat) : Nat := gflBase s + 4 * (i % max 1 (granCount s))

/-- Fill the free list with 0 to count − 1 (R308); the sums of R325 start again. -/
def granFill (s : State) : State :=
  let n := granCount s
  let s := memWrite_ s pktPort (gflBase s) ((List.range n).map (leBytes 4)).flatten
  { s with pkt := { s.pkt with gHead := 0, gTail := n, gAlloc := 0, gRet := 0 } }

/-- Allocate the granule at the head of the free list. -/
def granAlloc (s : State) : Nat × State :=
  let r := memRead s pktPort (gflAddr s s.pkt.gHead) 4
  let s := { r.2 with pkt := { r.2.pkt with gHead := r.2.pkt.gHead + 1, gAlloc := r.2.pkt.gAlloc + 1 } }
  match r.1 with
  | some b => (leNat b % 2 ^ 24, s)
  | none => ((Config.freeEntry s.freeCtr).toNat, drawn s)

/-- Allocate `n` granules. -/
def granAllocs : Nat → State → List Nat × State
  | 0, s => ([], s)
  | n + 1, s =>
    let r := granAlloc s
    let t := granAllocs n r.2
    (r.1 :: t.1, t.2)

/-- Return granule `g`; an index at or above count is discarded (R312). -/
def granReturn (s : State) (g : Nat) : State :=
  if granCount s ≤ g then inc s Reg.PKT_GRET_BAD
  else
    let s := memWrite_ s pktPort (gflAddr s s.pkt.gTail) (leBytes 4 g)
    { s with pkt := { s.pkt with gTail := s.pkt.gTail + 1, gRet := s.pkt.gRet + 1 } }

def granReturns (s : State) (gs : List Nat) : State := foldS granReturn gs s

/-- The cipher engine accepts an ingress job (R292). -/
def ingressAccepted (s : State) : Bool := cipRunning s && (List.range 8).any (fun c => !gated s (68 + c))

/-! ### Receive rings (R314, R315) -/

/-- A descriptor taken for a frame: its address, its word D2 as software wrote it, the bytes put into its buffer. -/
abbrev Taken := Nat × Nat × Nat

/-- What came of filling buffers: the descriptors taken, too few posted, or an access that failed. -/
inductive Filled where
  | ok (ts : List Taken)
  | short
  | failed
  deriving DecidableEq, Repr

/-- One more descriptor before those of `x`. -/
def Filled.cons (t : Taken) : Filled → Filled
  | .ok ts => .ok (t :: ts)
  | x => x

/-- Fill the buffer of the descriptor at index `i` from `rest`: the descriptor's address and the buffer's length. -/
def fillBuf (r i : Nat) (rest : List Byte) (s : State) : Option (Nat × Nat) × State :=
  let k := rdf s (Reg.PKT_RXR_CFG r) 3 0
  let a := rd2 s (Reg.PKT_RXR_BASE_LO r) (Reg.PKT_RXR_BASE_HI r) + 32 * (i % 2 ^ k)
  match memRead s pktPort a 32 with
  | (none, s) => (none, s)
  | (some d, s) =>
    let len := wdf d 2 15 0
    match memWrite s pktPort (wdAddr d 0) (rest.take len) with
    | (false, s) => (none, s)
    | (true, s) => (some (a, len), s)

/-- Fill buffers from `rest`, `n` posted descriptors left from index `i`. -/
def fillBufs (r : Nat) : Nat → Nat → List Byte → State → Filled × State
  | 0, _, rest, s => (if rest = [] then .ok [] else .short, s)
  | n + 1, i, rest, s =>
    if rest = [] then (.ok [], s)
    else
      let b := fillBuf r i rest s
      let d := b.1.getD (0, 0)
      let x := fillBufs r n (i + 1) (rest.drop d.2) b.2
      if b.1.isNone then (.failed, b.2) else (x.1.cons (d.1, d.2, min d.2 rest.length), x.2)

/-- D2 to D7 of the descriptors of a frame (Table 12.7). -/
def descWrites (port reason len nt : Nat) (first : Bool) : List Taken → List (Nat × List Byte)
  | [] => []
  | (a, d2, n) :: t =>
    let eof := t.isEmpty
    let d3 := 2 ^ 31 + 2 ^ 30 * first.toNat + 2 ^ 29 * eof.toNat + 2 ^ 24 * (port % 16) + 2 ^ 16 * reason + (if eof then len else 0)
    (a + 8, wordBytes [65536 * n + d2, d3, ntNs nt, ntSec nt % 2 ^ 32, 65536 * ntFrac nt + ntSec nt / 2 ^ 32 % 65536, 0]) ::
      descWrites port reason len nt false t

/-- Posted descriptors of ring `r`. -/
def posted (s : State) (r : Nat) : Nat :=
  let m := 2 * 2 ^ rdf s (Reg.PKT_RXR_CFG r) 3 0
  if rdb s (Reg.PKT_RXR_CFG r) 8 then (rdf s (Reg.PKT_RXR_TAIL r) 15 0 + m - rdf s (Reg.PKT_RXR_HEAD r) 15 0 % m) % m else 0

/-- Deliver bytes of frame `f` to ring `r`, or drop them (R315). -/
def rxDeliver (s : State) (f : Frame) (bytes : List Byte) (r reason : Nat) : State :=
  let head := rdf s (Reg.PKT_RXR_HEAD r) 15 0
  let m := 2 * 2 ^ rdf s (Reg.PKT_RXR_CFG r) 3 0
  match fillBufs r (posted s r) head bytes s with
  | (.ok ts, s) =>
    let s := (memWrites pktPort (descWrites f.port reason bytes.length f.nt true ts) s).2
    pulse (wr s (Reg.PKT_RXR_HEAD r) (BitVec.ofNat 32 ((head + ts.length) % m))) (16 + r)
  | (.short, s) => inc s (Reg.PKT_RXR_NOBUF r)
  | (.failed, s) => s

end Sys2Proof.Machine
end

