-- ==== Sys2Proof/Machine/PktRx.lean ====
section
/-! DEFINITION. The receive path: arrival, classification, forwarding, RTP flows, flow commands, granule rings, the queue engine's disposal, the M3 limiter (R300 to R315, R324, R325, R344, and R174, R176 to R178, R292 on the packet path's side). -/

namespace Sys2Proof.Machine

/-! ### Class queues (R319) -/

/-- Class queue `c` of port `p`. -/
def egKey (p c : Nat) : Nat := 8 * p + c
def egAt (s : State) (k : Nat) : List TxFrame := SMap.get [] s.pkt.eg k
def setEg (s : State) (k : Nat) (q : List TxFrame) : State := { s with pkt := { s.pkt with eg := SMap.put [] s.pkt.eg k q } }

/-- Put a frame at the tail of a class queue. -/
def enqueue (s : State) (port cls fid : Nat) (kind : TxKind) (launch : Option Nat) : State :=
  let k := egKey port cls
  setEg s k (egAt s k ++ [⟨fid, kind, launch, false, false, if egAt s k = [] then some s.mono.toNat else none⟩])

/-! ### Classification (R303 to R306) -/

/-- Station address of port `n`: LO holds bytes 2 to 5, HI bytes 0 and 1, as in PKT_FWD_W0 and W1. -/
def station (s : State) (n : Nat) : Nat := 2 ^ 32 * rdf s (Reg.ETH_MAC_HI n) 15 0 + (rd s (Reg.ETH_MAC_LO n)).toNat

/-- The egress port of the forwarding table's first matching entry (R305). -/
def fwdLookup (s : State) (vid mac : Nat) : Option Nat :=
  (s.pkt.fwd.find? (fun e => e.2.valid && e.2.vid == vid && e.2.mac == mac)).map (·.2.port)

/-- A unicast address: its first byte is even. -/
def unicast (mac : Nat) : Bool := mac / 2 ^ 40 % 2 == 0

/-- The address of local entry `a`, in wire order. -/
def laddrBytes (s : State) (a : Nat) : List Byte :=
  leBytes 4 (rd s (Reg.PKT_LADDR_W1 a)).toNat ++ leBytes 4 (rd s (Reg.PKT_LADDR_W2 a)).toNat ++
  leBytes 4 (rd s (Reg.PKT_LADDR_W3 a)).toNat ++ leBytes 4 (rd s (Reg.PKT_LADDR_W4 a)).toNat

/-- Local entry `a` is valid and names this address. -/
def laddrIs (s : State) (v6 : Bool) (ip : List Byte) (a : Nat) : Bool :=
  rdb s (Reg.PKT_LADDR_W0 a) 31 && rdb s (Reg.PKT_LADDR_W0 a) 30 == v6 && (laddrBytes s a).take ip.length == ip

/-- The flow of a local address and UDP port, by the first entry that holds them (R306). -/
def flowOf (s : State) (p : Parsed) : Option Nat :=
  let fits (a : Nat) : Bool :=
    let lo := rdf s (Reg.PKT_LADDR_W5 a) 15 0
    laddrIs s p.v6 p.dst a && decide (lo ≤ p.dport ∧ p.dport < lo + rdf s (Reg.PKT_LADDR_W5 a) 31 16)
  ((List.range 16).find? fits).map (fun a => rdf s (Reg.PKT_LADDR_W6 a) 16 0 + (p.dport - rdf s (Reg.PKT_LADDR_W5 a) 15 0))

/-- An IPv4 or IPv6 address of the PTP multicast groups (Table 13.4 row 4). -/
def ptpGroupIp (v6 : Bool) (ip : List Byte) : Bool :=
  if v6 then be ip 0 1 == 0xFF && be ip 1 1 / 16 == 0 && be ip 2 14 == 0x181 else be ip 0 4 == 0xE0000181

/-- Transit copies go to the ports of DTM_TC_FWDn, never back, never to a port without link (R344). -/
def transitPorts (s : State) (port : Nat) : List Nat :=
  (List.range 16).filter (fun n => rdb s (Reg.DTM_TC_FWD port) n && n != port && portExists s n && linkUp s n)

/-- Datum's classification of a PTP frame (R344, Table 13.4). -/
def ptpAct (s : State) (port : Nat) (d : List Byte) (off : Nat) : RxAct :=
  let p := parseUdp d
  let mac := dstMac d
  let localIp : Bool := match p with
    | some x => (List.range 16).any (laddrIs s x.v6 x.dst)
    | none => false
  let groupIp : Bool := match p with
    | some x => ptpGroupIp x.v6 x.dst
    | none => false
  let loc := RxAct.ring (rdf s Reg.PKT_CFG 3 0) 1
  if slice (be d (off + 1) 1) 3 0 ≠ 2 ∨ mode s = 3 then loc
  else if mac = 0x0180C200000E then loc
  else if mac == station s port || localIp then loc
  else match (if unicast mac then fwdLookup s (vlanId d) mac else none) with
    | some n => .ptp (if n ≠ port ∧ portExists s n ∧ linkUp s n then [n] else []) false
    | none =>
      if mac == 0x011B19000000 || groupIp then .ptp (transitPorts s port) (rdb s (Reg.DTM_TC_FWD port) 16)
      else loc

/-- Rule 8: the port's default ring. -/
def defAct (s : State) (port : Nat) : RxAct := .ring (rdf s (Reg.ETH_CTRL port) 15 12) 0

/-- Rule 7 of Table 12.3, and rule 8 when no flow takes the frame (R306). -/
def rtpAct (s : State) (port : Nat) (d : List Byte) : Option RxAct × State :=
  let f := match parseUdp d with
    | some p => if rdb s Reg.PKT_CTRL 0 then flowOf s p else none
    | none => none
  match f with
  | some f =>
    if rdf s Reg.PKT_FLOW_CFG 16 0 ≤ f then (some (defAct s port), s)
    else match memRead s pktPort (rd2 s Reg.PKT_FLOW_BASE_LO Reg.PKT_FLOW_BASE_HI + 64 * f) 32 with
      | (some e, s) => (some (if (wd e 0).testBit 31 then .rtp f e else defAct s port), s)
      | (none, s) => (none, s)
  | none => (some (defAct s port), s)

/-- Rule 6: the forwarding table (R305). -/
def fwdAct (s : State) (port : Nat) (d : List Byte) : Option RxAct × State :=
  match fwdLookup s (vlanId d) (dstMac d) with
  | some n => (some (.forward n (if tagged d then vlanPcp d else rdf s (Reg.ETH_CTRL port) 11 9)), s)
  | none =>
    if rdb s Reg.PKT_CFG 8 then (some (.ring (rdf s Reg.PKT_CFG 7 4) 2), s) else (none, rxCount s Reg.PKT_RX_UNKNOWN)

/-- Counts of the monotonic counter that `q` pause quanta of 512 bit times take at port `n`. -/
def quanta (s : State) (n q : Nat) : Nat := byteCounts s n (64 * q)

/-- A received PAUSE or PFC frame (R299): honoured on egress when pause_en is 1. -/
def pauseFrame (s : State) (port : Nat) (d : List Byte) : State :=
  let o := l3Off d
  let put (s : State) (c q : Nat) : State :=
    { s with pkt := { s.pkt with pause := SMap.put 0 s.pkt.pause (egKey port c) (if q = 0 then 0 else s.mono.toNat + quanta s port q) } }
  if !rdb s (Reg.ETH_CTRL port) 8 then inc s (Reg.ETH_PAUSE port)
  else if be d o 2 = 1 then foldS (fun s c => put s c (be d (o + 2) 2)) (List.range 8) s
  else foldS (fun s c => if (be d (o + 2) 2).testBit c then put s c (be d (o + 4 + 2 * c) 2) else s) (List.range 8) s

/-- PAUSE or PFC: MAC control frames (IEEE 802.3 Annex 31B, IEEE 802.1Qbb). -/
def isPause (d : List Byte) : Bool := etherType d == 0x8808 && (be d (l3Off d) 2 == 1 || be d (l3Off d) 2 == 0x0101)

/-- Tokens of port `n`'s limiter (R304). -/
def tokens (s : State) (n : Nat) : Nat := SMap.get 16 s.pkt.bucket n
def setTokens (s : State) (n t : Nat) : State := { s with pkt := { s.pkt with bucket := SMap.put 16 s.pkt.bucket n t } }

/-- Rules 3 to 8 of Table 12.3: what is done with the frame, or none when it is dropped or consumed. -/
def classifyRest (s : State) (port : Nat) (d : List Byte) : Option RxAct × State :=
  if isPause d then (none, pauseFrame s port d)
  else if isFabric d then (some .router, s)
  else match ptpOff d with
    | some off => (some (ptpAct s port d off), s)
    | none =>
      if dstMac d ≠ station s port ∧ unicast (dstMac d) then fwdAct s port d
      else rtpAct s port d

/-- Classification of a stored frame (R303, Table 12.3). -/
def classify (s : State) (port : Nat) (d : List Byte) (good : Bool) : Option RxAct × State :=
  if !good ∨ d.length + 4 < 64 ∨ 9216 < d.length + 4 then (none, inc s (Reg.ETH_RX_ERRS port))
  else if mode s = 3 then
    if (isHello d || (!isPause d && !isFabric d && (ptpOff d).isSome)) && tokens s port != 0 then
      classifyRest (setTokens s port (tokens s port - 1)) port d
    else (none, rxCount s Reg.PKT_RX_FLOOD_DROP)
  else classifyRest s port d

/-! ### Actions -/

/-- Queue a transit copy for each port. -/
def enqueueCopies (s : State) (fid : Nat) (ports : List Nat) : State :=
  foldS (fun s n => enqueue s n (rdf s Reg.DTM_PTP_CFG 5 3) fid .ptp none) ports s

/-- Perform the action of a frame other than RTP. -/
def actOn (s : State) (fid : Nat) (a : RxAct) : State :=
  let f := frameAt s fid
  match a with
  | .ring r reason => freeFrame (rxDeliver s f f.data r reason) fid
  | .forward port tc => enqueue s port tc fid .fwd none
  | .ptp ports loc =>
    let s := if loc then rxDeliver s f f.data (rdf s Reg.PKT_CFG 3 0) 1 else s
    if ports = [] then freeFrame s fid else enqueueCopies (putFrame s fid (some { f with refs := ports.length })) fid ports
  | .router => { s with fab := { s.fab with rx := s.fab.rx ++ [fid] } }
  | .rtp _ _ => s

/-- Act on the frames at the head of the line up to the first RTP frame; the fuel is its length. Frames wait behind a packet whose pushes the queue engine has not taken (R310). -/
def drainIn : Nat → State → State
  | 0, s => s
  | n + 1, s =>
    match s.pkt.inq with
    | (_, .rtp _ _) :: _ => s
    | (fid, a) :: rest => drainIn n (actOn { s with pkt := { s.pkt with inq := rest } } fid a)
    | [] => s

def drainAll (s : State) : State := if s.jq.inbox = [] then drainIn s.pkt.inq.length s else s

/-- Which cells an arriving frame takes: the router's for credited fabric frames (R373), shared ones for other fabric frames (R370). -/
def arrivalCells (d : List Byte) : CellUse := if isCredited d then .router else if isFabric d then .shared else .port

/-- A frame of `d` bytes, without FCS, arrives on a port whose link is up; `raw` is the instant of its start-of-frame delimiter, a monotonic count with a 16-bit fraction. -/
def arrive (s : State) (port : Nat) (d : List Byte) (good : Bool) (raw : Nat) : State :=
  let s := addc (inc s (Reg.ETH_RX_FRAMES port)) (Reg.ETH_RX_BYTES port) (d.length + 4)
  if frozen s then (if isFabric d then inc (inc s (Reg.ETH_RX_FROZEN port)) (Reg.FAB_DROP 7) else inc s (Reg.ETH_RX_FROZEN port))
  else match cellPlan s (arrivalCells d) port (d.length + 4) with
    | none =>
      let s := inc s (Reg.ETH_RX_NOCELL port)
      if isFabric d && !isCredited d then inc s (Reg.FAB_DROP 4) else s
    | some c =>
      let x := corrX raw (rxCorr s port)
      let r := storeFrame s ⟨port, d, 0, 0, 0, 1, x, ntAtX s x⟩ c
      match classify r.2 port d good with
      | (some a, s) => drainAll { s with pkt := { s.pkt with inq := s.pkt.inq ++ [(r.1, a)] } }
      | (none, s) => freeFrame s r.1

/-- Line MACs run (Table 16.1, R304). -/
def macsRun (s : State) : Bool := decide (3 ≤ mode s)

/-- FRAME_ARRIVAL (R300, R303). -/
def execFrameArrival (port : Fin 16) (frame : List Byte) (good : Bool) (raw : BitVec 80) (s : State) : Host.Outcome State Fault Refusal :=
  live s (if macsRun s && portOn s port && linkUp s port then arrive s port frame good raw.toNat else s)

/-- LIMITER_REFILL (R304): a ms has passed; every port's bucket gains a frame, up to 16. -/
def execLimiterRefill (s : State) : Host.Outcome State Fault Refusal :=
  live s (
    let s := notBefore s (s.pkt.refillAt + 1250000)
    let s := { s with pkt := { s.pkt with refillAt := s.mono.toNat } }
    foldS (fun s n => setTokens s n (min 16 (tokens s n + 1))) (List.range 16) s)

/-! ### RTP flows (R309, R310, R292) -/

/-- A flow has a packet on its way through the cipher engine. -/
def flowInFlight (s : State) (f : Nat) : Bool :=
  s.pkt.unprot.any (fun i => i.flow == f) || s.cip.ingress.any (fun i => i.flow == f) || flowBusy s f

/-- The source matches the flow entry's remote address and port (Table 12.4). -/
def srcOk (e : List Byte) (p : Parsed) : Bool :=
  let v6 := (wd e 2).testBit 0
  p.v6 == v6 && p.src == sub e 12 (if v6 then 16 else 4) && p.sport == wdf e 2 31 16

/-- The item of granule `g` (R309, Table 6.1). -/
def rtpItem (e : List Byte) (mkr auth last : Bool) (g : Nat) : Word :=
  BitVec.ofNat 32 (2 ^ 31 * last.toNat + 2 ^ 30 * mkr.toNat + 2 ^ 29 * auth.toNat + 2 ^ 24 * wdf e 0 28 24 + g % 2 ^ 24)

/-- Write granule `g` with the first bytes of `p` (Table 12.6). -/
def writeGran (s : State) (mono g : Nat) (p : List Byte) : Bool × State :=
  let n := granSize s - 8
  memWrite s pktPort (granAddr s g) (leBytes 6 mono ++ leBytes 2 (min n p.length) ++ p.take n)

/-- Write a packet's parts into its granules, each behind its header (Table 12.5); false when a write fails. -/
def writeGrans (s : State) (mono : Nat) : List Nat → List Byte → Bool × State
  | [], _ => (true, s)
  | g :: gs, p =>
    let r := writeGran s mono g p
    if r.1 then writeGrans r.2 mono gs (p.drop (granSize s - 8)) else r

/-- Pushes of a packet's granules, in order; its frame `fid` goes with the last. -/
def granPushes (e : List Byte) (mkr : Bool) (seq fid : Nat) : List Nat → List JqPush
  | [] => []
  | g :: gs => ⟨wdf e 0 15 0, rtpItem e mkr false gs.isEmpty g, seq, if gs.isEmpty then some fid else none⟩ :: granPushes e mkr seq fid gs

/-- Place an RTP packet in granules and push it, its frame staying in its cells until the queue engine has taken the pushes (R310), or hand it to the cipher engine (R309). -/
def placeRtp (s : State) (fid f : Nat) (e p : List Byte) : State :=
  let need := (p.length + granSize s - 9) / (granSize s - 8)
  if gFree s < need then freeFrame (rxCount s Reg.PKT_RX_NOGRAN) fid
  else
    let gs := granAllocs need s
    match writeGrans gs.2 (monoOf (frameAt s fid).x) gs.1 p with
    | (false, s) => freeFrame (granReturns s gs.1) fid
    | (true, s) =>
      let mkr := (be p 1 1).testBit 7
      let seq := be p 2 2
      if (wd e 0).testBit 30 then
        let g := gs.1.headD 0
        let i : Ingress := ⟨f, wdf e 1 31 26, wdf e 1 11 0, granAddr s g + 8, p.length, g, wdf e 0 15 0, rtpItem e mkr true true g, seq⟩
        let s := freeFrame s fid
        { s with pkt := { s.pkt with unprot := s.pkt.unprot ++ [i] } }
      else { s with jq := { s.jq with inbox := s.jq.inbox ++ granPushes e mkr seq fid gs.1 } }

/-- Process a frame of flow `f` (R309). -/
def rtpFrame (s : State) (fid f : Nat) (e : List Byte) : State :=
  let fr := frameAt s fid
  match parseUdp fr.data with
  | none => freeFrame s fid
  | some u =>
    let p := udpPay fr.data u
    let pt := be p 1 1 % 128
    if p.length < 12 ∨ be p 0 1 / 64 ≠ 2 then freeFrame (rxCount s Reg.PKT_RX_RTP_BAD) fid
    else if 72 ≤ pt ∧ pt ≤ 76 then freeFrame (rxDeliver s fr fr.data (wdf e 0 23 20) 3) fid
    else if (wd e 0).testBit 29 && !srcOk e u then freeFrame (rxCount s Reg.PKT_RX_SRC) fid
    else if ((wd e 0).testBit 30 || (queueAt s (wdf e 0 15 0)).place) && decide (granSize s - 8 < p.length) then
      freeFrame (rxCount s Reg.PKT_RX_SIZE) fid
    else placeRtp s fid f e p

/-- The packet path waits with the RTP frame at the head of the line (R310): the queue engine holds pushes back or has not taken those of an earlier packet, or earlier packets of the flow are still in the cipher engine. -/
def rtpWaits (s : State) (f : Nat) (e : List Byte) : Bool := dispBusy s || !s.jq.inbox.isEmpty || (!(wd e 0).testBit 30 && flowInFlight s f)

/-- RTP_RECEIVE (R309). -/
def execRtpReceive (s : State) : Host.Outcome State Fault Refusal :=
  live s (match s.pkt.inq with
    | (fid, .rtp f e) :: rest =>
      if frozen s || rtpWaits s f e then s
      else drainAll (rtpFrame { s with pkt := { s.pkt with inq := rest } } fid f e)
    | _ => s)

/-- Drop a packet of a bound flow (R309). -/
def dropUnprot (s : State) (i : Ingress) : State := rxCount (granReturn s i.gran) Reg.PKT_RX_UNPROT

/-! ### Flow commands (R311) -/

def fcBUSY : Nat := 1
def fcADDR : Nat := 2
def fcRANGE : Nat := 3
def fcMEM : Nat := 4
def fcOP : Nat := 5

/-- Address of a flow entry (R307). -/
def flowAddr (s : State) (f : Nat) : Nat := rd2 s Reg.PKT_FLOW_BASE_LO Reg.PKT_FLOW_BASE_HI + 64 * f

/-- A flow command ends with a code, 0 for success. -/
def flowEnd (s : State) (code : Nat) : State :=
  let st := Reg.PKT_FLOW_CMD_STAT
  orr (wrb (wrf (wrb s st 31 false) st 2 0 code) st (if code = 0 then 30 else 29) true) Reg.PKT_INT_STAT 2

/-- Copy 64 bytes; the code. -/
def copy64 (s : State) (src dst : Nat) : Nat × State :=
  match memRead s pktPort src 64 with
  | (none, s) => (fcMEM, s)
  | (some b, s) =>
    match memWrite s pktPort dst b with
    | (true, s) => (0, s)
    | (false, s) => (fcMEM, s)

/-- Run a flow command. -/
def flowRun (s : State) (c : FlowCmd) : State :=
  let e := flowAddr s c.flow
  if c.op ≠ 2 ∧ (c.addr % 64 ≠ 0 ∨ !inMem s c.addr 64) then flowEnd s fcADDR
  else if rdf s Reg.PKT_FLOW_CFG 16 0 ≤ c.flow then flowEnd s fcRANGE
  else
    let r := match c.op with
      | 1 => copy64 s c.addr e
      | 2 => match memWrite s pktPort e (List.replicate 64 0#8) with
        | (true, s) => (0, s)
        | (false, s) => (fcMEM, s)
      | _ => copy64 s e c.addr
    flowEnd r.2 r.1

/-- The waiting flow command runs once its flow has no ingress job. -/
def flowKick (s : State) : State :=
  match s.pkt.flowCmd with
  | some c => if flowInFlight s c.flow || frozen s then s else flowRun { s with pkt := { s.pkt with flowCmd := none } } c
  | none => s

/-- A write of `v` to PKT_FLOW_CMD. -/
def flowCmdWrite (s : State) (v : Word) : State :=
  let st := Reg.PKT_FLOW_CMD_STAT
  let op := fld v 27 24
  if rdb s st 31 then wrb (wrf s st 2 0 fcBUSY) st 29 true
  else if op = 0 ∨ 4 ≤ op then wrb (wrf s st 2 0 fcOP) st 29 true
  else
    let c : FlowCmd := ⟨op, fld v 15 0, rd2 s Reg.PKT_FLOW_CMD_ARG0 Reg.PKT_FLOW_CMD_ARG1 % 2 ^ 48⟩
    flowKick { wrb s st 31 true with pkt := { s.pkt with flowCmd := some c } }

/-- A row that writes PKT_FLOW_CMD. -/
def flowCmdRow (s : State) (who : Who) (op : Nat) (flow : BitVec 16) : State :=
  swWrite s who Reg.PKT_FLOW_CMD (fun s => flowCmdWrite s (BitVec.ofNat 32 (2 ^ 24 * op + flow.toNat)))

/-- SET (R311). -/
def execSet (who : Who) (flow : BitVec 16) (s : State) : Host.Outcome State Fault Refusal := live s (flowCmdRow s who 1 flow)
/-- CLEAR (R311). -/
def execClear (who : Who) (flow : BitVec 16) (s : State) : Host.Outcome State Fault Refusal := live s (flowCmdRow s who 2 flow)
/-- GET (R311). -/
def execGet (who : Who) (flow : BitVec 16) (s : State) : Host.Outcome State Fault Refusal := live s (flowCmdRow s who 3 flow)

/-! ### The cipher engine's ingress jobs (R292) -/

/-- INGRESS_UNPROTECT (R292): submit the oldest packet of a bound flow, or drop it. -/
def execIngressUnprotect (s : State) : Host.Outcome State Fault Refusal :=
  live s (match s.pkt.unprot with
    | i :: rest =>
      if frozen s then s
      else
        let s := { s with pkt := { s.pkt with unprot := rest } }
        if ingressAccepted s then { s with cip := { s.cip with ingress := s.cip.ingress ++ [i] } }
        else flowKick (dropUnprot s i)
    | [] => s)

/-- Take an ingress result: the context is written back, and the packet is pushed or dropped (R309). -/
def ingressResult (s : State) (i : Ingress) (e : CipEnd) : State :=
  let s := if e.ctx = [] then s else memWrite_ s pktPort (flowCtxAddr s i.flow) e.ctx
  if e.code ≠ 0 then dropUnprot s i
  else
    let s := memWrite_ s pktPort (i.addr - 2) (leBytes 2 e.outLen)
    { s with jq := { s.jq with inbox := s.jq.inbox ++ [⟨i.queue, i.item, i.seq, none⟩] } }

/-- INGRESS_RESULT (R292). -/
def execIngressResult (s : State) : Host.Outcome State Fault Refusal :=
  live s (match s.cip.results with
    | (i, e) :: rest =>
      if frozen s then s else flowKick (ingressResult { s with cip := { s.cip with results := rest } } i e)
    | [] => s)

/-! ### The queue engine's side (R174, R176 to R178, R310) -/

/-- The cells of a push's frame are freed. -/
def freePushed (s : State) (p : JqPush) : State :=
  match p.frame with
  | some fid => freeFrame s fid
  | none => s

/-- QUEUE_PUSH (R175): the oldest push of the packet path reaches the queue engine, which takes it or refuses it; after a packet's last push its cells are freed and the frames behind it go on (R310). -/
def execQueuePush (s : State) : Host.Outcome State Fault Refusal :=
  live s (match s.jq.inbox with
    | p :: rest =>
      if frozen s || dispBusy s then s
      else
        let s := { s with jq := { s.jq with inbox := rest } }
        let s :=
          if (queueAt s p.queue).en then jqPush s p.queue p.item p.seq
          else rxCount (granReturn s (p.item.toNat % 2 ^ 24)) Reg.PKT_RX_QREFUSED
        drainAll (freePushed s p)
    | [] => s)

/-- Write a discard ring entry and advance HEAD, or dispose of the item as DROP (R177). -/
def dringPut (s : State) (d : Discard) : State :=
  let k := rdf s Reg.JQ_DRING_CFG 3 0
  let head := rdf s Reg.JQ_DRING_HEAD 31 0
  let m := 2 * 2 ^ k
  let full := (head + m - rdf s Reg.JQ_DRING_TAIL 31 0 % m) % m == 2 ^ k
  if full || !rdb s Reg.JQ_DRING_CFG 8 then orr (inc s Reg.JQ_DRING_OVF) Reg.JQ_INT_STAT 16
  else
    let s := sramWrite s (rdf s Reg.JQ_DRING_BASE 22 3 * 8 + 8 * (head % 2 ^ k)) (leBytes 4 d.item.toNat ++ leBytes 4 (2 ^ 28 * d.reason + d.queue))
    wr s Reg.JQ_DRING_HEAD (BitVec.ofNat 32 ((head + 1) % m))

/-- DISPOSAL (R178): the disposal buffer drains one item. -/
def execDisposal (s : State) : Host.Outcome State Fault Refusal :=
  live s (match s.jq.disposal with
    | d :: rest =>
      if frozen s then s
      else
        let s := { s with jq := { s.jq with disposal := rest } }
        releasePush (if d.disc = 0 then granReturn s (d.item.toNat % 2 ^ 24) else if d.disc = 1 then dringPut s d else s)
    | [] => s)

/-! ### Administration (R305, R308, R313, R325) -/

/-- A write of `v` to PKT_FWD_W2 applies the entry that IDX, W0 and W1 describe (R305). -/
def fwdWrite (s : State) (v : Word) : State :=
  let s := plainWrite s Reg.PKT_FWD_W2 v
  let e : FwdEntry :=
    ⟨v.getLsbD 31, rdf s Reg.PKT_FWD_W1 27 16, 2 ^ 32 * rdf s Reg.PKT_FWD_W1 15 0 + (rd s Reg.PKT_FWD_W0).toNat, fld v 3 0⟩
  { s with pkt := { s.pkt with fwd := SMap.put ⟨false, 0, 0, 0⟩ s.pkt.fwd (rdf s Reg.PKT_FWD_IDX 9 0) e } }

/-- FWD_ENTRY_WRITE (R305). -/
def execFwdEntryWrite (who : Who) (value : Word) (s : State) : Host.Outcome State Fault Refusal :=
  live s (swWrite s who Reg.PKT_FWD_W2 (fun s => fwdWrite s value))

/-- A write of `v` to PKT_CTRL: setting enable fills the free list (R308), which M10 leaves as it is (R324). -/
def pktCtrlWrite (s : State) (v : Word) : State :=
  let old := rdb s Reg.PKT_CTRL 0
  let s := plainWrite s Reg.PKT_CTRL v
  if !old && rdb s Reg.PKT_CTRL 0 && !frozen s then granFill s else s

/-- PKT_ENABLE (R308). -/
def execPktEnable (who : Who) (value : Word) (s : State) : Host.Outcome State Fault Refusal :=
  live s (swWrite s who Reg.PKT_CTRL (fun s => pktCtrlWrite s value))

/-- Take the next entry of a granule return ring (R313). -/
def gretTake (s : State) (r : Fin 4) : State :=
  let i := ringNext s (.gret r)
  let v := leNat (sramGet s (ringEntry s (.gret r) i) 4)
  let s := if v / 2 ^ 24 = 0 then granReturn s v else inc s Reg.PKT_GRET_BAD
  advanceCons (setRingNext s (.gret r) (i + 1)) (.gret r)

/-- GRANULE_RETURN (R313). -/
def execGranuleReturn (ring : Fin 4) (s : State) : Host.Outcome State Fault Refusal :=
  live s (if frozen s || !ringReady s (.gret ring) then s else gretTake s ring)

/-- Cells in use. -/
def cellsHeld (s : State) : Nat := (s.pkt.own.map (·.2)).sum + s.pkt.sh + s.pkt.fab

/-- Latch the audit sums (R325). -/
def pktSnap (s : State) : State :=
  let s := wr s Reg.PKT_AUD_CELL_HELD (BitVec.ofNat 32 (cellsHeld s))
  let s := wr s Reg.PKT_AUD_CELL_FREE (BitVec.ofNat 32 (8192 - cellsHeld s))
  wr (wr (wr s Reg.PKT_AUD_GFREE (BitVec.ofNat 32 (gFree s))) Reg.PKT_AUD_GALLOC s.pkt.gAlloc) Reg.PKT_AUD_GRET s.pkt.gRet

/-- PKT_AUDIT_SNAPSHOT (R325). -/
def execPktAuditSnapshot (who : Who) (s : State) : Host.Outcome State Fault Refusal := live s (swWrite s who Reg.PKT_AUD_SNAP pktSnap)

end Sys2Proof.Machine
end

