-- ==== Sys2Proof/Machine/PktTx.lean ====
section
/-! DEFINITION. The transmit path: transmit rings, gates, class queues and launch time, the MAC, the transparent clock and one-step insertion (R316 to R322, R345 to R347), and the return of fabric credit when a frame's cells are freed (R371). -/

namespace Sys2Proof.Machine

/-! ### Completion of ring entries (R316, R389) -/

def ringOf (j : TxJob) : RingRef := if j.ring < 16 then .txr (Fin.ofNat 16 j.ring) else .fab

/-- The consumer word passes the completed entries; the fuel is the number of them. -/
def passDone (r : RingRef) (ring : Nat) : Nat → State → State
  | 0, s => s
  | n + 1, s =>
    let i := (rd s (ringDesc r).cons).toNat
    if s.pkt.done.contains (ring, i) then
      passDone r ring n (advanceCons { s with pkt := { s.pkt with done := s.pkt.done.erase (ring, i) } } r)
    else s

/-- A ring entry ends: status, counters, interrupt, consumer word. `t15` is word T15 of a transmit entry. -/
def jobDone (s : State) (j : TxJob) (code : Nat) (late : Bool) (len : Nat) (t15 : Word) : State :=
  if frozen s then s
  else
    let s := if j.ring < 16 then sramPut s (j.off + 56) (wordBytes [2 ^ 31 + 2 ^ 27 * code + 2 ^ 26 * late.toNat + len, t15.toNat])
      else sramPut s (j.off + 24) (wordBytes [2 ^ 31 + 2 ^ 27 * code])
    let s := if code ≠ 0 ∧ j.ring < 16 then
        wr (inc s (Reg.PKT_TXR_ERRS j.ring)) (Reg.PKT_TXR_LAST_ERR j.ring)
          (BitVec.ofNat 32 (2 ^ 20 * j.ring + 2 ^ 16 * code + j.index % ringSize s (ringOf j)))
      else s
    let s := if j.irq then pulse s (if j.ring < 16 then 32 + j.ring else 48) else s
    let s := { s with pkt := { s.pkt with done := (j.ring, j.index) :: s.pkt.done } }
    passDone (ringOf j) j.ring s.pkt.done.length s

/-! ### Links' credit (R371) -/

def linkAt (s : State) (j : Nat) : Option Link := SMap.get none s.fab.links j
def setLink (s : State) (j : Nat) (l : Option Link) : State := { s with fab := { s.fab with links := SMap.put none s.fab.links j l } }

/-- Total of class `c` in a list over classes 1 to 3. -/
def clsOf (xs : List Nat) (c : Nat) : Nat := xs.getD (c - 1) 0
def setCls (xs : List Nat) (c v : Nat) : List Nat := xs.set (c - 1) (v % 2 ^ 32)

/-- A received frame's cells are freed: its units are returned on the link it came by, if that link has stayed UP. -/
def creditReturn (s : State) (u : Upstream) : State :=
  match linkAt s u.link with
  | some l =>
    if l.state = 2 ∧ l.epoch = u.epoch then
      setLink s u.link (some { l with freed := setCls l.freed u.cls (clsOf l.freed u.cls + u.units), creditDue := true })
    else s
  | none => s

def creditReturn? (s : State) (u : Option Upstream) : State :=
  match u with
  | some u => creditReturn s u
  | none => s

/-! ### Frames that leave or are dropped (R302, R316) -/

def txLATE : Nat := 5
def txLINK : Nat := 7

/-- A frame has left its MAC: code 0, its length and network time. -/
def txSent (s : State) (x : TxFrame) (len nt : Nat) : State :=
  let s := dropRef s x.fid
  match x.kind with
  | .job j _ => jobDone s j 0 x.late len (BitVec.ofNat 32 (ntNs nt))
  | .router f _ =>
    match f.job with
    | some j => jobDone (creditReturn? s f.up) j 0 false len 0
    | none => creditReturn? s f.up
  | _ => s

/-- A waiting frame is dropped with a code of Table 12.9. -/
def txDropped (s : State) (x : TxFrame) (code : Nat) : State :=
  let s := dropRef s x.fid
  match x.kind with
  | .job j _ => jobDone (drawn s) j code false 0 (Config.noTxTime s.freeCtr)
  | .router f _ =>
    match f.job with
    | some j => jobDone (creditReturn? s f.up) j (Config.fabDropCode (16 + code)).toNat false 0 0
    | none => creditReturn? s f.up
  | _ => s

/-! ### Class queues and launch time (R319 to R322) -/

/-- Class `c` of port `p` is in launch mode; its late field. -/
def launchMode (s : State) (p c : Nat) : Bool := rdb s (Reg.ETH_TC_CFG p c) 0
def lateDrop (s : State) (p c : Nat) : Bool := rdb s (Reg.ETH_TC_CFG p c) 1

/-- Judge the frame at the head of a class queue (R320); the fuel is the length of the queue. -/
def judge (p c : Nat) : Nat → State → State
  | 0, s => s
  | n + 1, s =>
    let k := egKey p c
    match egAt s k with
    | x :: xs =>
      let h := some (x.headAt.getD s.mono.toNat)
      let past : Bool := match x.launch with
        | some t => decide (0 < ntDiff (ntNow s) t)
        | none => false
      if x.judged then s
      else if launchMode s p c && past && lateDrop s p c then
        judge p c n (txDropped (inc (setEg s k xs) (Reg.ETH_LATE_DROP p)) x txLATE)
      else if launchMode s p c && past then inc (setEg s k ({ x with late := true, judged := true, headAt := h } :: xs)) (Reg.ETH_LATE_SENT p)
      else setEg s k ({ x with judged := true, headAt := h } :: xs)
    | [] => s

/-- Judge the head of each class queue of a port. -/
def judgePort (s : State) (p : Nat) : State := foldS (fun s c => judge p c ((egAt s (egKey p c)).length) s) (List.range 8) s

/-- A frame enters a class queue, and is judged if it is at its head. -/
def enqueueJudged (s : State) (p c fid : Nat) (kind : TxKind) (launch : Option Nat) : State :=
  let s := enqueue s p c fid kind launch
  judge p c ((egAt s (egKey p c)).length) s

/-- A class is paused (R299). -/
def paused (s : State) (p c : Nat) : Bool := decide (s.mono.toNat < SMap.get 0 s.pkt.pause (egKey p c))

/-- The launch time of the head of a launch-mode class. -/
def headLaunch (s : State) (p c : Nat) : Option Nat :=
  match egAt s (egKey p c) with
  | x :: _ => if launchMode s p c then x.launch else none
  | [] => none

/-- The class offers its head frame (R319, R320). -/
def offers (s : State) (p c : Nat) : Bool :=
  match egAt s (egKey p c), headLaunch s p c with
  | x :: _, some t => x.late || decide (0 ≤ ntDiff (ntNow s) t)
  | _ :: _, none => true
  | [], _ => false

/-- R321: a frame of `len` bytes of class `c` would end after the launch time of another class's launch-mode head. A launch-mode head that is due is held back by none. -/
def collides (s : State) (p c len : Nat) : Bool :=
  let stop := ntNow s + byteTime s p (len + 24)
  let hit (d : Nat) : Bool :=
    match headLaunch s p d with
    | some t => d != c && decide (0 < ntDiff stop t)
    | none => false
  (headLaunch s p c).isNone && (List.range 8).any hit

/-- The class whose head the port starts now. -/
def nextClass (s : State) (p : Nat) : Option Nat :=
  [7, 6, 5, 4, 3, 2, 1, 0].find? (fun c =>
    match egAt s (egKey p c) with
    | x :: _ => offers s p c && !paused s p c && !collides s p c (frameAt s x.fid).data.length
    | [] => false)

/-! ### Changes of a frame on its way to the MAC -/

/-- The one's-complement sum folded to 16 bits. -/
def fold16 (x : Nat) : Nat := let y := x % 65536 + x / 65536; y % 65536 + y / 65536

/-- Sum of the 16-bit big-endian words of a byte list, a last odd byte padded. -/
def wordSum : List Byte → Nat
  | a :: b :: t => a.toNat * 256 + b.toNat + wordSum t
  | [a] => a.toNat * 256
  | [] => 0

/-- The one's complement checksum of a sum. -/
def cksum (x : Nat) : Nat := 65535 - fold16 (fold16 (x % 2 ^ 32))

/-- The UDP checksum a frame carries after `old` became `new` (RFC 1624); an IPv4 checksum of 0 stays 0, a computed 0 is sent as 0xFFFF. -/
def udpFix (d : List Byte) (old new : List Byte) : List Byte :=
  match parseUdp d with
  | some p =>
    let hc := be d (p.udp + 6) 2
    let v := cksum ((65535 - hc) + (65535 * (old.length / 2) - wordSum old) + wordSum new)
    if !p.v6 ∧ hc = 0 then d else patch d (p.udp + 6) (beBytes 2 (if v = 0 then 65535 else v))
  | none => d

/-- Replace the bytes at even offset `o` from the UDP header and keep the UDP checksum right. -/
def patchUdp (d : List Byte) (o : Nat) (xs : List Byte) : List Byte := udpFix (patch d o xs) (sub d o xs.length) xs

/-- correctionField + `x`, with saturation: the new bytes, and whether it saturated (R345). -/
def cfAdd (cf : Nat) (x : Int) : List Byte × Bool :=
  let y := sext 64 cf + x
  if y > 0x7FFFFFFFFFFFFFFF then (beBytes 8 0x7FFFFFFFFFFFFFFF, true) else (beBytes 8 (trunc 64 y), false)

/-- The residence time of R345, from corrected instants in 1/262144 of a cycle, in 2^-16 ns. -/
def residence (s : State) (rx tx : Int) : Int :=
  let d := rne (tx - rx) 5
  d + rne (d * ffoOf s) (2 ^ 40)

/-- The transparent clock's correction of a transit copy (R345). -/
def tcCorrect (s : State) (d : List Byte) (rx tx : Int) : List Byte × State :=
  match ptpOff d with
  | some o =>
    if rdb s Reg.DTM_PTP_CFG 0 && decide (be d o 1 % 16 ≤ 3) then
      let c := cfAdd (be d (o + 8) 8) (residence s rx tx)
      (patchUdp d (o + 8) c.1, inc (if c.2 then inc s Reg.DTM_TC_SAT else s) Reg.DTM_TC_FRAMES)
    else (d, s)
  | none => (d, s)

/-- IP lengths, IPv4 header checksum, UDP length and UDP checksum of a frame (R318). -/
def fillSums (d : List Byte) (p : Parsed) : List Byte :=
  let n := d.length
  let d := if p.v6 then patch d (p.ip + 4) (beBytes 2 (n - p.ip - 40))
    else
      let d := patch (patch d (p.ip + 2) (beBytes 2 (n - p.ip))) (p.ip + 10) [0, 0]
      patch d (p.ip + 10) (beBytes 2 (cksum (wordSum (sub d p.ip 20))))
  let d := patch (patch d (p.udp + 4) (beBytes 2 (n - p.udp))) (p.udp + 6) [0, 0]
  let v := cksum (wordSum p.src + wordSum p.dst + 17 + (n - p.udp) + wordSum (d.drop p.udp))
  patch d (p.udp + 6) (beBytes 2 (if v = 0 then 65535 else v))

/-- The one-step origin of a Sync message from a transmit ring (R347). -/
def syncOrigin (s : State) (d : List Byte) (csum : Bool) (nt : Nat) : List Byte :=
  match ptpOff d with
  | some o =>
    if rdb s Reg.DTM_PTP_CFG 1 && be d o 1 % 16 == 0 && be d (o + 1) 1 % 16 == 2 && !(be d (o + 6) 1).testBit 1 then
      let d := patchUdp d (o + 34) (secNs nt)
      let d := patchUdp d (o + 8) (cfAdd (be d (o + 8) 8) (ntFrac nt)).1
      match parseUdp d with
      | some p => if csum then fillSums d p else d
      | none => d
    else d
  | none => d

/-- The bytes a frame leaves with, at transmit instant `x` and its network time. -/
def sentBytes (s : State) (t : TxFrame) (x : Int) (nt : Nat) : List Byte × State :=
  let f := frameAt s t.fid
  match t.kind with
  | .ptp => tcCorrect s f.data f.x x
  | .job _ csum => (syncOrigin s f.data csum nt, s)
  | .router x _ => (if x.oneStep then patch f.data 30 (secNs nt ++ beBytes 2 (ntFrac nt)) else f.data, s)
  | _ => (f.data, s)

/-! ### The MAC -/

def wireAt (s : State) (p : Nat) : Option OnWire := SMap.get none s.pkt.wire p
def setWire (s : State) (p : Nat) (w : Option OnWire) : State := { s with pkt := { s.pkt with wire := SMap.put none s.pkt.wire p w } }

/-- Start the head frame of class `c` at the current count and fraction `frac`. -/
def startFrame (s : State) (p c : Nat) (frac : Nat) : State :=
  match egAt s (egKey p c) with
  | t :: ts =>
    let x := corrX (65536 * s.mono.toNat + frac) (txCorr s p)
    let nt := ntAtX s x
    let b := sentBytes (setEg s (egKey p c) ts) t x nt
    let m := s.mono.toNat
    let s := setWire b.2 p (some ⟨t, b.1, nt, m + byteCounts s p (b.1.length + 4)⟩)
    let s := { s with pkt := { s.pkt with idleAt := SMap.put 0 s.pkt.idleAt p (m + byteCounts s p (b.1.length + 24)) } }
    judge p c ts.length s
  | [] => s

/-- FRAME_TRANSMIT (R319, R321): the port starts a frame; `frac` is the fraction of the cycle of its start-of-frame delimiter. -/
def execFrameTransmit (port : Fin 16) (frac : BitVec 16) (s : State) : Host.Outcome State Fault Refusal :=
  live s (
    let t := judgePort (notBefore s (SMap.get 0 s.pkt.idleAt port)) port
    if frozen s || !macsRun s || !portOn s port || !linkUp s port || (wireAt s port).isSome then s
    else match nextClass t port with
      | some c => startFrame t port c frac.toNat
      | none => s)

/-- TX_COMPLETE (R302, R316): the frame on the wire has left; in M10 its status and cells stay (R324). -/
def execTxComplete (port : Fin 16) (s : State) : Host.Outcome State Fault Refusal :=
  live s (match wireAt s port with
    | some w =>
      let s := setWire (notBefore s w.stop) port none
      let s := addc (inc s (Reg.ETH_TX_FRAMES port)) (Reg.ETH_TX_BYTES port) (w.data.length + 4)
      if frozen s then s else txSent s w.tx w.data.length w.nt
    | none => s)

/-- LAUNCH_TIME_REACHED (R319). -/
def execLaunchTimeReached (port : Fin 16) (cls : Fin 8) (s : State) : Host.Outcome State Fault Refusal :=
  live s (if frozen s then s
    else
      let s := judgePort s port
      match headLaunch s port cls with
      | some t => ntWait s t
      | none => s)

/-- TX_LINK_TIMEOUT (Table 12.9): the link has been down for longer than 10 ms with a frame at the head of a class queue. -/
def execTxLinkTimeout (port : Fin 16) (cls : Fin 8) (s : State) : Host.Outcome State Fault Refusal :=
  live s (
    let k := egKey port cls
    match egAt s k with
    | x :: xs =>
      if frozen s || linkUp s port then s
      else
        let s := notBefore s (max (SMap.get 0 s.pkt.downAt port) (x.headAt.getD s.mono.toNat) + 12500001)
        judge port cls xs.length (txDropped (setEg s k xs) x txLINK)
    | [] => s)

/-- PAUSE_EXPIRY (R299): the pause interval of a class runs out. -/
def execPauseExpiry (port : Fin 16) (cls : Fin 8) (s : State) : Host.Outcome State Fault Refusal :=
  live s (
    let k := egKey port cls
    let t := SMap.get 0 s.pkt.pause k
    if t = 0 then s
    else
      let s := notBefore s t
      { s with pkt := { s.pkt with pause := SMap.put 0 s.pkt.pause k 0 } })

/-! ### Transmit rings (R316 to R318) -/

def txJOB : Nat := 1
def txADDR : Nat := 2
def txGATE : Nat := 3
def txHDR : Nat := 4
def txFAR : Nat := 6
def txMEM : Nat := 8

def txPort (j : List Byte) : Nat := wdf j 6 31 28
def txClass (j : List Byte) : Nat := wdf j 6 27 25
def txLaunch (j : List Byte) : Bool := (wd j 6).testBit 24
def txGate (j : List Byte) : Bool := (wd j 6).testBit 23
def txCsum (j : List Byte) : Bool := (wd j 6).testBit 22
def txHdrLen (j : List Byte) : Nat := wdf j 2 7 0
def txPayLen (j : List Byte) : Nat := wdf j 5 13 0

/-- JOB: a field marked 0 is not 0, a length out of range, a port that does not exist or is disabled. -/
def txJobBad (s : State) (j : List Byte) : Bool :=
  wdf j 1 31 16 != 0 || wdf j 2 31 8 != 0 || wdf j 4 31 16 != 0 || wdf j 5 31 14 != 0 || wdf j 6 20 0 != 0 || wdf j 8 31 30 != 0 ||
  wdf j 10 31 16 != 0 || wd j 11 != 0 || wd j 12 != 0 || wd j 13 != 0 || wdf j 14 25 14 != 0 ||
  decide (txHdrLen j < 14 ∨ 128 < txHdrLen j ∨ 9198 < txPayLen j ∨ 9212 < txHdrLen j + txPayLen j) || !portEnabled s (txPort j)

/-- ADDR: header, payload or gate outside memory, or a gate that is not a multiple of 8. -/
def txAddrBad (s : State) (j : List Byte) (len : Nat) : Bool :=
  !inMem s (wdAddr j 0) (txHdrLen j) || !inMem s (wdAddr j 3) len ||
  (txGate j && (wdAddr j 9 % 8 != 0 || !inMem s (wdAddr j 9) 8))

/-- The launch time: the instance of T7 and T8 nearest to the current network time (R319), in 2^-16 ns. -/
def launchTime (s : State) (j : List Byte) : Nat :=
  let m := 2 ^ 16 * (2 ^ 32 * 10 ^ 9)
  let now := ntNow s
  let d := 2 ^ 16 * (wd j 7 * 10 ^ 9 + wdf j 8 29 0) + m - now % m
  let d := d % m
  let d : Int := if m / 2 ≤ d then (d : Int) - m else d
  (((now : Int) + d) % ntWrap).toNat

/-- The horizon in 2^-16 ns. -/
def horizon (s : State) : Int := 2 ^ 16 * (rdf s Reg.PKT_TX_CFG 25 16 * 10 ^ 6)

def holdAt (s : State) (r : Nat) : Option TxHold := SMap.get none s.pkt.hold r
def setHold (s : State) (r : Nat) (h : Option TxHold) : State := { s with pkt := { s.pkt with hold := SMap.put none s.pkt.hold r h } }

/-- A fetched entry fails before its frame is built. -/
def txFail (s : State) (h : TxHold) (code : Nat) : State :=
  jobDone (drawn (setHold s h.job.ring none)) h.job code false 0 (Config.noTxTime s.freeCtr)

/-- The checksums of a frame that asks for them; none for a header of another form (R318). -/
def txSums (j : List Byte) (d : List Byte) : Option (List Byte) :=
  if !txCsum j then some d
  else match parseUdp d with
    | some p => if p.udp + 8 ≤ txHdrLen j then some (fillSums d p) else none
    | none => none

/-- Build the frame of `d` in cells `c` and queue it. -/
def txQueue (s : State) (h : TxHold) (d : List Byte) (c : Nat × Nat × Nat) : State :=
  let j := h.bytes
  let t := launchTime s j
  if txLaunch j && decide (horizon s < ntDiff t (ntNow s)) then txFail s h txFAR
  else
    let r := storeFrame (setHold s h.job.ring none) ⟨16, d, 0, 0, 0, 1, 0, 0⟩ c
    enqueueJudged r.2 (txPort j) (txClass j) r.1 (.job h.job (txCsum j)) (if txLaunch j then some t else none)

/-- Build the frame of a fetched entry whose payload length is `len`, or wait for cells. -/
def txPlace (s : State) (h : TxHold) (len : Nat) : State :=
  let j := h.bytes
  if 9212 < txHdrLen j + len then txFail s h txJOB
  else if txAddrBad s j len then txFail s h txADDR
  else match cellPlan s .shared 16 (txHdrLen j + len + 4) with
    | none => setHold s h.job.ring (some { h with len := some len })
    | some c =>
      match memRead s pktPort (wdAddr j 0) (txHdrLen j) with
      | (none, s) => txFail s h txMEM
      | (some hd, s) =>
        match memRead s pktPort (wdAddr j 3) len with
        | (none, s) => txFail s h txMEM
        | (some pl, s) =>
          match txSums j (hd ++ pl) with
          | none => txFail s h txHDR
          | some d => txQueue s h d c

/-- Read the gate of a fetched entry (R317): `last` after the last read allowed. -/
def gateRead (s : State) (h : TxHold) (last : Bool) : State :=
  match memRead s pktPort (wdAddr h.bytes 9) 8 with
  | (none, s) => txFail s h txMEM
  | (some g, s) =>
    if (wd g 0).testBit 31 then (if wdf g 0 30 27 = 0 then txPlace s h (wdf g 0 11 0) else txFail s h txGATE)
    else if last then txFail s h txGATE
    else setHold s h.job.ring (some h)

/-- Fetch the next entry of ring `r`. -/
def txFetch (s : State) (r : Fin 16) : State :=
  let i := ringNext s (.txr r)
  let off := ringEntry s (.txr r) i
  let j := sramGet s off 64
  let s := setRingNext s (.txr r) (i + 1)
  let h : TxHold := ⟨⟨r, i, off, (wd j 6).testBit 21⟩, j, none, s.mono.toNat, 0⟩
  if txJobBad s j then txFail s h txJOB
  else if txAddrBad s j (txPayLen j) then txFail s h txADDR
  else if txGate j then gateRead s h false
  else txPlace s h (txPayLen j)

/-- TX_FETCH (R316): a fetched entry that waits for cells tries again, else the next entry is fetched; one that waits for its gate holds the ring. -/
def execTxFetch (ring : Fin 16) (s : State) : Host.Outcome State Fault Refusal :=
  live s (if frozen s then s
    else match holdAt s ring with
      | some h =>
        match h.len with
        | some n => txPlace s h n
        | none => s
      | none => if ringReady s (.txr ring) then txFetch s ring else s)

/-- GATE_POLL (R317): 1 µs has passed since the last read of the gate. -/
def execGatePoll (ring : Fin 16) (s : State) : Host.Outcome State Fault Refusal :=
  live s (match holdAt s ring with
    | some h =>
      if frozen s || h.len.isSome then s
      else
        let n := h.polls + 1
        gateRead (notBefore s (h.since + 1250 * n)) { h with polls := n } (decide (rdf s Reg.PKT_TX_CFG 9 0 ≤ n))
    | none => s)

/-! ### Links (R299) -/

/-- The mode of Clause 73: the highest ability that both sides advertise (Table 12.2), of which only an even port has 100G (R298); 0 for none. -/
def resolve (s : State) (n : Nat) (partner : BitVec 8) : Nat :=
  let a := fld (rd s (Reg.ETH_AN n)) 7 0 &&& partner.toNat
  if a.testBit 5 ∧ n % 2 = 0 then 5
  else if a.testBit 4 then 4
  else if a.testBit 3 ∨ a.testBit 2 then 3
  else if a.testBit 1 then 2
  else if a.testBit 0 then 1
  else 0

/-- The mode in which the port's link comes up: resolved with a partner's abilities, or that of ETH_CTRL. -/
def linkMode (s : State) (n : Nat) (partner : BitVec 8) : Nat :=
  if !portOn s n then 0 else if rdb s (Reg.ETH_CTRL n) 3 then resolve s n partner else rdf s (Reg.ETH_CTRL n) 2 0

/-- Port `n`'s link is down: ETH_STAT. -/
def linkLost (s : State) (n : Nat) : State :=
  let s := if linkUp s n then { s with pkt := { s.pkt with downAt := SMap.put 0 s.pkt.downAt n s.mono.toNat } } else s
  let s := if n = syncePort s then { s with dtm := { s.dtm with synceLost := true } } else s
  wr s (Reg.ETH_STAT n) 0

/-- A port's link comes up with a partner's abilities, or goes down: ETH_STAT. A link that resolves to 100G takes the next lane from its port. -/
def ethLink (s : State) (n : Nat) (partner : Option (BitVec 8)) : State :=
  let m := match partner with
    | some a => linkMode s n a
    | none => 0
  if m = 0 then linkLost s n
  else wr (if m = 5 then linkLost s (n + 1) else s) (Reg.ETH_STAT n) (BitVec.ofNat 32 (2 * m + 1))

end Sys2Proof.Machine
end

