-- ==== Sys2Proof/Machine/Plumb.lean ====
section
/-! DEFINITION. Plumb (R353 to R357): the oscillator model, learning, ageing, and the ensemble of fabric peers. -/

namespace Sys2Proof.Machine

/-- The temperature of the selected sensor, signed (R353); a number without a sensor leaves the last one. -/
def plumbTemp (s : State) : Word :=
  let k := rdf s Reg.DTM_PLUMB_CFG 5 0
  if k < 24 then BitVec.ofNat 32 (rdf s (Reg.BMK_SENS k) 15 0)
  else if k = 63 then BitVec.ofNat 32 s.dtm.ext.toNat
  else rd s Reg.DTM_PLUMB_TEMP

/-- Hours in counts of the monotonic counter. -/
def hourCounts : Nat := 3600 * 1250000000

/-- The model's y × 2^40 (R353). -/
def plumbY (s : State) : Frac :=
  let d : Int := sext 16 (rdf s Reg.DTM_PLUMB_TEMP 15 0) - sext 16 (rdf s Reg.DTM_PLUMB_T0 15 0)
  let c (i : Nat) : Int := sint (rd s (Reg.DTM_PLUMB_C i))
  let x := c 0 * 2 ^ 20 + c 1 * d * 2 ^ 16 + c 2 * d ^ 2 * 2 ^ 8 + c 3 * d ^ 3
  let tau := if s.dtm.state = 3 then s.mono.toNat - s.dtm.holdSince else 0
  Frac.red (x * hourCounts + sint (rd s Reg.DTM_PLUMB_AGE) * tau * 2 ^ 20, 2 ^ 20 * hourCounts)

/-- The mean ffo of the second that ends now (R354). -/
def meanFfo (s : State) : Frac :=
  let m := s.mono.toNat
  (s.dtm.ffoAcc + ffoOf s * ((m : Int) - s.dtm.ffoMark), max 1 (m - s.dtm.secStart))

/-- The learning of a second (R354): c0, and the learning hour. -/
def plumbLearn (s : State) (mean : Frac) : State :=
  let y := plumbY s
  let r := Frac.add mean (-y.1, y.2)
  let c0 := sint (rd s (Reg.DTM_PLUMB_C 0))
  let old := rd s (Reg.DTM_PLUMB_C 0)
  let s := wr s (Reg.DTM_PLUMB_C 0) (ofSint 32 (c0 + rne r.1 (r.2 * 2 ^ rdf s Reg.DTM_PLUMB_CFG 11 8)))
  let hist := if s.dtm.c0Hist = [] then [old] else s.dtm.c0Hist
  let n := s.dtm.learnSec + 1
  if n < 3600 then { s with dtm := { s.dtm with learnSec := n, c0Hist := hist } }
  else
    let s := wrf s Reg.DTM_PLUMB_STAT 31 16 (min 65535 (rdf s Reg.DTM_PLUMB_STAT 31 16 + 1))
    { s with dtm := { s.dtm with learnSec := 0, c0Hist := (rd s (Reg.DTM_PLUMB_C 0) :: hist).take 25, ageDue := true } }

/-- PLUMB_SECOND (R353 to R355). -/
def execPlumbSecond (s : State) : Host.Outcome State Fault Refusal :=
  live s (
    let s := notBefore s (s.dtm.secStart + 1250000000)
    let mean := meanFfo s
    let s := wr s Reg.DTM_PLUMB_TEMP (plumbTemp s)
    let s := if s.dtm.state = 2 ∧ rdb s Reg.DTM_PLUMB_CFG 6 then plumbLearn s mean else s
    let s := if s.dtm.state = 3 ∨ (s.dtm.state = 0 ∧ srvSrc s ≠ 0) then
        let y := plumbY s
        setFfo s (clampFfo s (rne y.1 y.2))
      else s
    { s with dtm := { s.dtm with secStart := s.mono.toNat, ffoAcc := 0, ffoMark := s.mono.toNat } })

/-- PLUMB_AGE_UPDATE (R354): after 24 h of learning, once per learning hour. -/
def execPlumbAgeUpdate (s : State) : Host.Outcome State Fault Refusal :=
  live s (if s.dtm.ageDue then
    let s := { s with dtm := { s.dtm with ageDue := false } }
    match s.dtm.c0Hist[24]? with
    | some old => wr s Reg.DTM_PLUMB_AGE (ofSint 32 (rne (sint (rd s (Reg.DTM_PLUMB_C 0)) - sint old) 24))
    | none => s
  else s)

/-! ### Peers (R356, R357) -/

/-- A peer's transmit time `ts` and the local receive time `t`, in 2^-16 ns, in the manner of R207. -/
def peerSample (p : Peer) (ts t : Nat) : Peer :=
  if p.haveA then
    let x := ntDiff ts p.tsA - ntDiff t p.tA
    let p := if p.n = 0 then { p with tF := t } else p
    let p := if !p.haveMin ∨ x < p.dm then { p with dm := x, tsM := ts, tM := t, haveMin := true } else p
    { p with n := p.n + 1 }
  else { p with haveA := true, tsA := ts, tA := t, haveMin := false, n := 0, primed := false }

/-- A time message of a peer: its address, quality, transmit time and receive time. -/
def peerMessage (s : State) (addr q ts t : Nat) : State :=
  let ps := if s.dtm.peers.any (fun p => p.addr == addr) then s.dtm.peers else s.dtm.peers ++ [Peer.new addr q]
  { s with dtm := { s.dtm with peers := ps.map (fun p => if p.addr = addr then { peerSample p ts t with q := q, heard := true, silent := 0 } else p) } }

/-- The end of a peer's window: its frequency, or none; an interval without any message of it counts (R357). -/
def peerClose (t : Nat) (p : Peer) : Peer :=
  let p := { p with heard := false, silent := if p.heard then 0 else p.silent + 1 }
  let dtm := ntDiff p.tM p.tA
  let fin (p : Peer) : Peer := { p with tsA := p.tsM, tA := p.tM, haveMin := false, n := 0 }
  if !p.haveMin then { p with r := none }
  else if !p.primed then { fin { p with primed := true } with r := none }
  else if dtm ≤ 0 ∨ 2 * dtm < ntDiff t p.tF then { fin p with r := none }
  else { fin p with r := some (Frac.red (p.dm, dtm.toNat)) }

/-- Insert a peer among others, highest quality first, the lower address first among equals. -/
def peerInsert (p : Peer) : List Peer → List Peer
  | [] => [p]
  | x :: xs => if x.q < p.q ∨ (x.q = p.q ∧ p.addr < x.addr) then p :: x :: xs else x :: peerInsert p xs

/-- Peers join and leave the table (R357). -/
def peerJoin (ps : List Peer) : List Peer :=
  let live := (ps.filter (fun p => decide (p.silent < 4))).foldr peerInsert []
  (live.take 32).map (fun p => { p with inTable := true }) ++ (live.drop 32).map (fun p => { p with inTable := false })

/-- Peers by frequency, lowest first. -/
def freqInsert (x : Frac × Nat) : List (Frac × Nat) → List (Frac × Nat)
  | [] => [x]
  | y :: ys => if Frac.le x.1 y.1 then x :: y :: ys else y :: freqInsert x ys

/-- The weighted median: the first whose cumulated weight reaches half of the total. -/
def medianFrom (total : Nat) : Nat → List (Frac × Nat) → Frac
  | _, [] => (0, 1)
  | acc, x :: xs => if total ≤ 2 * (acc + x.2) then x.1 else medianFrom total (acc + x.2) xs

def wMedian (xs : List (Frac × Nat)) : Frac := medianFrom (xs.map (·.2)).sum 0 (xs.foldr freqInsert [])

/-- |x − y| ≤ rej × 2^-36. -/
def nearMedian (rej : Nat) (x y : Frac) : Bool :=
  decide ((x.1 * y.2 - y.1 * x.2).natAbs * 2 ^ 36 ≤ rej * x.2 * y.2)

/-- The ensemble's correction from the peers that are used (R356). -/
def ensembleApply (s : State) (used : List (Frac × Nat)) : State :=
  let num := used.foldl (fun f x => Frac.add f (Frac.scale x.1 x.2 1)) (0, 1)
  let f := Frac.scale num 1 (max 1 (qSelf s + (used.map (·.2)).sum))
  let c0 := sint (rd s (Reg.DTM_PLUMB_C 0)) + rne (f.1 * 2 ^ 38) f.2
  wr (wr s (Reg.DTM_PLUMB_C 0) (ofSint 32 c0)) Reg.DTM_PLUMB_ENS_LAST (ofSint 32 (Frac.u40 f))

/-- A peer that has a frequency and a quality. -/
def peerHas (p : Peer) : Bool := p.inTable && p.r.isSome && decide (1 ≤ p.q)

def peerFreq (p : Peer) : Frac × Nat := (p.r.getD (0, 1), p.q)

/-- A peer that the ensemble uses: near the median. -/
def peerKeep (rej : Nat) (med : Frac) (p : Peer) : Bool := peerHas p && nearMedian rej (peerFreq p).1 med

/-- Mark the peers used, and count them and those rejected. -/
def ensembleMark (s : State) (has used : Nat) (keep : Peer → Bool) : State :=
  let s := { s with dtm := { s.dtm with peers := s.dtm.peers.map (fun p => { p with used := keep p }) } }
  wrf (wrf s Reg.DTM_PLUMB_STAT 15 8 used) Reg.DTM_PLUMB_STAT 7 0 (has - used)

/-- Choose the peers to use, and correct c0 by them (R356). -/
def ensembleRun (s : State) : State :=
  let xs := (s.dtm.peers.filter peerHas).map peerFreq
  let keep := peerKeep (rdf s Reg.DTM_PLUMB_ENS_CFG 15 0) (wMedian xs)
  let used := (s.dtm.peers.filter keep).map peerFreq
  let s := ensembleMark s xs.length used.length keep
  if used.length < rdf s Reg.DTM_PLUMB_ENS_CFG 21 16 then dtmInt s 7 else ensembleApply s used

/-- Counts of the monotonic counter in an ensemble interval (R356). -/
def ensCounts (s : State) : Nat := rpt (rdf s Reg.DTM_PLUMB_ENS_CFG 27 24) where
  rpt : Nat → Nat
    | 0 => 1250000000
    | n + 1 => 2 * rpt n

/-- Close every peer's window. -/
def peersClose (s : State) (t : Nat) : State :=
  { s with dtm := { s.dtm with ensStart := s.mono.toNat, peers := s.dtm.peers.map (peerClose t) } }

def peersJoin (s : State) : State := { s with dtm := { s.dtm with peers := peerJoin s.dtm.peers } }

/-- PLUMB_ENSEMBLE (R356): an ensemble interval ends. -/
def execPlumbEnsemble (s : State) : Host.Outcome State Fault Refusal :=
  live s (
    let s := notBefore s (s.dtm.ensStart + ensCounts s)
    let s := peersClose s (ntNow s)
    peersJoin (if s.dtm.state = 3 ∧ rdb s Reg.DTM_PLUMB_ENS_CFG 31 then ensembleRun s else s))

end Sys2Proof.Machine
end

