-- ==== Sys2Proof/Machine/FabLinks.lean ====
section
/-! DEFINITION. The fabric router: frames, links, credits, and the choice of a next hop (R361 to R378, R386). -/

namespace Sys2Proof.Machine

/-! ### Frames (R362) -/

/-- Fields of a fabric header, from the frame's bytes after the EtherType. -/
def fhVer (h : List Byte) : Nat := slice (be h 0 4) 31 28
def fhType (h : List Byte) : Nat := slice (be h 0 4) 27 24
def fhCls (h : List Byte) : Nat := slice (be h 0 4) 23 22
def fhTtl (h : List Byte) : Nat := slice (be h 0 4) 21 18
def fhDst (h : List Byte) : Nat := slice (be h 0 4) 13 0
def fhSv (h : List Byte) : Bool := (be h 4 4).testBit 31
def fhLl (h : List Byte) : Bool := (be h 4 4).testBit 30
def fhSrc (h : List Byte) : Nat := slice (be h 4 4) 29 16
def fhPlen (h : List Byte) : Nat := slice (be h 4 4) 13 0
def fhCsent (h : List Byte) : Nat := be h 8 4
def fhFlow (h : List Byte) : Nat := be h 12 2
def fhAux (h : List Byte) : Nat := be h 14 2
def fhPay (h : List Byte) : List Byte := sub h 16 (fhPlen h)

/-- Class of each type (Table 14.2). -/
def typeCls (t : Nat) : Nat :=
  match t with
  | 5 => 1
  | 6 => 3
  | 7 => 2
  | 8 => 2
  | 9 => 2
  | _ => 0

/-- The header and payload of a frame the router builds; version and csent are put in when it leaves. -/
def fabBytes (s : State) (type dst flow aux : Nat) (ll : Bool) (pay : List Byte) : List Byte :=
  let sv := rdb s Reg.FAB_STAT 31
  let src := if sv then rdf s Reg.FAB_STAT 29 16 else 0
  beBytes 4 (2 ^ 24 * type + 2 ^ 22 * typeCls type + 2 ^ 18 * rdf s Reg.FAB_TIMERS 3 0 + (if ll then 0 else dst)) ++
  beBytes 4 (2 ^ 31 * sv.toNat + 2 ^ 30 * ll.toNat + 2 ^ 16 * src + pay.length) ++ beBytes 4 0 ++ beBytes 2 flow ++ beBytes 2 aux ++ pay

/-- A whole frame without FCS, padded to 60 bytes. -/
def fabFrame (s : State) (port dst ver csent : Nat) (h : List Byte) : List Byte :=
  let h := patch (patch h 0 (beBytes 1 (ver * 16 + fhType h))) 8 (beBytes 4 csent)
  let h := if ver = 1 then patch h 12 [0, 0] else h
  let d := beBytes 6 dst ++ beBytes 6 (station s port) ++ beBytes 2 0x88B5 ++ h
  d ++ List.replicate (60 - d.length) 0

/-- Header and payload of a received frame. -/
def fabPart (d : List Byte) : List Byte := d.drop (l3Off d)

/-- Ethernet traffic class of a fabric class. -/
def fabTc (s : State) (c : Nat) : Nat := rdf s Reg.FAB_TC (3 * c + 2) (3 * c)

/-! ### Drops, state of the router -/

def fcHDR : Nat := 0
def fcTTL : Nat := 1
def fcNOROUTE : Nat := 2
def fcVER : Nat := 3
def fcNOCELL : Nat := 4
def fcTRANSIT : Nat := 5
def fcLATE : Nat := 6
def fcSTATE : Nat := 7

/-- Count a drop (Table 14.3). -/
def fabDrop (s : State) (c : Nat) : State := inc s (Reg.FAB_DROP c)

def fabInt (s : State) (bit : Nat) : State := orr s Reg.FAB_INT_STAT (BitVec.ofNat 32 (2 ^ bit))

/-- The router works: enabled, not frozen, past boot. -/
def fabOn (s : State) : Bool := rdb s Reg.FAB_CTRL 0 && !frozen s && macsRun s

/-- The link is UP. -/
def isUp (s : State) (j : Nat) : Bool :=
  match linkAt s j with
  | some l => l.state == 2
  | none => false

/-- Links UP, ascending. -/
def upLinks (s : State) : List Nat := (List.range 64).filter (isUp s)

/-- A received fabric frame's cells are freed. -/
def fabFree (s : State) (r : FabRx) : State := creditReturn? (freeFrame s r.fid) r.up

/-- A queued frame is dropped with a cause. -/
def fabTxDrop (s : State) (f : FabTx) (c : Nat) : State :=
  let s := fabDrop s c
  let s := match f.fid with
    | some i => freeFrame s i
    | none => s
  let s := creditReturn? s f.up
  match f.job with
  | some j => jobDone s j (if c = fcNOROUTE then 3 else (Config.fabDropCode c).toNat) false 0 0
  | none => s

/-! ### Sending -/

def fabEgKey (j c : Nat) : Nat := 4 * j + c
def fabEg (s : State) (j c : Nat) : List FabTx := SMap.get [] s.fab.eg (fabEgKey j c)
def setFabEg (s : State) (j c : Nat) (q : List FabTx) : State :=
  { s with fab := { s.fab with eg := SMap.put [] s.fab.eg (fabEgKey j c) q } }

/-- Put the frame `d` of a queue entry for a link into cells, its own or shared ones, and offer it to the port; false when no cell is free. -/
def fabPut (s : State) (port c : Nat) (link : Option Nat) (f : FabTx) (d : List Byte) : Bool × State :=
  let kind := TxKind.router f link
  match f.fid with
  | some i => (true, enqueueJudged (putFrame s i (some { frameAt s i with data := d, refs := 1 })) port (fabTc s c) i kind none)
  | none =>
    match cellPlan s .shared 16 (d.length + 4) with
    | none => (false, s)
    | some p =>
      let r := storeFrame s ⟨16, d, 0, 0, 0, 1, 0, 0⟩ p
      (true, enqueueJudged r.2 port (fabTc s c) r.1 kind none)

/-- Send a class-0 frame to `dst` on a port; without a free cell it is dropped (R370). -/
def fabSend0 (s : State) (port dst ver : Nat) (link : Option Nat) (f : FabTx) : State :=
  match fabPut s port 0 link f (fabFrame s port dst ver 0 f.bytes) with
  | (true, s) => s
  | (false, s) => fabTxDrop s f fcNOCELL

/-- A frame of the router itself. -/
def fabOwn (s : State) (bytes : List Byte) : FabTx := ⟨bytes, none, none, none, false, s.mono.toNat⟩

/-- Hand a frame to link `j`: class 0 leaves at once, classes 1 to 3 wait for credit; a link that is not UP is no usable next hop, and a frame of types 7 to 10 crosses no version-1 link (Tables 14.2, 14.3). -/
def fabToLink (s : State) (j : Nat) (f : FabTx) : State :=
  match linkAt s j with
  | some l =>
    let c := fhCls f.bytes
    if l.state ≠ 2 then fabTxDrop s f fcNOROUTE
    else if 7 ≤ fhType f.bytes ∧ l.ver = 1 then fabTxDrop s f fcVER
    else if c = 0 then fabSend0 s l.port l.mac l.ver (some j) f
    else setFabEg s j c (fabEg s j c ++ [{ f with since := s.mono.toNat }])
  | none => fabTxDrop s f fcNOROUTE

/-- Send a link-local frame of the router on an UP link. -/
def fabLocal (s : State) (j type : Nat) (pay : List Byte) : State := fabToLink s j (fabOwn s (fabBytes s type 0 0 0 true pay))

/-- Routing table entry `a`. -/
def routeAt (s : State) (a : Nat) : Route := SMap.get Route.none s.fab.routes a

/-- The next hop of a routed frame (R386). -/
def nextHop (s : State) (h : List Byte) : Option Nat :=
  let r := routeAt s (fhDst h)
  let v := fhSrc h ^^^ fhDst h ^^^ fhFlow h
  if r.hops < 15 then (r.nh[(v ^^^ (v / 128)) % max 1 r.nh.length]?).map (·.1) else none

/-- Route a frame to its destination, or drop it (R367, R386, Table 14.2). -/
def fabRoute (s : State) (f : FabTx) : State :=
  match nextHop s f.bytes with
  | some j => fabToLink s j f
  | none => fabTxDrop s f fcNOROUTE

/-- Units charged for a frame of `n` bytes without FCS on a link (R369). -/
def unitsOf (l : Link) (n : Nat) : Nat := let u := 256 * 2 ^ l.unit; (n + 4 + u - 1) / u

/-- Lim of R369. -/
def limOf (l : Link) (c : Nat) : Nat := clsOf l.theirs c * 256 / (256 * 2 ^ l.unit)

/-- `a` − `b` modulo 2^32. -/
def sub32 (a b : Nat) : Nat := (a + 2 ^ 32 - b % 2 ^ 32) % 2 ^ 32

/-- Start the first frame of a link's class when its credit and cells allow (R369). -/
def fabStart (s : State) (j c : Nat) : State :=
  match linkAt s j, fabEg s j c with
  | some l, f :: fs =>
    let u := unitsOf l (max 60 (14 + f.bytes.length))
    let sent := (clsOf l.sent c + u) % 2 ^ 32
    if l.state = 2 ∧ sub32 (clsOf l.sent c) (clsOf l.returned c) + u ≤ limOf l c then
      match fabPut s l.port c (some j) f (fabFrame s l.port l.mac l.ver sent f.bytes) with
      | (true, s) => setLink (setFabEg s j c fs) j (some { l with sent := setCls l.sent c sent })
      | (false, _) => s
    else s
  | _, _ => s

/-- FABRIC_FRAME_SEND (R369). -/
def execFabricFrameSend (link : Fin 64) (cls : Fin 4) (s : State) : Host.Outcome State Fault Refusal :=
  live s (if fabOn s && cls.val != 0 then fabStart s link cls else s)

/-- TRANSIT_TIMEOUT (R377): the oldest transit frame of a link's class has waited for credit too long. -/
def execTransitTimeout (link : Fin 64) (cls : Fin 4) (s : State) : Host.Outcome State Fault Refusal :=
  live s (match (fabEg s link cls).find? (fun f => f.fid.isSome) with
    | some f =>
      if !fabOn s then s
      else
        let s := notBefore s (f.since + rdf s Reg.FAB_TIMERS 23 16 * 1250000)
        fabTxDrop (setFabEg s link cls ((fabEg s link cls).erase f)) f fcTRANSIT
    | none => s)

/-! ### Links (R365 to R368, R376) -/

/-- Link `j` is no longer a next hop of an entry; one whose set becomes empty is unreachable. -/
def routeLose (j : Nat) (r : Route) : Route :=
  let nh := r.nh.filter (fun x => x.1 != j)
  { r with nh := nh, hops := if nh = [] ∧ r.nh ≠ [] then 15 else r.hops }

/-- Replace a routing table entry; a change of hops is advertised and sets FAB_INT_STAT.route (R384, R385). -/
def setRoute (s : State) (a : Nat) (r : Route) : State :=
  let old := routeAt s a
  let s := { s with fab := { s.fab with routes := SMap.put Route.none s.fab.routes a r } }
  if old.hops = r.hops then s
  else fabInt { s with fab := { s.fab with changed := s.fab.changed.filter (fun x => x != a) ++ [a] } } 5

/-- A waiting frame of a class queue is one that leaves on link `j`. -/
def ofLink (j : Nat) (x : TxFrame) : Bool :=
  match x.kind with
  | .router _ (some i) => i == j
  | _ => false

/-- Take the frames that leave on link `j` out of the ports' class queues. -/
def unqueueLink (s : State) (j : Nat) : State :=
  foldS (fun s e => judge (e.1 / 8) (e.1 % 8) e.2.length (setEg s e.1 (e.2.filter (fun x => !ofLink j x)))) (s.pkt.eg.filter (fun e => e.2.any (ofLink j))) s

/-- A frame taken out of a class queue, to be routed again from the start: one that the part built gives its cells back, a received one keeps them. -/
def reroute (s : State) (x : TxFrame) : State :=
  match x.kind with
  | .router f _ =>
    let own := (frameAt s x.fid).port == 16
    let s := if own then freeFrame s x.fid else s
    let f := { f with fid := if own then none else some x.fid }
    if fhLl f.bytes then fabTxDrop s f fcNOROUTE else fabRoute s f
  | _ => s

/-- A link leaves UP (R367): next-hop uses are removed, and the frames that wait to leave on it, in the ports' class queues and for credit, are routed again. -/
def leaveUp (s : State) (j : Nat) : State :=
  let queued := s.pkt.eg.flatMap (fun e => e.2.filter (ofLink j))
  let wait := [1, 2, 3].map (fabEg s j)
  let s := foldS (fun s c => setFabEg s j c []) [1, 2, 3] (unqueueLink s j)
  let s := foldS (fun s e => setRoute s e.1 (routeLose j e.2)) s.fab.routes s
  let s := foldS reroute queued s
  let s := foldS (fun s f => if fhLl f.bytes then fabTxDrop s f fcNOROUTE else fabRoute s f) wait.flatten s
  fabInt s 1

/-- Totals of a link that is not UP. -/
def Link.zero (l : Link) : Link :=
  { l with sent := [0, 0, 0], returned := [0, 0, 0], received := [0, 0, 0], freed := [0, 0, 0], lag := [[], [], []], creditDue := false }

/-- Give link `j` a state other than UP: its books are closed when it was UP; NONE frees the entry. -/
def linkTo (s : State) (j st : Nat) : State :=
  match linkAt s j with
  | some l =>
    let s := setLink s j (if st = 0 then none else some { l.zero with state := st })
    if l.state = 2 then leaveUp s j else s
  | none => s

/-- The serial number of the part. -/
def serial : Nat := Config.serial.toNat

/-- Offers of the part in cells; 0 in M3 (R368). -/
def myOffers (s : State) : List Nat :=
  if mode s = 3 then [0, 0, 0] else [rdf s Reg.FAB_OFFER 9 0, rdf s Reg.FAB_OFFER 19 10, rdf s Reg.FAB_OFFER 29 20]

/-- The receive reservation holds with one more link UP (R376). -/
def reserveOk (s : State) : Bool :=
  let used := ((upLinks s).map (fun j => match linkAt s j with
    | some l => l.mine.sum
    | none => 0)).sum
  decide (used + (myOffers s).sum ≤ rdf s Reg.FAB_RXRES 12 0)

/-- The highest bit set in both sets of versions 1 and 2, 0 for none (R366). -/
def commonVer (s : State) (v : Nat) : Nat :=
  let x := rdf s Reg.FAB_ADV 7 0 &&& v
  if x.testBit 2 then 2 else if x.testBit 1 then 1 else 0

/-- The smallest credit unit both advertise. -/
def commonUnit (s : State) (u : Nat) : Option Nat :=
  let x := rdf s Reg.FAB_ADV 11 8 &&& u
  (List.range 4).find? (fun i => x.testBit i)

/-- A field of bytes 10 to 12 or 16 to 21 differs between two HELLOs. -/
def helloChanged (a b : Hello) : Bool := a.vers != b.vers || a.units != b.units || a.time != b.time || a.offers != b.offers

/-- The partner's versions, units or offers differ. -/
def offerChanged (a b : Hello) : Bool := a.vers != b.vers || a.units != b.units || a.offers != b.offers

/-- The mode of a link from the partner's HELLO (R366). -/
def linkSetMode (s : State) (l : Link) (h : Hello) : Link :=
  { l with ver := commonVer s h.vers, unit := (commonUnit s h.units).getD 0, time := rdf s Reg.FAB_ADV 14 12 &&& h.time }

/-- Both sides share a version and a unit. -/
def modeExists (s : State) (h : Hello) : Bool := commonVer s h.vers != 0 && (commonUnit s h.units).isSome

/-- Where a link that is not UP goes at a HELLO (Table 14.5). -/
def nextState (s : State) (h : Hello) : Nat :=
  if !modeExists s h then 3
  else if !reserveOk s then 4
  else if h.echo.contains serial ∧ mode s ≠ 3 then 2
  else 1

/-- A link comes UP (R367, R376). -/
def goUp (s : State) (j : Nat) (l : Link) : State :=
  let e := s.fab.epoch + 1
  let s := { s with fab := { s.fab with epoch := e } }
  fabInt (setLink s j (some { l.zero with state := 2, epoch := e, mine := myOffers s, theirs := l.hello.offers, creditAt := s.mono.toNat })) 0

/-- Evaluate link `j` with the partner's HELLO `h` after `old` (R366, Table 14.5); one row at a time. An UP link whose mode the part's own advertisement changes leaves UP. -/
def evalFrom (s : State) (j : Nat) (l : Link) (old h : Hello) : State :=
  let n := linkSetMode s l h
  let go (st : Nat) : State := if st = 2 then goUp s j n else setLink s j (some { n with state := st })
  match l.state with
  | 2 => let s := setLink s j (some l)
    if !h.echo.contains serial || helloChanged old h || n != l then linkTo s j 1 else s
  | 1 => go (nextState s h)
  | 4 => if offerChanged old h then go 1 else if nextState s h = 2 then go 2 else go 4
  | st => if offerChanged old h then go 1 else go st

/-- Re-evaluate link `j` at a HELLO `h`. -/
def evalLink (s : State) (j : Nat) (l : Link) (h : Hello) : State :=
  evalFrom s j { l with hello := h, heard := s.mono.toNat } l.hello h

/-- A HELLO's payload (Table 14.4). -/
def parseHello (p : List Byte) : Hello :=
  let a := be p 8 2
  let n := min 15 (be p 22 1)
  { serial := be p 0 8, sv := a.testBit 15, asg := a.testBit 14, addr := a % 2 ^ 14, vers := be p 10 1, units := be p 11 1 % 16,
    time := be p 12 1 % 8, q := be p 13 1 % 16, asgValid := (be p 14 2).testBit 15, asgAddr := be p 14 2 % 2 ^ 14,
    offers := [be p 16 2, be p 18 2, be p 20 2], echo := (List.range n).map (fun i => be p (24 + 8 * i) 8) }

/-- Is the address the part's own to advertise: tentative or valid. -/
def addrState (s : State) : Nat := rdf s Reg.FAB_STAT 2 0
def myAddr (s : State) : Nat := rdf s Reg.FAB_STAT 29 16
def holdsAddr (s : State) : Bool := addrState s == 1 || addrState s == 2

/-- The HELLO the part sends on a port. -/
def myHello (s : State) (port : Nat) : List Byte :=
  let sv := rdb s Reg.FAB_STAT 31
  let asg := rdb s Reg.FAB_CTRL 4 && rdf s Reg.FAB_CTRL 3 2 == 0 && sv
  let near (j : Nat) : Option Nat := match linkAt s j with
    | some l => if l.port = port ∧ s.mono.toNat ≤ l.heard + 500000000 then some l.hello.serial else none
    | none => none
  let echo := ((List.range 64).filterMap near).take 15
  beBytes 8 serial ++ beBytes 2 (2 ^ 15 * sv.toNat + 2 ^ 14 * asg.toNat + if holdsAddr s then myAddr s else 0) ++
  beBytes 1 (rdf s Reg.FAB_ADV 7 0) ++ beBytes 1 (rdf s Reg.FAB_ADV 11 8) ++ beBytes 1 (rdf s Reg.FAB_ADV 14 12) ++
  beBytes 1 (qSelf s % 16) ++ beBytes 2 (2 ^ 15 * (rdb s Reg.FAB_ASSIGNER 31).toNat + rdf s Reg.FAB_ASSIGNER 13 0) ++
  ((myOffers s).map (beBytes 2)).flatten ++ beBytes 1 echo.length ++ [0] ++ (echo.map (beBytes 8)).flatten

/-- Ports on which the router sends HELLO. -/
def helloPorts (s : State) : List Nat := (List.range 16).filter (fun n => rdb s Reg.FAB_PORTS n && portExists s n && linkUp s n)

/-- HELLO_SEND (R364): 100 ms have passed. -/
def execHelloSend (s : State) : Host.Outcome State Fault Refusal :=
  live s (if !fabOn s then s
    else
      let s := notBefore s (s.fab.helloAt + 125000000)
      let s := { s with fab := { s.fab with helloAt := s.mono.toNat } }
      foldS (fun s n => fabSend0 s n 0x0300000088B5 1 none (fabOwn s (fabBytes s 0 0 0 0 true (myHello s n)))) (helloPorts s) s)

/-- LINK_TIMEOUT (Table 14.5): no HELLO for 400 ms. -/
def execLinkTimeout (link : Fin 64) (s : State) : Host.Outcome State Fault Refusal :=
  live s (match linkAt s link with
    | some l => if frozen s then s else linkTo (notBefore s (l.heard + 500000000)) link 0
    | none => s)

/-- Links of a port. -/
def portLinks (s : State) (n : Nat) : List Nat :=
  (List.range 64).filter (fun j => match linkAt s j with
    | some l => l.port == n
    | none => false)

/-- LINK_CHANGE (R299): a port's link comes up with a partner's abilities, or goes down; its fabric links go with it. -/
def execLinkChange (port : Fin 16) (partner : Option (BitVec 8)) (s : State) : Host.Outcome State Fault Refusal :=
  live s (if !macsRun s then s
    else
      let s := ethLink s port partner
      let lost := if resMode s port = 5 then [port.val + 1] else if linkUp s port then [] else [port.val]
      if frozen s then s else foldS (fun s n => foldS (fun s j => linkTo s j 0) (portLinks s n) s) lost s)

/-! ### Reception (R363, R374) -/

/-- A field marked 0 is not 0, a version, type, class or length is wrong (R363). -/
def hdrBad (h : List Byte) (ver n : Nat) : Bool :=
  let t := fhType h
  fhVer h != ver || decide (10 < t) || fhCls h != typeCls t || slice (be h 0 4) 17 14 != 0 || slice (be h 4 4) 15 14 != 0 ||
  decide (n < 16 + fhPlen h) || (fhLl h && fhDst h != 0) || (!fhSv h && fhSrc h != 0) || (fhCls h == 0 && fhCsent h != 0) ||
  (ver == 1 && fhFlow h != 0) || (t != 8 && t != 9 && fhAux h != 0)

/-- The link a frame came by: that of the sender's station address on the port. -/
def linkOf (s : State) (f : Frame) : Option (Nat × Link) :=
  (s.fab.links.findSome? (fun e => match e.2 with
    | some l => if l.port = f.port ∧ l.mac = srcMac f.data ∧ l.state = 2 then some (e.1, l) else none
    | none => none))

/-- A frame passes the router's checks: it is for this part, or is routed on (R386). -/
def fabAccept (s : State) (r : FabRx) (h : List Byte) : State :=
  let drop (c : Nat) : State := fabDrop (fabFree s r) c
  if !fhLl h && !fhSv h && fhType h != 2 then drop fcSTATE
  else if fhLl h || (rdb s Reg.FAB_STAT 31 && fhDst h == myAddr s) then { s with fab := { s.fab with loc := s.fab.loc ++ [r] } }
  else if fhTtl h ≤ 1 then drop fcTTL
  else
    let w := be h 0 4
    let h := patch h 0 (beBytes 4 (w - 2 ^ 18))
    fabRoute s ⟨h.take (16 + fhPlen h), some r.fid, r.up, none, false, s.mono.toNat⟩

/-- A frame arrives on link `j`: reconcile its credit (R374). -/
def fabReconcile (s : State) (fid j : Nat) (l : Link) (h : List Byte) (n : Nat) : State :=
  let c := fhCls h
  if c = 0 then fabAccept s ⟨fid, some j, none⟩ h
  else
    let u := unitsOf l n
    let g := sub32 (fhCsent h) (u + clsOf l.received c)
    if 2 ^ 31 ≤ g then fabDrop (freeFrame s fid) fcLATE
    else
      let l := { l with received := setCls l.received c (fhCsent h), freed := setCls l.freed c (clsOf l.freed c + g), creditDue := l.creditDue || g != 0 }
      let s := addc (setLink s j (some l)) Reg.FAB_LOST_UNITS g
      fabAccept s ⟨fid, some j, some ⟨j, l.epoch, c, u⟩⟩ h

/-- The router takes a received frame. -/
def fabReceive (s : State) (fid : Nat) : State :=
  let f := frameAt s fid
  let h := fabPart f.data
  let drop (c : Nat) : State := fabDrop (freeFrame s fid) c
  if !fabOn s then drop fcSTATE
  else if fhType h = 0 then (if hdrBad h 1 h.length then drop fcHDR else fabAccept s ⟨fid, none, none⟩ h)
  else if mode s = 3 then drop fcSTATE
  else match linkOf s f with
    | none => drop fcSTATE
    | some (j, l) => if hdrBad h l.ver h.length then drop fcHDR else fabReconcile s fid j l h f.data.length

/-- FABRIC_FRAME_RECEIVE (R374): the router takes the oldest frame it has received. -/
def execFabricFrameReceive (s : State) : Host.Outcome State Fault Refusal :=
  live s (match s.fab.rx with
    | fid :: rest => if frozen s then s else fabReceive { s with fab := { s.fab with rx := rest } } fid
    | [] => s)

/-- The oldest accepted frame, if it is of type `t` and the router works: its bytes from the header on, and the state without it. -/
def takeLocal (s : State) (t : Nat) : Option (FabRx × List Byte × State) :=
  match s.fab.loc with
  | r :: rest =>
    let h := fabPart (frameAt s r.fid).data
    if fhType h = t ∧ !frozen s then some (r, h, { s with fab := { s.fab with loc := rest } }) else none
  | [] => none

/-- Deliver a local frame to receive ring FAB_RING.rx_ring, from the destination MAC onward (R389). -/
def fabToRing (s : State) (r : FabRx) : State :=
  let f := frameAt s r.fid
  fabFree (rxDeliver s f f.data (rdf s Reg.FAB_RING 3 0) 0) r

/-! ### Credits (R371, R372, R375) -/

/-- CREDIT_SEND (R371): within 1 ms of a change, never sooner than 1 ms after the last, at least every 100 ms. -/
def execCreditSend (link : Fin 64) (s : State) : Host.Outcome State Fault Refusal :=
  live s (match linkAt s link with
    | some l =>
      if !fabOn s || l.state != 2 then s
      else
        let s := notBefore s (l.creditAt + if l.creditDue then 1250000 else 125000000)
        let s := setLink s link (some { l with creditDue := false, creditAt := s.mono.toNat })
        fabLocal s link 1 ((l.freed.map (beBytes 4)).flatten ++ (l.sent.map (beBytes 4)).flatten)
    | none => s)

/-- The returned total that a CREDIT gives for class `c`. -/
def creditF (p : List Byte) (c : Nat) : Nat := be p (4 * (c - 1)) 4

/-- The sender takes a CREDIT's returned total of class `c` (R372). -/
def creditOk (l : Link) (p : List Byte) (c : Nat) : Bool :=
  decide (sub32 (creditF p c) (clsOf l.returned c) ≤ sub32 (clsOf l.sent c) (clsOf l.returned c))

/-- A class's values of a CREDIT (R372); a sent total that the receive side is behind is remembered (R375). -/
def creditClass (m : Nat) (p : List Byte) (l : Link) (c : Nat) : Link :=
  let t := be p (12 + 4 * (c - 1)) 4
  let g := sub32 t (clsOf l.received c)
  let lag := if g ≠ 0 ∧ g < 2 ^ 31 then l.lag.set (c - 1) (l.lag.getD (c - 1) [] ++ [(t, m)]) else l.lag
  { l with returned := if creditOk l p c then setCls l.returned c (creditF p c) else l.returned, lag := lag }

/-- A CREDIT arrives on link `j`: each class's values, and the frame counted once under HDR when a value is ignored (R372). -/
def creditTake (s : State) (j : Nat) (p : List Byte) : State :=
  match linkAt s j with
  | some l =>
    let s' := setLink s j (some ([1, 2, 3].foldl (creditClass s.mono.toNat p) l))
    if [1, 2, 3].all (creditOk l p) then s' else fabDrop s' fcHDR
  | none => s

/-- CREDIT (R372). -/
def execCredit (s : State) : Host.Outcome State Fault Refusal :=
  live s (match takeLocal s 1 with
    | some (r, h, s) =>
      let s := match r.link with
        | some j => creditTake s j (fhPay h)
        | none => s
      fabFree s r
    | none => s)

/-- Reports the receive side is still behind. -/
def behind (l : Link) (c : Nat) : List (Nat × Nat) :=
  (l.lag.getD (c - 1) []).filter (fun x => let g := sub32 x.1 (clsOf l.received c); g != 0 && decide (g < 2 ^ 31))

/-- CREDIT_WRITE_OFF (R375): the oldest report the receive side has stayed behind is written off after loss_to. -/
def execCreditWriteOff (link : Fin 64) (cls : Fin 4) (s : State) : Host.Outcome State Fault Refusal :=
  live s (match linkAt s link with
    | some l =>
      match behind l cls with
      | (t, at_) :: rest =>
        if !fabOn s || cls.val == 0 || l.state != 2 then s
        else
          let s := notBefore s (at_ + rdf s Reg.FAB_TIMERS 15 8 * 1250000)
          let g := sub32 t (clsOf l.received cls)
          let l := { l with received := setCls l.received cls t, freed := setCls l.freed cls (clsOf l.freed cls + g), creditDue := true,
                            lag := l.lag.set (cls - 1) rest }
          addc (setLink s link (some l)) Reg.FAB_LOST_UNITS g
      | [] => s
    | none => s)

/-! ### Audit (R378) -/

/-- Sum over UP links and classes 1 to 3, in units of 256 bytes. -/
def linkSum (s : State) (f : Link → Nat → Nat) : Word :=
  BitVec.ofNat 32 ((upLinks s).map (fun j => match linkAt s j with
    | some l => ([1, 2, 3].map (fun c => f l c)).sum
    | none => 0)).sum

/-- Latch the audit sums (Table 14.12). -/
def fabSnap (s : State) : State :=
  let k (l : Link) : Nat := 2 ^ l.unit
  let out (l : Link) (c : Nat) : Nat := sub32 (clsOf l.sent c) (clsOf l.returned c) * k l
  let held (l : Link) (c : Nat) : Nat := sub32 (clsOf l.received c) (clsOf l.freed c) * k l
  let lim := linkSum s (fun l c => limOf l c * k l)
  let offer := linkSum s (fun l c => clsOf l.mine c)
  let t := wr (wr s Reg.FAB_AUD_LIMIT lim) Reg.FAB_AUD_OUT (linkSum s out)
  let t := wr (wr t Reg.FAB_AUD_AVAIL (lim - linkSum s out)) Reg.FAB_AUD_OFFER offer
  wr (wr t Reg.FAB_AUD_RXHELD (linkSum s held)) Reg.FAB_AUD_RXFREE (offer - linkSum s held)

/-- FAB_AUDIT_SNAPSHOT (R378). -/
def execFabAuditSnapshot (who : Who) (s : State) : Host.Outcome State Fault Refusal := live s (swWrite s who Reg.FAB_AUD_SNAP fabSnap)

end Sys2Proof.Machine
end

