-- ==== Sys2Proof/Machine/FabRoute.lean ====
section
/-! DEFINITION. Fabric addresses, HELLO, the routing table, time messages and the fabric transmit ring (R364 to R366, R379 to R389). -/

namespace Sys2Proof.Machine

/-! ### Sessions' errors -/

def sessAt (s : State) (n : Nat) : Sess := SMap.get Sess.reset s.fab.sess n
def setSess (s : State) (n : Nat) (x : Sess) : State := { s with fab := { s.fab with sess := SMap.put Sess.reset s.fab.sess n x } }

def seRANGE : Nat := 1
def seQUEUE : Nat := 2
def seNOGRAN : Nat := 3
def seTIMEOUT : Nat := 4
def sePEER : Nat := 5
def seMEM : Nat := 6

/-- A session ends with an error (R394). -/
def sessError (s : State) (n code : Nat) : State :=
  fabInt (setSess s n { sessAt s n with state := 3, err := code, cmds := [], todo := [], unacked := [] }) 7

/-- Every open session ends with error PEER (R382). -/
def sessAllPeer (s : State) : State :=
  foldS (fun s n => if (sessAt s n).state = 0 then s else sessError s n sePEER) (List.range 16) s

/-! ### Addresses (R379 to R382) -/

def amSTATIC : Nat := 0
def amASSIGNED : Nat := 1
def amSELF : Nat := 2

def addrMode (s : State) : Nat := rdf s Reg.FAB_CTRL 3 2

/-- Set address state and address; a change of state sets FAB_INT_STAT.addr, and a valid address is remembered. An address gained or lost changes the hops of its entry, which is advertised and sets FAB_INT_STAT.route (R384, R385). -/
def setAddr (s : State) (st a : Nat) : State :=
  let old := addrState s
  let held := holdsAddr s
  let olda := myAddr s
  let s := wrf (wrf (wrb s Reg.FAB_STAT 31 (st == 2)) Reg.FAB_STAT 29 16 a) Reg.FAB_STAT 2 0 st
  let s := if st = 2 then { s with fab := { s.fab with lastAddr := some a } } else s
  let ch := (if held then [olda] else []) ++ (if holdsAddr s then [a] else [])
  let same := held && holdsAddr s && olda == a
  let s := { s with fab := { s.fab with addrAt := s.mono.toNat, changed := s.fab.changed ++ (if same then [] else ch) } }
  let s := if same ∨ ch = [] then s else fabInt s 5
  if old = st then s else fabInt s 3

/-- cand(k) of R381. -/
def selfCand (k : Nat) : Nat :=
  let x := serial
  let h := slice x 13 0 ^^^ slice x 27 14 ^^^ slice x 41 28 ^^^ slice x 55 42 ^^^ slice x 63 56
  let step := (slice x 20 7 ^^^ slice x 49 36) ||| 1
  (h + k * step) % 16384

/-- The part's tag (R381). -/
def fabTag : Nat := slice serial 63 50 ^^^ slice serial 35 22

/-- Take candidate `k` as a tentative address. -/
def selfTry (s : State) (k : Nat) : State := setAddr { s with fab := { s.fab with k := k } } 1 (selfCand k)

/-- Select an address by FAB_CTRL.addr_mode, or have none while the router is off. -/
def addrSelect (s : State) : State :=
  if !rdb s Reg.FAB_CTRL 0 then setAddr s 0 0
  else match addrMode s with
    | 0 => setAddr s 2 (rdf s Reg.FAB_ADDR 13 0)
    | 1 => setAddr s 3 0
    | _ => selfTry s 0

/-- A VALID address meets its own with another tag, and this part yields (R382). -/
def addrYield (s : State) : State :=
  let s := sessAllPeer (fabInt (inc s Reg.FAB_ADDR_COLL) 4)
  if addrMode s = amSELF then selfTry s (s.fab.k + 1) else setAddr s 3 0

/-- The part's own address is seen with another tag (R381, R382). -/
def addrClash (s : State) (tag : Nat) : State :=
  if tag = fabTag then s
  else if addrState s = 1 then selfTry s (s.fab.k + 1)
  else if addrMode s ≠ amSTATIC ∧ tag < fabTag then addrYield s
  else s

/-! ### Routes (R383 to R385) -/

/-- The route shown for address `a`: the part's own address has hops 0. -/
def shownRoute (s : State) (a : Nat) : Route :=
  if holdsAddr s && a == myAddr s then { routeAt s a with hops := 0, tag := some fabTag } else routeAt s a

/-- Put link `j` in a next-hop set, refreshed now; the four lowest stay. -/
def addHop (s : State) (j : Nat) (nh : List (Nat × Nat)) : List (Nat × Nat) :=
  let lo := nh.filter (fun x => decide (x.1 < j))
  let hi := nh.filter (fun x => decide (j < x.1))
  (lo ++ [(j, s.mono.toNat)] ++ hi).take 4

/-- A route of equal hops arrives with a tag: the lower is kept, and a difference counts (R385). -/
def tagMeet (s : State) (r : Route) (tag : Nat) : Route × State :=
  match r.tag with
  | some t => if t = tag then (r, s) else ({ r with tag := some (min t tag) }, inc s Reg.FAB_ADDR_COLL)
  | none => ({ r with tag := some tag }, s)

/-- Apply a ROUTE entry (address, hops, tag) from link `j` (R385); an entry that says unreachable is no route for the own address. -/
def routeApply (s : State) (j a h tag : Nat) : State :=
  let r := routeAt s a
  let n := min (h + 1) 15
  let inSet := r.nh.any (fun x => x.1 == j)
  if holdsAddr s && a == myAddr s then (if h < 15 then addrClash s tag else s)
  else if r.static then s
  else if n < r.hops then setRoute s a { r with hops := n, tag := some tag, nh := [(j, s.mono.toNat)] }
  else if n = r.hops ∧ n < 15 then
    let m := tagMeet s r tag
    setRoute m.2 a { m.1 with nh := addHop s j r.nh }
  else if inSet ∧ r.hops < n then
    let nh := r.nh.filter (fun x => x.1 != j)
    if nh = [] then setRoute s a { r with hops := n, nh := [(j, s.mono.toNat)] } else setRoute s a { r with nh := nh }
  else if inSet ∧ n = r.hops then setRoute s a { r with nh := addHop s j r.nh }
  else s

/-- ROUTE entries of a payload. -/
def routeEntries (p : List Byte) : List (Nat × Nat × Nat) :=
  (List.range (min 2048 (min (be p 0 2) ((p.length - 8) / 4)))).map (fun i =>
    let x := be p (8 + 4 * i) 4
    (slice x 31 18, slice x 17 14, slice x 13 0))

/-- A ROUTE entry of a link; one for the partner's own address gives its tag (R383). -/
def routeFrom (j : Nat) (s : State) (e : Nat × Nat × Nat) : State :=
  let s := match linkAt s j with
    | some l => if l.hello.sv && l.hello.addr == e.1 && e.2.1 == 0 then setLink s j (some { l with ptag := some e.2.2 }) else s
    | none => s
  routeApply s j e.1 e.2.1 e.2.2

/-- ROUTE (R385). -/
def execRoute (s : State) : Host.Outcome State Fault Refusal :=
  live s (match takeLocal s 4 with
    | some (r, h, s) =>
      let s := match r.link with
        | some j => foldS (routeFrom j) (routeEntries (fhPay h)) s
        | none => s
      fabFree s r
    | none => s)

/-- The entry for address `a` as advertised on link `j` (R384). -/
def routeEntry (s : State) (j a : Nat) : List Byte :=
  let r := shownRoute s a
  let hops := if r.hops ≠ 0 ∧ r.nh.any (fun x => x.1 == j) then 15 else r.hops
  beBytes 4 (2 ^ 18 * a + 2 ^ 14 * hops + r.tag.getD 0)

/-- A ROUTE frame's payload: part `n`, these addresses. -/
def routePay (s : State) (j n : Nat) (as : List Nat) : List Byte :=
  beBytes 2 as.length ++ beBytes 2 n ++ [0, 0, 0, 0] ++ (as.map (routeEntry s j)).flatten

/-- Send the whole table on link `j` in eight ROUTE frames. -/
def sendTable (s : State) (j : Nat) : State :=
  foldS (fun s n => fabLocal s j 4 (routePay s j n ((List.range 2048).map (· + 2048 * n)))) (List.range 8) s

/-- Send entries on link `j`, at most 2 048 to a frame. -/
def sendEntries (s : State) (j : Nat) (as : List Nat) : State :=
  foldS (fun s n => fabLocal s j 4 (routePay s j n ((as.drop (2048 * n)).take 2048))) (List.range ((as.length + 2047) / 2048)) s

/-- ROUTE_SEND (R384): the whole table every 1 s, or the entries whose hops changed. -/
def execRouteSend (full : Bool) (s : State) : Host.Outcome State Fault Refusal :=
  live s (if !fabOn s then s
    else if full then
      let s := notBefore s (s.fab.routeAt + 1250000000)
      let s := { s with fab := { s.fab with routeAt := s.mono.toNat } }
      foldS sendTable (upLinks s) s
    else
      let as := s.fab.changed
      foldS (fun s j => sendEntries s j as) (upLinks s) { s with fab := { s.fab with changed := [] } })

/-- NEXT_HOP_EXPIRY (R385): a next hop of an address has not been refreshed for 4 s. -/
def execNextHopExpiry (addr : BitVec 14) (link : Fin 64) (s : State) : Host.Outcome State Fault Refusal :=
  live s (
    let r := routeAt s addr.toNat
    match r.nh.find? (fun x => x.1 == link.val) with
    | some x =>
      if r.static || !fabOn s then s
      else
        let s := notBefore s (x.2 + 5000000000)
        setRoute s addr.toNat (routeLose link r)
    | none => s)

/-! ### HELLO (R365, R366, R380, R381, R383) -/

/-- A partner's HELLO shows the part's tentative address (R381). -/
def helloClash (s : State) (h : Hello) : State :=
  if addrState s = 1 ∧ h.addr = myAddr s ∧ (h.sv ∨ (h.addr ≠ 0 ∧ h.serial < serial)) then selfTry s (s.fab.k + 1) else s

/-- The assigner's address is learned while FAB_ASSIGNER.valid is 0 (R380). -/
def learnAssigner (s : State) (h : Hello) : State :=
  if rdb s Reg.FAB_ASSIGNER 31 then s
  else if h.asg ∧ h.sv then wr s Reg.FAB_ASSIGNER (BitVec.ofNat 32 (2 ^ 31 + h.addr))
  else if h.asgValid then wr s Reg.FAB_ASSIGNER (BitVec.ofNat 32 (2 ^ 31 + h.asgAddr))
  else s

/-- An UP partner with a valid address gives it a route of 1 hop (R383). -/
def partnerRoute (s : State) (j : Nat) : State :=
  match linkAt s j with
  | some l =>
    match l.ptag with
    | some t => if l.state = 2 ∧ l.hello.sv then routeApply s j l.hello.addr 0 t else s
    | none => s
  | none => s

/-- The first free link entry; none when the table or the port is full (R365). -/
def freeLink (s : State) (port : Nat) : Option Nat :=
  if 15 ≤ (portLinks s port).length then none else (List.range 64).find? (fun j => (linkAt s j).isNone)

/-- The part's own advertisement has changed: every link is evaluated with the partner's last HELLO (R366). -/
def readvertise (s : State) : State :=
  if fabOn s then
    foldS (fun s j => match linkAt s j with
      | some l => partnerRoute (evalFrom s j l l.hello l.hello) j
      | none => s) (List.range 64) s
  else s

/-- What a HELLO that the link table takes says of addresses (R380, R381). -/
def helloSays (s : State) (h : Hello) : State := learnAssigner (helloClash s h) h

/-- A HELLO from `mac` on a port (R365, R366); one that finds the table full is ignored. -/
def helloOn (s : State) (port mac : Nat) (h : Hello) : State :=
  let known := (portLinks s port).find? (fun j => match linkAt s j with
    | some l => l.hello.serial == h.serial
    | none => false)
  match known with
  | some j =>
    match linkAt s j with
    | some l => partnerRoute (evalLink (helloSays s h) j { l with mac := mac } h) j
    | none => s
  | none =>
    match freeLink s port with
    | some j =>
      let l : Link := { state := 1, port := port, mac := mac, hello := h, ver := 0, unit := 0, time := 0, heard := s.mono.toNat, ptag := none,
                        epoch := 0, mine := [0, 0, 0], theirs := [0, 0, 0], sent := [0, 0, 0], returned := [0, 0, 0],
                        received := [0, 0, 0], freed := [0, 0, 0], lag := [[], [], []], creditDue := false, creditAt := 0 }
      setLink (helloSays s h) j (some (linkSetMode s l h))
    | none => fabInt (inc s Reg.FAB_LINK_FULL) 2

/-- HELLO (R366). -/
def execHello (s : State) : Host.Outcome State Fault Refusal :=
  live s (match takeLocal s 0 with
    | some (r, p, s) =>
      let f := frameAt s r.fid
      let h := parseHello (fhPay p)
      fabFree (helloOn s f.port (srcMac f.data) h) r
    | none => s)

/-! ### Address requests (R380) -/

/-- The UP partner to ask: lowest link index with a valid address that knows the assigner. -/
def askLink (s : State) : Option Nat :=
  (upLinks s).find? (fun j => match linkAt s j with
    | some l => l.hello.sv && (l.hello.asg || l.hello.asgValid)
    | none => false)

/-- The part without an address asks for one, every 1 s. -/
def areqOwn (s : State) : State :=
  if addrState s ≠ 3 ∨ !fabOn s then s
  else match askLink s with
    | some j =>
      let s := notBefore s s.fab.addrAt
      let last := match s.fab.lastAddr with
        | some a => 2 ^ 15 + a
        | none => 0
      let s := { s with fab := { s.fab with addrAt := s.mono.toNat + 1250000000 } }
      fabLocal s j 2 (beBytes 8 serial ++ beBytes 2 last)
    | none => s

/-- An AREQ reaches the part: the assigner's ring takes it, a relay passes it on. -/
def areqTake (s : State) (r : FabRx) (h : List Byte) : State :=
  if !fhLl h || rdb s Reg.FAB_CTRL 4 then fabToRing s r
  else match r.link with
    | some j =>
      let s := fabFree s r
      let ps := s.fab.areqs.filter (fun x => x.serial != be (fhPay h) 0 8)
      if 16 ≤ ps.length ∨ !rdb s Reg.FAB_ASSIGNER 31 ∨ !rdb s Reg.FAB_STAT 31 then s
      else
        let s := { s with fab := { s.fab with areqs := ps ++ [⟨be (fhPay h) 0 8, j, s.mono.toNat⟩] } }
        fabRoute s (fabOwn s (fabBytes s 2 (rdf s Reg.FAB_ASSIGNER 13 0) 0 0 false (fhPay h)))
    | none => fabFree s r

/-- AREQ (R380): the part's own request, or one that has been received. -/
def execAreq (own : Bool) (s : State) : Host.Outcome State Fault Refusal :=
  live s (if own then areqOwn s
    else match takeLocal s 2 with
      | some (r, h, s) => areqTake s r h
      | none => s)

/-- AREQ_PENDING_EXPIRY (R380): the oldest pending entry has stood for 2 s. -/
def execAreqPendingExpiry (s : State) : Host.Outcome State Fault Refusal :=
  live s (match s.fab.areqs with
    | x :: rest => if frozen s then s else { notBefore s (x.since + 2500000000) with fab := { s.fab with areqs := rest } }
    | [] => s)

/-! ### Time messages (R388, R356) -/

/-- A TIME payload at network time `t`. -/
def timePay (s : State) (t : Nat) : List Byte := secNs t ++ beBytes 2 (ntFrac t) ++ beBytes 1 (s.dtm.state * 16 + qSelf s % 16)

/-- TIME_SEND (R388): 125 ms have passed. -/
def execTimeSend (s : State) : Host.Outcome State Fault Refusal :=
  live s (if !fabOn s then s
    else
      let s := notBefore s (s.fab.timeAt + 156250000)
      let s := { s with fab := { s.fab with timeAt := s.mono.toNat } }
      foldS (fun s j => match linkAt s j with
        | some l =>
          if l.time.testBit 0 then fabToLink s j { fabOwn s (fabBytes s 5 0 0 0 true (timePay s (ntNow s))) with oneStep := l.time.testBit 1 } else s
        | none => s) (upLinks s) s)

/-- TIME (R356): a peer's time message reaches Datum. -/
def execTime (s : State) : Host.Outcome State Fault Refusal :=
  live s (match takeLocal s 5 with
    | some (r, h, s) =>
      let p := fhPay h
      let ts := 65536 * (10 ^ 9 * be p 0 6 + be p 6 4) + be p 10 2
      let s := match r.link.bind (linkAt s) with
        | some l => if l.time = 7 then peerMessage s l.hello.addr (be p 12 1 % 16) ts (frameAt s r.fid).nt else s
        | none => s
      fabFree s r
    | none => s)

/-! ### Frames from and to software (R389, R395) -/

/-- Take the next entry of the fabric transmit ring. -/
def fabTake (s : State) : State :=
  let i := ringNext s .fab
  let off := ringEntry s .fab i
  let y := sramGet s off 32
  let s := setRingNext s .fab (i + 1)
  let j : TxJob := ⟨16, i, off, (wd y 4).testBit 8⟩
  let fail (s : State) (c : Nat) : State := jobDone s j c false 0 0
  let type := wdf y 2 31 28
  let ll := (wd y 3).testBit 15
  let link := wdf y 4 5 0
  let n := wdf y 2 13 0
  if ¬(type = 3 ∨ type = 6 ∨ type = 7) ∨ 9170 < n then fail s 1
  else if !inMem s (wdAddr y 0) n then fail s 2
  else if !rdb s Reg.FAB_STAT 31 || (ll && !isUp s link) then fail s 4
  else match memRead s fabPort (wdAddr y 0) n with
    | (none, s) => fail s 5
    | (some p, s) =>
      let f : FabTx := { fabOwn s (fabBytes s type (wdf y 3 13 0) (wdf y 3 31 16) 0 ll p) with job := some j }
      if ll then fabToLink s link f else fabRoute s f

/-- FABRIC_TX_ENTRY (R389). -/
def execFabricTxEntry (s : State) : Host.Outcome State Fault Refusal :=
  live s (if fabOn s && ringReady s .fab then fabTake s else s)

/-- MIGC (R395). -/
def execMigc (s : State) : Host.Outcome State Fault Refusal :=
  live s (match takeLocal s 7 with
    | some (r, _, s) => fabToRing s r
    | none => s)

/-- DATA (R389). -/
def execData (s : State) : Host.Outcome State Fault Refusal :=
  live s (match takeLocal s 6 with
    | some (r, _, s) => fabToRing s r
    | none => s)

end Sys2Proof.Machine
end

