-- ==== Sys2Proof/Machine/FabSess.lean ====
section
/-! DEFINITION. Call migration sessions, the fabric commands, and the FAB register page (R387, R390 to R394, R398). -/

namespace Sys2Proof.Machine

/-! ### Sessions (R390 to R394) -/

def migCfg (s : State) (n : Nat) : Word := rd s (Reg.FAB_MIG_CFG n)
def migOpen (s : State) (n : Nat) : Bool := (migCfg s n).getLsbD 31
def migIn (s : State) (n : Nat) : Bool := (migCfg s n).getLsbD 30
def migPeerSess (s : State) (n : Nat) : Nat := fld (migCfg s n) 29 26
def migPeer (s : State) (n : Nat) : Nat := fld (migCfg s n) 13 0
def migBase (s : State) (n : Nat) : Nat := rd2 s (Reg.FAB_MIG_WBASE_LO n) (Reg.FAB_MIG_WBASE_HI n)
def migLen (s : State) (n : Nat) : Nat := (rd s (Reg.FAB_MIG_WLEN n)).toNat

/-- The part's address is valid: it may originate routed frames (R379). -/
def mayOriginate (s : State) : Bool := rdb s Reg.FAB_STAT 31

/-- Send a frame of a session to its peer. -/
def sessSend (s : State) (n type aux : Nat) (pay : List Byte) : State :=
  fabRoute s (fabOwn s (fabBytes s type (migPeer s n) (migPeerSess s n) aux false pay))

/-- The payload of a MIGQ for position `pos` of a queue (R392). -/
def migqPay (s : State) (q peer pos seq : Nat) (first append : Bool) : Option (List Byte) × State :=
  let x := queueAt s q
  let here := decide (pos < x.wp) && presentAt s x pos
  let item := if here then slotAt s x pos else 0
  let head (g : Nat) : List Byte :=
    beBytes 2 peer ++ beBytes 2 seq ++ beBytes 1 (first.toNat * 128 + here.toNat * 64 + append.toNat * 32) ++
    beBytes 1 (fld item 31 24) ++ beBytes 2 g
  if !here then (some (head 0), s)
  else
    let a := granAddr s (fld item 23 0)
    match memRead s fabPort a 8 with
    | (none, s) => (none, s)
    | (some b, s) =>
      let g := 8 + le b 6 2
      match memRead s fabPort a g with
      | (none, s) => (none, s)
      | (some d, s) => (some (head g ++ d), s)

/-- Type and payload of a session frame, read from its source; none for an uncorrectable error. -/
def itemPay (s : State) (i : MigItem) : Nat × Option (List Byte) × State :=
  match i with
  | .seg a off len =>
    match memRead s fabPort a len with
    | (some d, s) => (8, some (beBytes 4 off ++ beBytes 2 len ++ [0, 0] ++ d), s)
    | (none, s) => (8, none, s)
  | .item q peer pos seq first app => (9, migqPay s q peer pos seq first app)

/-- Bytes and items that a frame sent for the first time carries, as the session counters count them (Table 14.14): a MIGQ with present = 0 carries no item. -/
def countItem (s : State) (n : Nat) (i : MigItem) (p : List Byte) : State :=
  match i with
  | .seg _ _ len => addc s (Reg.FAB_MIG_BYTES n) len
  | .item _ _ _ _ _ _ => if (be p 4 1).testBit 6 then inc s (Reg.FAB_MIG_ITEMS n) else s

/-- Send one frame of an OUT session with sequence `aux`, for the first time or again; a source that cannot be read ends the session, and nothing is sent. -/
def sendItem (s : State) (n aux : Nat) (i : MigItem) (again : Bool) : State :=
  match itemPay s i with
  | (_, none, s) => sessError s n seMEM
  | (t, some p, s) =>
    let s := inc (sessSend s n t aux p) (Reg.FAB_MIG_FRAMES n)
    if again then s else countItem s n i p

/-- Frames of a SEGSEND (R391). -/
def segItems (a len off : Nat) : List MigItem :=
  (List.range ((len + 8191) / 8192)).map (fun k => .seg (a + 8192 * k) (off + 8192 * k) (min 8192 (len - 8192 * k)))

/-- Frames of a QSEND, with RP, WP and rseq of the queue now (R392). -/
def queueItems (s : State) (q peer : Nat) : List MigItem :=
  let x := queueAt s q
  let ps := x.rp :: (positions (x.rp + 1) x.wp).filter (presentAt s x)
  let rseq := if x.place then x.rseq else 0
  ps.map (fun p => .item q peer p ((rseq + (p - x.rp)) % 65536) (p == x.rp) (!x.place))

/-- The frames of a command. -/
def cmdItems (s : State) : SessCmd → List MigItem
  | .seg a len off => segItems a len off
  | .queue q peer => queueItems s q peer

/-- Send frames of an OUT session while fewer than 32 are unacknowledged (R394). -/
def pump (n : Nat) : Nat → State → State
  | 0, s => s
  | k + 1, s =>
    let x := sessAt s n
    if 32 ≤ x.unacked.length ∨ x.state ≠ 2 ∨ !mayOriginate s then s
    else match x.todo, x.cmds with
      | i :: rest, _ =>
        let s := setSess s n { x with seq := (x.seq + 1) % 65536, todo := rest, unacked := x.unacked ++ [(x.seq, i)], progressAt := if x.unacked = [] then s.mono.toNat else x.progressAt }
        pump n k (sendItem s n x.seq i false)
      | [], c :: cs => pump n k (setSess s n { x with cmds := cs, todo := cmdItems s c })
      | [], [] => s

/-- Send what the session can; every frame is preceded by at most one command. -/
def sessGo (s : State) (n : Nat) : State := pump n 72 s

/-- An OUT session with nothing left returns to IDLE (R394). -/
def sessRest (s : State) (n : Nat) : State :=
  let x := sessAt s n
  if x.state = 2 ∧ x.cmds = [] ∧ x.todo = [] ∧ x.unacked = [] then fabInt (setSess s n { x with state := 1 }) 6 else s

/-- Send a MIGA (R394), or have it due until the part's address is valid (R379). -/
def sendMiga (s : State) (n : Nat) : State :=
  let x := sessAt s n
  if !mayOriginate s then setSess s n { x with toAck := max 1 x.toAck }
  else
  let s := setSess s n { x with toAck := 0 }
  sessSend s n 10 0 (beBytes 4 x.seq ++ beBytes 4 x.err ++ beBytes 4 (rd s (Reg.FAB_MIG_BYTES n)).toNat ++ beBytes 4 (rd s (Reg.FAB_MIG_ITEMS n)).toNat)

/-- An IN session takes an error, and reports it. -/
def inError (s : State) (n code : Nat) : State := sendMiga (sessError s n code) n

/-- The IN session that accepts a frame in sequence (R394); none drops it with cause STATE. -/
def sessFor (s : State) (h : List Byte) : Option Nat :=
  let n := fhFlow h
  if n < 16 ∧ migOpen s n ∧ migIn s n ∧ (sessAt s n).state = 1 ∧ fhAux h = (sessAt s n).seq then some n else none

/-- A frame has been accepted: the next is expected, and 16 are acknowledged together. -/
def accepted (s : State) (n : Nat) : State :=
  let x := sessAt s n
  inc (setSess s n { x with seq := (x.seq + 1) % 65536, toAck := x.toAck + 1, progressAt := s.mono.toNat }) (Reg.FAB_MIG_FRAMES n)

/-- Acknowledge after 16 accepted frames. -/
def ackFull (s : State) (n : Nat) : State := if 16 ≤ (sessAt s n).toAck then sendMiga s n else s

/-- Write a MIGD's data into the window (R391). -/
def migdWrite (s : State) (n : Nat) (p : List Byte) : State :=
  let off := be p 0 4
  let len := be p 4 2
  if migLen s n < off + len then inError s n seRANGE
  else match memWrite s fabPort (migBase s n + off) (sub p 8 len) with
    | (true, s) => ackFull (addc s (Reg.FAB_MIG_BYTES n) len) n
    | (false, s) => inError s n seMEM

/-- A session frame that no session accepts. -/
def sessDrop (s : State) (r : FabRx) : State := fabDrop (fabFree s r) fcSTATE

/-- MIGD (R391). -/
def execMigd (s : State) : Host.Outcome State Fault Refusal :=
  live s (match takeLocal s 8 with
    | some (r, h, s) =>
      match sessFor s h with
      | some n => fabFree (migdWrite (accepted s n) n (fhPay h)) r
      | none => sessDrop s r
    | none => s)

/-- The SYNC of a first MIGQ; false when the queue refuses it (R393). -/
def migSync (s : State) (q seq : Nat) : Bool × State :=
  let x := queueAt s q
  if x.en ∧ x.place ∧ levelOf x = 0 then (true, setQueue s q { syncTo x seq with mstate := .none }) else (false, s)

/-- Store a MIGQ's item in a new granule and push it (R393). -/
def migPush (s : State) (n : Nat) (p : List Byte) : State :=
  let q := be p 0 2
  if gFree s = 0 then inError s n seNOGRAN
  else
    let g := granAlloc s
    match memWrite g.2 fabPort (granAddr s g.1) (sub p 8 (be p 6 2)) with
    | (false, s) => inError (granReturn s g.1) n seMEM
    | (true, s) =>
      if !(queueAt s q).en then inError (granReturn s g.1) n seQUEUE
      else ackFull (inc (jqPush s q (BitVec.ofNat 32 (2 ^ 24 * be p 5 1 + g.1 % 2 ^ 24)) (be p 2 2)) (Reg.FAB_MIG_ITEMS n)) n

/-- A MIGQ acts on the peer queue (R393). -/
def migqAct (s : State) (n : Nat) (p : List Byte) : State :=
  let fl := be p 4 1
  let r := if fl.testBit 7 && !fl.testBit 5 then migSync s (be p 0 2) (be p 2 2) else (true, s)
  if !r.1 then inError r.2 n seQUEUE
  else if fl.testBit 6 then migPush r.2 n p
  else ackFull r.2 n

/-- MIGQ (R393); it waits while the queue engine holds pushes back (R178). -/
def execMigq (s : State) : Host.Outcome State Fault Refusal :=
  live s (match takeLocal s 9 with
    | some (r, h, t) =>
      if dispBusy s then s
      else match sessFor t h with
        | some n => fabFree (migqAct (accepted t n) n (fhPay h)) r
        | none => sessDrop t r
    | none => s)

/-- An acknowledgement reaches an OUT session (R394). -/
def takeMiga (s : State) (n : Nat) (p : List Byte) : State :=
  let x := sessAt s n
  let e := be p 0 4 % 65536
  let base := (x.seq + 65536 - x.unacked.length % 65536) % 65536
  let k := (e + 65536 - base) % 65536
  if x.state = 3 then s
  else if be p 4 4 ≠ 0 then sessError s n sePEER
  else if k = 0 ∨ x.unacked.length < k then s
  else
    let s := setSess s n { x with unacked := x.unacked.drop k, progressAt := s.mono.toNat, rewinds := 0 }
    sessRest (sessGo (addc s (Reg.FAB_MIG_ACKED n) k) n) n

/-- A received MIGA: an open OUT session takes it. -/
def migaRx (s : State) (r : FabRx) (h : List Byte) : State :=
  let n := fhFlow h
  if n < 16 ∧ migOpen s n ∧ !migIn s n then fabFree (takeMiga s n (fhPay h)) r else sessDrop s r

/-- MIGA (R394): sent by an IN session within 1 ms of the last accepted frame, or received. -/
def execMiga (sess : Option (Fin 16)) (s : State) : Host.Outcome State Fault Refusal :=
  live s (match sess with
    | some n =>
      if fabOn s && mayOriginate s && migOpen s n && migIn s n && (sessAt s n).toAck != 0 then
        sendMiga (notBefore s ((sessAt s n).progressAt + 1250000)) n
      else s
    | none =>
      match takeLocal s 10 with
      | some (r, h, s) => migaRx s r h
      | none => s)

/-- Send the unacknowledged frames again. -/
def resend (s : State) (n : Nat) : State :=
  foldS (fun s e => if (sessAt s n).state = 2 then sendItem s n e.1 e.2 true else s) (sessAt s n).unacked s

/-- MIGRATION_RETRANSMIT (R394). -/
def execMigrationRetransmit (sess : Fin 16) (s : State) : Host.Outcome State Fault Refusal :=
  live s (
    let x := sessAt s sess
    if !fabOn s || !mayOriginate s || x.unacked.isEmpty || x.state != 2 then s
    else
      let s := notBefore s (x.progressAt + rdf s Reg.FAB_TIMERS 31 24 * 1250000)
      if 8 ≤ x.rewinds then sessError s sess seTIMEOUT
      else resend (inc (setSess s sess { x with rewinds := x.rewinds + 1, progressAt := s.mono.toNat }) (Reg.FAB_MIG_REWINDS sess)) sess)

/-! ### The address becomes valid (R379 to R381, R391, R392) -/

/-- With a valid address the OUT sessions send what they hold. -/
def resumeAll (s : State) : State := if mayOriginate s && fabOn s then foldS sessGo (List.range 16) s else s

/-- TENTATIVE_TIMEOUT (R381). -/
def execTentativeTimeout (s : State) : Host.Outcome State Fault Refusal :=
  live s (if addrState s = 1 ∧ fabOn s then
    let s := notBefore s (s.fab.addrAt + rdf s Reg.FAB_TIMERS 7 4 * 1250000000)
    resumeAll (setAddr s 2 (myAddr s))
  else s)

/-- AGRANT (R380): the requester takes its address, a relay passes it on. -/
def execAgrant (s : State) : Host.Outcome State Fault Refusal :=
  live s (match takeLocal s 3 with
    | some (r, h, s) =>
      let p := fhPay h
      let a := be p 8 2
      let s := fabFree s r
      if be p 0 8 = serial then (if addrState s = 3 ∧ a.testBit 15 then resumeAll (setAddr s 2 (a % 2 ^ 14)) else s)
      else match s.fab.areqs.find? (fun x => x.serial == be p 0 8) with
        | some x => fabLocal { s with fab := { s.fab with areqs := s.fab.areqs.erase x } } x.link 3 p
        | none => s
    | none => s)

/-! ### Opening and closing (R390) -/

/-- A write of `v` to FAB_MIGs_CFG; M10 keeps every session as it stood (R397). -/
def migCfgWrite (s : State) (who : Who) (n : Nat) (v : Word) : State :=
  let a := Reg.FAB_MIG_CFG n
  if frozen s then s
  else if v.getLsbD 31 then
    if v.getLsbD 30 && !inMem s (migBase s n) (migLen s n) then refuseAccess s srcFab who a true false
    else
      let s := setSess (plainWrite s a v) n { Sess.reset with state := 1 }
      foldS (fun s r => wr s r 0) [Reg.FAB_MIG_FRAMES n, Reg.FAB_MIG_ACKED n, Reg.FAB_MIG_BYTES n, Reg.FAB_MIG_ITEMS n, Reg.FAB_MIG_REWINDS n] s
  else setSess (plainWrite s a v) n Sess.reset

/-- SESSION_OPEN (R390): role and peer fields from `value`. -/
def execSessionOpen (who : Who) (sess : Fin 16) (value : BitVec 31) (s : State) : Host.Outcome State Fault Refusal :=
  live s (swWrite s who (Reg.FAB_MIG_CFG sess) (fun s => migCfgWrite s who sess (BitVec.ofNat 32 (2 ^ 31 + value.toNat))))

/-- SESSION_CLOSE (R390). -/
def execSessionClose (who : Who) (sess : Fin 16) (value : BitVec 31) (s : State) : Host.Outcome State Fault Refusal :=
  live s (swWrite s who (Reg.FAB_MIG_CFG sess) (fun s => migCfgWrite s who sess (BitVec.ofNat 32 value.toNat)))

/-! ### Commands (Table 14.13) -/

def fcmdADDR : Nat := 2
def fcmdRANGE : Nat := 3
def fcmdSTATE : Nat := 4
def fcmdQUEUE : Nat := 5
def fcmdFULL : Nat := 6

/-- A command ends with a code, 0 for success. -/
def fabCmdEnd (s : State) (code : Nat) : State :=
  wrb (wrf s Reg.FAB_CMD_STAT 2 0 code) Reg.FAB_CMD_STAT (if code = 0 then 30 else 29) true

def fabArg (s : State) (i : Nat) : Nat := (rd s (Reg.FAB_CMD_ARG i)).toNat

/-- Next hops of FAB_RT_DATA1's layout, ascending. -/
def nhOf (s : State) (x : Nat) : List (Nat × Nat) :=
  [0, 1, 2, 3].foldl (fun l i => if x.testBit (8 * i + 7) then addHop s (slice x (8 * i + 5) (8 * i)) l else l) []

/-- RT_SET (R387). -/
def rtSet (s : State) : State :=
  let hops := slice (fabArg s 0) 19 16
  if hops = 0 ∨ hops = 15 then fabCmdEnd s fcmdRANGE
  else
    let a := slice (fabArg s 0) 13 0
    fabCmdEnd (setRoute s a { routeAt s a with hops := hops, static := true, nh := nhOf s (fabArg s 1) }) 0

/-- RT_CLEAR (R387). -/
def rtClear (s : State) : State := fabCmdEnd (setRoute s (slice (fabArg s 0) 13 0) Route.none) 0

/-- RT_READ: the entry as FAB_RT_DATA0 and DATA1 show it; age is that of the hop refreshed last. -/
def rtRead (s : State) : State :=
  let a := slice (fabArg s 0) 13 0
  let r := shownRoute s a
  let ages := r.nh.map (fun x => (s.mono.toNat - x.2) / 1250000000)
  let age := min 15 (ages.foldl min (ages.headD 0))
  let self := holdsAddr s && a == myAddr s
  let d0 := 2 ^ 31 * r.static.toNat + 2 ^ 30 * self.toNat + 2 ^ 26 * r.hops + 2 ^ 22 * age + r.tag.getD 0
  let d1 := (r.nh.zipIdx.map (fun x => (128 + x.1.1) * 2 ^ (8 * x.2))).sum
  fabCmdEnd (wr (wr s Reg.FAB_RT_DATA0 (BitVec.ofNat 32 d0)) Reg.FAB_RT_DATA1 (BitVec.ofNat 32 d1)) 0

/-- Queue a session command, at most 8 (Table 14.13). -/
def sessQueue (s : State) (n : Nat) (c : SessCmd) : State :=
  let x := sessAt s n
  if !migOpen s n || migIn s n || !(x.state == 1 || x.state == 2) then fabCmdEnd s fcmdSTATE
  else if 8 ≤ x.cmds.length + (!x.todo.isEmpty).toNat then fabCmdEnd s fcmdFULL
  else sessGo (fabCmdEnd (setSess s n { x with cmds := x.cmds ++ [c], state := 2 }) 0) n

/-- SEGSEND (R391). -/
def segSend (s : State) (n : Nat) : State :=
  let a := fabArg s 0 + 2 ^ 32 * slice (fabArg s 1) 15 0
  let len := fabArg s 2
  if len = 0 ∨ 16777216 < len ∨ !inMem s a len then fabCmdEnd s fcmdADDR else sessQueue s n (.seg a len (fabArg s 3))

/-- QSEND (R392). -/
def qSend (s : State) (n : Nat) : State :=
  let q := slice (fabArg s 0) 15 0
  if !(queueAt s q).en then fabCmdEnd s fcmdQUEUE else sessQueue s n (.queue q (slice (fabArg s 0) 31 16))

/-- LINK_RESET (R366): RANGE for an entry that is free. -/
def linkReset (s : State) (j : Nat) : State :=
  if (linkAt s j).isNone then fabCmdEnd s fcmdRANGE else fabCmdEnd (linkTo s j 0) 0

/-- A write of `v` to FAB_CMD; a frozen router takes none. -/
def fabCmdWrite (s : State) (v : Word) : State :=
  let n := fld v 19 16
  if frozen s then s
  else match fld v 27 24 with
    | 1 => rtSet s
    | 2 => rtClear s
    | 3 => rtRead s
    | 4 => segSend s n
    | 5 => qSend s n
    | 6 => linkReset s (fld v 5 0)
    | _ => s

/-- A row that writes FAB_CMD. -/
def fabCmdRow (s : State) (who : Who) (op sess link : Nat) : State :=
  swWrite s who Reg.FAB_CMD (fun s => fabCmdWrite s (BitVec.ofNat 32 (2 ^ 24 * op + 2 ^ 16 * sess + link)))

/-- RT_SET (R387). -/
def execRtSet (who : Who) (s : State) : Host.Outcome State Fault Refusal := live s (fabCmdRow s who 1 0 0)
/-- RT_CLEAR (R387). -/
def execRtClear (who : Who) (s : State) : Host.Outcome State Fault Refusal := live s (fabCmdRow s who 2 0 0)
/-- RT_READ (R387). -/
def execRtRead (who : Who) (s : State) : Host.Outcome State Fault Refusal := live s (fabCmdRow s who 3 0 0)
/-- SEGSEND (R391). -/
def execSegsend (who : Who) (sess : Fin 16) (s : State) : Host.Outcome State Fault Refusal := live s (fabCmdRow s who 4 sess 0)
/-- QSEND (R392). -/
def execQsend (who : Who) (sess : Fin 16) (s : State) : Host.Outcome State Fault Refusal := live s (fabCmdRow s who 5 sess 0)
/-- LINK_RESET (R366). -/
def execLinkReset (who : Who) (link : Fin 64) (s : State) : Host.Outcome State Fault Refusal := live s (fabCmdRow s who 6 0 link)

/-! ### The register page (R398) -/

/-- FAB_CTRL.enable is held at 0 in this mode (Table 16.1). -/
def fabHeld (s : State) : Bool :=
  let f (m : Nat) : Bool := m != 3 && m != 5 && m != 6
  let org := rdf s Reg.PWR_MODE 11 8
  match mode s with
  | 8 => false
  | 10 => false
  | 7 => f org
  | 9 =>
    match rdf s Reg.PWR_MODE 15 12 with
    | 7 => f org
    | 8 => false
    | p => f p
  | m => f m

/-- The router is turned off: every link leaves UP and its entry becomes NONE (R427). -/
def fabOff (s : State) : State := addrSelect (foldS (fun s j => linkTo s j 0) (List.range 64) s)

/-- A write of `v` to FAB_CTRL: held enable, addr_mode 3 stores 0, assigner only in STATIC mode. -/
def fabCtrlWrite (s : State) (v : Word) : State :=
  let v := if fabHeld s then setBit v 0 false else v
  let v := if fld v 3 2 = 3 then setFld v 3 2 0 else v
  let was := rdb s Reg.FAB_CTRL 0
  let m := addrMode s
  let s := plainWrite s Reg.FAB_CTRL v
  let s := if addrMode s ≠ amSTATIC then wrb s Reg.FAB_CTRL 4 false else s
  if was && !rdb s Reg.FAB_CTRL 0 then (if frozen s then s else fabOff s)
  else if was == rdb s Reg.FAB_CTRL 0 && m == addrMode s then s
  else if frozen s then s else resumeAll (addrSelect s)

/-- A value below `lo` stores `lo` in each class field of FAB_OFFER. -/
def offerStored (v : Word) : Word :=
  let f (v : Word) (hi lo : Nat) : Word := if fld v hi lo < 40 then setFld v hi lo 40 else v
  f (f (f v 9 0) 19 10) 29 20

/-- FAB_TIMERS: 0 stores 1 in each field. -/
def timersStored (v : Word) : Word :=
  let f (v : Word) (x : Nat × Nat) : Word := if fld v x.1 x.2 = 0 then setFld v x.1 x.2 1 else v
  [(31, 24), (23, 16), (15, 8), (7, 4), (3, 0)].foldl f v

/-- A write of `v` to the FAB page register at `a`. -/
def fabPageWrite (s : State) (who : Who) (a : Nat) (v : Word) : State :=
  if 0x1088000C00 ≤ a ∧ a < 0x1088001000 then
    let n := (a - 0x1088000C00) / 64
    match a % 64 with
    | 0x00 => migCfgWrite s who n v
    | 0x04 => if migOpen s n then s else plainWrite s a v
    | 0x08 => if migOpen s n then s else plainWrite s a v
    | 0x0C => if migOpen s n then s else plainWrite s a v
    | _ => plainWrite s a v
  else match a % 4096 with
    | 0x000 => fabCtrlWrite s v
    | 0x008 => let s := plainWrite s a v
      if rdb s Reg.FAB_CTRL 0 && addrMode s == amSTATIC && !frozen s then resumeAll (setAddr s 2 (rdf s Reg.FAB_ADDR 13 0)) else s
    | 0x020 => readvertise (plainWrite s a (setFld v 7 0 (fld v 7 0 &&& 6)))
    | 0x024 => readvertise (plainWrite s a (offerStored v))
    | 0x028 => plainWrite s a (setFld v 12 0 (min 7680 (fld v 12 0)))
    | 0x030 => plainWrite s a (timersStored v)
    | 0x080 => fabCmdWrite s v
    | 0x0A0 => ringCfgWrite s who .fab v
    | 0x0A4 => ringBaseWrite s .fab v
    | 0x0C0 => if v.getLsbD 0 then fabSnap s else s
    | _ => plainWrite s a v

/-- Word `w` of the record of link `j` (Table 14.14). -/
def lnkWord (s : State) (j w : Nat) : Word :=
  match linkAt s j with
  | none => 0
  | some l =>
    let c := w - 3
    let out := sub32 (clsOf l.sent c) (clsOf l.returned c)
    let held (c : Nat) : Nat := min 1023 (sub32 (clsOf l.received c) (clsOf l.freed c))
    BitVec.ofNat 32 (match w with
      | 0 => 2 ^ 29 * l.state + 2 ^ 28 * l.hello.sv.toNat + 2 ^ 24 * l.port + 2 ^ 20 * l.ver + 2 ^ 18 * l.unit + 2 ^ 15 * l.time + l.hello.addr
      | 1 => l.hello.serial
      | 2 => l.hello.serial / 2 ^ 32
      | 3 => 2 ^ 24 * min 255 ((s.mono.toNat - l.heard) / 125000000)
      | 7 => if l.state = 2 then 2 ^ 20 * held 3 + 2 ^ 10 * held 2 + held 1 else 0
      | _ => if l.state = 2 then 65536 * (limOf l c % 65536) + out % 65536 else 0)

/-- What a read of the FAB page register at `a` returns. -/
def fabPageRead (s : State) (a : Nat) : Word :=
  let o := a % 4096
  if 0x400 ≤ o ∧ o < 0xC00 then lnkWord s ((o - 0x400) / 32) (o % 32 / 4)
  else if 0xC00 ≤ o ∧ o % 64 = 0x10 then
    let x := sessAt s ((o - 0xC00) / 64)
    BitVec.ofNat 32 (2 ^ 29 * x.state + 2 ^ 20 * x.err + x.seq)
  else match o with
    | 0x004 => setBit (rd s a) 3 (frozen s)
    | 0x010 => BitVec.ofNat 32 serial
    | 0x014 => BitVec.ofNat 32 (serial / 2 ^ 32)
    | 0x018 => BitVec.ofNat 32 fabTag
    | 0x03C => BitVec.ofNat 32 ((upLinks s).length * 2 ^ 8 + ((List.range 64).filter (fun j => (linkAt s j).isSome)).length)
    | 0x07C => BitVec.ofNat 32 ((s.fab.routes.filter (fun e => decide (e.2.hops < 15) && !(holdsAddr s && e.1 == myAddr s))).length + (holdsAddr s).toNat)
    | _ => rd s a

end Sys2Proof.Machine
end

