-- ==== Sys2Proof/Machine/Dmc.lean ====
section
/-! DEFINITION. The commands of the DRAM controller (file 10): requests, command slots, refresh, retraining, frequency change, scrubbing, seeding, command-path errors, enabling. -/

namespace Sys2Proof.Machine

/-! ### Requests (R255 to R257) -/

/-- May request `r` enter its channel queue now? -/
def mayEnter (s : State) (r : PortReq) : Bool :=
  entryFree (dmcQueue s (chanOf s r.addr)) r.rq.port &&
    (match s.dmc.freq with
     | .changing _ => false
     | _ => true)

/-- A request reaches the controller: turned away, queued, or held at its port (R247, R256, R274). -/
def submitReq (s : State) (r : PortReq) : State :=
  match portCheck s r.rq.port (r.addr / 64 * 64) 64 with
  | .serve =>
    if dmcHeld s r.rq.port = [] ∧ mayEnter s r then enterQueue s r
    else reply (setDmcHeld s r.rq.port (dmcHeld s r.rq.port ++ [r])) .held
  | c => answerReq (portRefuse s c r.rq.port r.addr r.write) r.rq.port r.rq.src .error

/-- The requests `l`, held at port `p`, enter in order while they may; the others go on waiting. -/
def admitList (p : Nat) : List PortReq → State → State
  | [], s => s
  | r :: rest, s => if mayEnter s r then admitList p rest (enterQueue s r) else setDmcHeld s p (r :: rest)

/-- The requests held at port `p` enter while they may. -/
def admitPort (s : State) (p : Nat) : State := admitList p (dmcHeld s p) (setDmcHeld s p [])

/-- Held requests enter as entries come free. -/
def admitHeld (s : State) : State := foldS admitPort (List.range 16) s

/-- DRAM_READ (R257). -/
def execDramRead (port : Fin 16) (src : Nat) (cls : Option (BitVec 2)) (addr : Addr) (s : State) :
    Host.Outcome State Fault Refusal :=
  live s (submitReq (noAnswers s) ⟨false, ⟨port.val, src, cls.map (·.toNat)⟩, addr.toNat / 64 * 64, []⟩)

/-- DRAM_WRITE (R257). The bytes lie in one 64-byte block. -/
def execDramWrite (port : Fin 16) (src : Nat) (cls : Option (BitVec 2)) (addr : Addr) (data : List Byte) (s : State) :
    Host.Outcome State Fault Refusal :=
  live s (submitReq (noAnswers s) ⟨true, ⟨port.val, src, cls.map (·.toNat)⟩, addr.toNat, data.take (64 - addr.toNat % 64)⟩)

/-- DRAM_COMMAND_ISSUE (R259): one command slot of a channel, after which held requests enter as entries are free. -/
def execDramCommandIssue (ch : Fin 4) (ready : List Nat) (s : State) : Host.Outcome State Fault Refusal :=
  let s' := noAnswers s
  live s (admitHeld (match bestEntry s' ch.val ready with
    | some (i, r) => issueCommand s' ch.val i r
    | none => s'))

/-! ### Refresh and MR4 (R242, R262) -/

/-- The rank exists on a populated channel. -/
def rankExists (s : State) (ch rank : Nat) : Bool := decide (ch < dmcChans s) && (rank == 0 || dmcTwoRanks s)

/-- The per-bank refresh interval of a rank in counts: DMC_TSET's trefipb in CK cycles, scaled as MR4 tells (R262). -/
def refreshInterval (s : State) (rk : Nat) : Nat :=
  rdf s (Reg.DMC_TSET_W (activeSet s) 3) 31 16 * ck64 s * Config.refreshEighths (SMap.get 0 s.dmc.mr4 rk) / 512

/-- A refresh of bank `i` is issued: its row closes. -/
def refreshBank (s : State) (i : Nat) (b : Bank) : State := setBank s i (closedBank b)

/-- PER_BANK_REFRESH (R262): a refresh owed is issued, or the next one falls due and is issued ahead of every request, or is postponed while requests are queued, at most 8 times. -/
def execPerBankRefresh (ch : Fin 4) (rank : Fin 2) (bk : Fin 16) (postpone : Bool) (s : State) :
    Host.Outcome State Fault Refusal :=
  let rk := ch.val * 2 + rank.val
  let i := rk * 16 + bk.val
  let b := bank s i
  live s (if !rankExists s ch.val rank.val || s.dmc.selfRefresh || !rdb s Reg.DMC_CTRL 0 then s
    else if !postpone && 0 < b.owed then refreshBank s i { b with owed := b.owed - 1 }
    else
      let due := max b.due s.dmc.allRefreshed + refreshInterval s rk
      let s := notBefore s due
      if postpone && dmcQueue s ch.val != [] && b.owed < 8 then setBank s i { b with owed := b.owed + 1, due := due }
      else refreshBank s i { b with due := due })

/-- MR4_READOUT (R242): every 32 ms on each rank. -/
def execMr4Readout (ch : Fin 4) (rank : Fin 2) (value : BitVec 8) (s : State) : Host.Outcome State Fault Refusal :=
  let i := ch.val * 2 + rank.val
  let s' := notBefore s (SMap.get 0 s.dmc.mr4Last i + 40000000)
  live s (if rankExists s ch.val rank.val then
      { s' with dmc := { s'.dmc with mr4 := SMap.put 0 s'.dmc.mr4 i value.toNat, mr4Last := SMap.put 0 s'.dmc.mr4Last i s'.mono.toNat } }
    else s)

/-! ### Retraining (R266 to R268) -/

/-- DMC_STAT.gather: a gathering window is open on some channel. -/
def gatherStat (s : State) : State :=
  wrb s Reg.DMC_STAT 2 ([0, 1, 2, 3].any (fun c => (retrain s c).gather.isSome))

/-- The channel holds a request of effective class 0 or 1 (R267). -/
def foreground (s : State) (ch : Nat) : Bool :=
  (dmcQueue s ch).zipIdx.any (fun x => decide (effClass s ch x.2 x.1 ≤ 1))

/-- Retraining interval in counts: the field is in ms, 0 stores 1. -/
def retrainInterval (s : State) : Nat := rdf s Reg.DMC_RETRAIN 15 0 * 1250000

/-- RETRAIN_START (R266, R267): at the first moment from the interval on without foreground requests, forced after twice the interval; none starts from the acceptance of a frequency change to its end (R270). -/
def execRetrainStart (ch : Fin 4) (s : State) : Host.Outcome State Fault Refusal :=
  let r := retrain s ch.val
  live s (if rdb s Reg.DMC_RETRAIN 31 && rdb s Reg.DMC_CTRL 0 && r.gather.isNone && s.dmc.freq == .idle &&
        decide (ch.val < dmcChans s) then
      let s1 := notBefore s (r.last + retrainInterval s)
      let t := if foreground s1 ch.val then notBefore s1 (r.last + 2 * retrainInterval s) else s1
      let t := if foreground s1 ch.val then orr (inc t Reg.DMC_RETRAIN_FORCED) Reg.DMC_INT_STAT 0x20 else t
      gatherStat (setRetrain t ch.val { r with last := t.mono.toNat, gather := some t.mono.toNat })
    else s)

/-- The gathering window of a channel, opened at `t0`, ends after 1 µs, and the readback pause moves the delay. -/
def readback (ch t0 : Nat) (d : Option (Option Nat)) (s : State) : State :=
  let s := notBefore s (t0 + 1250)
  moveDelay d ch (gatherStat (setRetrain (inc s Reg.DMC_RETRAIN_COUNT) ch { retrain s ch with gather := none }))

/-- RETRAIN_READBACK (R266, R268): the window closes and the delay moves; a delay out of range (none) is left and reported. -/
def execRetrainReadback (ch : Fin 4) (delay : Option Nat) (s : State) : Host.Outcome State Fault Refusal :=
  live s (match (retrain s ch.val).gather with
    | none => s
    | some t0 => readback ch.val t0 (some delay) s)

/-! ### Frequency change (R269, R270) -/

/-- The timing set that is not active. -/
def shadowSet (s : State) : Nat := if rdb s Reg.DMC_FREQ 2 then 0 else 1

/-- A change is in progress. -/
def freqBusy (s : State) : Bool := s.dmc.freq != .idle

/-- A write of DMC_FREQ: err is cleared by 1, target is stored, and req asks for the change. -/
def freqWrite (v : Word) (s : State) : State :=
  let s := if v.getLsbD 9 then wrf (wrb s Reg.DMC_FREQ 9 false) Reg.DMC_FREQ 11 10 0 else s
  let target := fld v 5 4
  let s := wrf s Reg.DMC_FREQ 5 4 target
  if !v.getLsbD 8 then s
  else
    let refuse (c : Nat) : State := wrf (wrb s Reg.DMC_FREQ 9 true) Reg.DMC_FREQ 11 10 c
    if freqBusy s then refuse 1
    else if rdf s (Reg.DMC_TSET_W (shadowSet s) 3) 11 10 != target then refuse 2
    else if dmcFrozen s then refuse 3
    else if target = rdf s Reg.DMC_FREQ 1 0 then orr (inc s Reg.DMC_FREQ_COUNT) Reg.DMC_INT_STAT 0x40
    else wrb { s with dmc := { s.dmc with freq := .deferred target } } Reg.DMC_STAT 3 true

/-- FREQ_REQUEST (R269). -/
def execFreqRequest (who : Who) (value : Word) (s : State) : Host.Outcome State Fault Refusal :=
  live s (swWrite s who Reg.DMC_FREQ (freqWrite value))

/-- The gathering window of a channel closes, if one is open, and its readback ends, with what it finds. -/
def closeGather (delays : List (Option Nat)) (s : State) (ch : Nat) : State :=
  match (retrain s ch).gather with
  | some t0 => notBefore (readback ch t0 delays[ch]? s) (t0 + 1250 + 625)
  | none => s

/-- FREQ_CHANGE_BEGIN (R270, steps 1 to 3): windows closed, queues drained, check blocks written back, ranks refreshed and in self-refresh. -/
def execFreqChangeBegin (s : State) : Host.Outcome State Fault Refusal :=
  live s (match s.dmc.freq with
    | .deferred t =>
      let s := foldS (closeGather (readbacks s)) [0, 1, 2, 3] (noAnswers (drawn s))
      let s := allBankRefresh (chkFlushAll (completeQueues s))
      { s with dmc := { s.dmc with freq := .changing t, selfRefresh := true } }
    | _ => s)

/-- FREQ_CHANGE_COMPLETE (R270, steps 4 to 7). -/
def execFreqChangeComplete (s : State) : Host.Outcome State Fault Refusal :=
  live s (match s.dmc.freq with
    | .changing t => admitHeld (finishFreq (noAnswers (drawn s)) t (readbacks s))
    | _ => s)

/-! ### Scrubbing and seeding (R254, R490) -/

/-- The controller's own requests: the scrubber and seeding, in the background class. -/
def ownPort : Requester := ⟨16, 0, some 3⟩

/-- A background read at `p` of channel `ch`, asked for at time `t`: it yields to what has a better key, its age promoting it (R254, R259). -/
def backgroundRead (s : State) (ch p t : Nat) : State := serveReqNow s { newReq s ownPort false ch p none with arrival := t }

/-- The next block of the channel's physical addresses, `p`, is read and corrected if needed; a block of the check region holds no codeword of its own. -/
def scrubBlock (s : State) (c p t : Nat) : State :=
  let s := backgroundRead s c p t
  let s := if p < dmcData s then (readBlockAt s ownPort c p).2 else s
  let q := if p + 64 < dmcCap s then p + 64 else 0
  let s := { s with dmc := { s.dmc with scrubPos := SMap.put 0 s.dmc.scrubPos c q } }
  if q = 0 && c == 0 then orr (inc s Reg.DMC_SCRUB_PASS) Reg.DMC_INT_STAT 1 else s

/-- DMC_SCRUB_READ (R254): the interval expires, and the next block is read once foreground requests leave it a slot or its age limit promotes it. -/
def execDmcScrubRead (ch : Fin 4) (s : State) : Host.Outcome State Fault Refusal :=
  let c := ch.val
  live s (if c < dmcChans s && rdb s Reg.DMC_SCRUB_CTRL 16 && rdb s Reg.DMC_CTRL 0 && !dmcFrozen s
        && decide (dmcData s ≤ SMap.get 0 s.dmc.seedPos c) then
      let due := SMap.get 0 s.dmc.scrubLast c + rdf s Reg.DMC_SCRUB_CTRL 11 0 * 1250
      let s := awaitFreq (notBefore s due)
      let s := { s with dmc := { s.dmc with scrubLast := SMap.put 0 s.dmc.scrubLast c s.mono.toNat } }
      scrubBlock s c (SMap.get 0 s.dmc.scrubPos c) due
    else s)

/-- The data blocks of a group from local address `l` are read, `n` of them, unchecked and in the background. -/
def seedReads (c : Nat) : Nat → Nat → State → State
  | 0, _, s => s
  | n + 1, l, s => seedReads c n (l + 64) (backgroundRead s c l s.mono.toNat)

/-- The check bytes of the `n` codewords from local address `l`, from their data. -/
def seedBytes (s : State) (ch : Nat) : Nat → Nat → List Byte
  | 0, _ => []
  | n + 1, l =>
    BitVec.ofNat 8 (eccEncode 64 7 (leNat (getBytes s.dram (cellOf s ch l) 8)) >>> 64) :: seedBytes s ch n (l + 8)

/-- The group at local address `l` is seeded: its blocks are read, its check block is written, and a cached copy is replaced. -/
def seedGroup (s : State) (c l : Nat) : State :=
  let s := seedReads c 8 l s
  let blk := chkAddr s l / 64
  let bs := seedBytes s c 64 l
  let s := enterWrite (putBlock s c (blk * 64) bs) ownPort c (blk * 64)
  setChkCache s c ((chkCache s c).map (fun e => if e.blk = blk then ⟨blk, false, bs⟩ else e))

/-- Every populated channel has been seeded. -/
def allSeeded (s : State) : Bool := (List.range (dmcChans s)).all (fun c => decide (dmcData s ≤ SMap.get 0 s.dmc.seedPos c))

/-- SEED_GROUP (R490): the next 512-byte group of the channel gets the check bytes of its data. -/
def execSeedGroup (ch : Fin 4) (s : State) : Host.Outcome State Fault Refusal :=
  let c := ch.val
  let l := SMap.get 0 s.dmc.seedPos c
  live s (if rdb s Reg.DMC_STAT 5 && c < dmcChans s && l < dmcData s then
      let s := seedGroup (awaitFreq s) c l
      let s := { s with dmc := { s.dmc with seedPos := SMap.put 0 s.dmc.seedPos c (l + 512) } }
      if allSeeded s then wrb s Reg.DMC_STAT 5 false else s
    else s)

/-! ### Command-path errors (R271) -/

/-- The requests of channel `ch`'s queue are answered with error responses. -/
def failQueue (s : State) (ch : Nat) : State :=
  foldS (fun s r => if r.port < 16 then answerReq s r.port r.src .error else s) (dmcQueue s ch) (setDmcQueue s ch [])

/-- The oldest read of port `port` in channel `ch`'s queue is answered with an error response. -/
def failRead (s : State) (ch port : Nat) : State :=
  match (dmcQueue s ch).find? (fun r => r.port == port && !r.write) with
  | some r => answerReq (setDmcQueue s ch ((dmcQueue s ch).erase r)) r.port r.src .error
  | none => s

/-- COMMAND_PATH_ERROR (R271): a QUEUE error answers every request of the channel's queue with an error, a TIMEOUT the read whose strobe did not come. -/
def execCommandPathError (kind : Fin 5) (ch : Fin 4) (port : Fin 16) (s : State) : Host.Outcome State Fault Refusal :=
  live s (match kind.val with
    | 0 => s
    | 1 => commandError (failQueue (noAnswers s) ch.val) 1 ch.val port.val
    | 3 => commandError (failRead (noAnswers s) ch.val port.val) 3 ch.val port.val
    | k => commandError (noAnswers s) k ch.val port.val)

/-! ### Enable, seeds -/

/-- A write of DMC_CTRL; setting enable starts serving and seeding (R274, R490). -/
def dmcCtrlWrite (v : Word) (s : State) : State :=
  let was := rdb s Reg.DMC_CTRL 0
  let s := plainWrite s Reg.DMC_CTRL v
  if !was && rdb s Reg.DMC_CTRL 0 then
    let s := wrf s Reg.DMC_INSTALLED 15 0 (installed s / 2 ^ 20)
    let s := dmcReady { s with dmc := { s.dmc with allRefreshed := s.mono.toNat } }
    if s.dmc.fresh then
      wrb { s with dmc := { s.dmc with fresh := false, seedPos := [] } } Reg.DMC_STAT 5 true
    else s
  else if was && !rdb s Reg.DMC_CTRL 0 then dmcReady s else s

/-- DMC_ENABLE (R274). -/
def execDmcEnable (who : Who) (value : Word) (s : State) : Host.Outcome State Fault Refusal :=
  live s (swWrite s who Reg.DMC_CTRL (dmcCtrlWrite value))

/-- A write of a DMC_RNG_SEED word: only Benchmark's is taken; SEED1 applies both (R264, R275). -/
def dmcSeedWrite (who : Who) (j : Nat) (v : Word) (s : State) : State :=
  match who with
  | .core _ => refuseAccess s srcDmc who (Reg.DMC_RNG_SEED j) true false
  | .bmk =>
    if j = 1 then
      wrb { s with dmc := { s.dmc with seed := some (stagedOr s (Reg.DMC_RNG_SEED 0) 0, v) } } Reg.DMC_STAT 1 true
    else stage s (Reg.DMC_RNG_SEED 0) v

/-- DMC_RNG_SEED (R264). -/
def execDmcRngSeed (who : Who) (value : Word) (s : State) : Host.Outcome State Fault Refusal :=
  live s (swWrite s who (Reg.DMC_RNG_SEED 1) (dmcSeedWrite who 1 value))

/-! ### Other DMC registers -/

/-- What a read of the DMC page register at `a` returns. -/
def dmcPageRead (s : State) (a : Nat) : Word :=
  if a = Reg.DMC_URG then dmcUrg s
  else if a = Reg.DMC_NREF_COUNT then BitVec.ofNat 32 s.dmc.nrefs
  else rd s a

/-- Registers of the page whose writes store something other than what is written: lower bounds, clamps, the active timing set (Tables 10.9, 10.10). -/
def dmcOtherWrite (a : Nat) (v : Word) (s : State) : State :=
  let low1 (hi lo : Nat) (s : State) : State := if rdf s a hi lo = 0 then wrf s a hi lo 1 else s
  if a = Reg.DMC_AGE_LIM then low1 29 20 (low1 19 10 (low1 9 0 (plainWrite s a v)))
  else if a = Reg.DMC_SCHED then low1 7 0 (plainWrite s a v)
  else if a = Reg.DMC_NREF then
    let s := plainWrite s a v
    wrf s a 3 0 (max 6 (min 14 (rdf s a 3 0)))
  else if a = Reg.DMC_RETRAIN then low1 15 0 (plainWrite s a v)
  else if a = Reg.DMC_SCRUB_CTRL then low1 11 0 (plainWrite s a v)
  else if Reg.DMC_PORT_CFG 0 ≤ a ∧ a ≤ Reg.DMC_PORT_CFG 15 then low1 9 0 (plainWrite s a v)
  else if Reg.DMC_TSET_W 0 0 ≤ a ∧ a ≤ Reg.DMC_TSET_W 1 3 then
    if (a - Reg.DMC_TSET_W 0 0) / 16 = shadowSet s then
      wr s a (if a % 16 = 12 then v &&& 0xFFFF0C00 else v)
    else s
  else plainWrite s a v

end Sys2Proof.Machine
end

