-- ==== Sys2Proof/Machine/Ed25519.lean ====
section
/-! DEFINITION. Ed25519 (RFC 8032, pure), which R410, R416 and R417 name. PRESUMED: the standard is not part of the spec's text. -/

namespace Sys2Proof.Machine

/-- The field's prime 2^255 − 19, and the order of the base point. -/
def edP : Nat := 2 ^ 255 - 19
def edL : Nat := 2 ^ 252 + 27742317777372353535851937790883648493

/-- `b` to the power `e`, modulo `m`, over the low `n` bits of `e`. -/
def powMod (m b : Nat) : Nat → Nat → Nat
  | 0, _ => 1 % m
  | n + 1, e =>
    let h := powMod m b n (e / 2)
    let q := h * h % m
    if e % 2 = 1 then q * b % m else q

def edMul (a b : Nat) : Nat := a * b % edP
def edSub (a b : Nat) : Nat := (a + edP - b) % edP
def edInv (a : Nat) : Nat := powMod edP a 255 (edP - 2)

/-- The curve's constant −121665/121666. -/
def edD : Nat := 37095705934669439343138083508754565189542113879843219016388785533085940283555

/-- A square root of −1. -/
def edI : Nat := 19681161376707505956807079304988542015446066515923890162744021073123829784752

/-- A point in extended coordinates: X, Y, Z, T with x = X/Z, y = Y/Z, xy = T/Z. -/
structure EdPt where
  x : Nat
  y : Nat
  z : Nat
  t : Nat
  deriving DecidableEq, Repr

/-- The neutral point. -/
def edZero : EdPt := ⟨0, 1, 1, 0⟩

/-- Addition. -/
def edAdd (p q : EdPt) : EdPt :=
  let a := edMul (edSub p.y p.x) (edSub q.y q.x)
  let b := edMul (p.y + p.x) (q.y + q.x)
  let c := edMul (edMul (2 * p.t) q.t) edD
  let d := edMul (2 * p.z) q.z
  let e := edSub b a
  let f := edSub d c
  let g := d + c
  let h := b + a
  ⟨edMul e f, edMul g h, edMul f g, edMul e h⟩

/-- The low `n` bits of `k` times a point. -/
def edTimes (p : EdPt) : Nat → Nat → EdPt
  | 0, _ => edZero
  | n + 1, k =>
    let h := edTimes p n (k / 2)
    let q := edAdd h h
    if k % 2 = 1 then edAdd q p else q

/-- The two represent one point. -/
def edSame (p q : EdPt) : Bool := edMul p.x q.z == edMul q.x p.z && edMul p.y q.z == edMul q.y p.z

/-- The base point. -/
def edBase : EdPt :=
  let x := 15112221349535400772501151409588531511454012693041857206046113283949847762202
  let y := 46316835694926478169428394003475163141307993866256225615783033603165251855960
  ⟨x, y, 1, edMul x y⟩

/-- The x with the given parity of a point with ordinate `y` (RFC 8032 section 5.1.3). -/
def edRecover (y sign : Nat) : Option Nat :=
  let u := edSub (edMul y y) 1
  let v := edMul (edMul y y) edD + 1
  let v3 := edMul (edMul v v) v
  let c := edMul (edMul u v3) (powMod edP (edMul u (edMul (edMul v3 v3) v)) 252 ((edP - 5) / 8))
  let x := if edMul v (edMul c c) = u then some c else if edMul v (edMul c c) = edSub 0 u then some (edMul c edI) else none
  match x with
  | none => none
  | some x => if x = 0 ∧ sign = 1 then none else some (if x % 2 = sign then x else edP - x)

/-- Decode a point of 32 bytes. -/
def edDecode (bs : List Byte) : Option EdPt :=
  let n := leNat bs
  let y := n % 2 ^ 255
  if edP ≤ y then none
  else match edRecover y (n / 2 ^ 255) with
    | some x => some ⟨x, y, 1, edMul x y⟩
    | none => none

/-- Encode a point. -/
def edEncode (p : EdPt) : List Byte :=
  let i := edInv p.z
  leBytes 32 (edMul p.y i + 2 ^ 255 * (edMul p.x i % 2))

/-- The scalar and the prefix of a secret key (section 5.1.5). -/
def edExpand (sk : List Byte) : Nat × List Byte :=
  let h := sha512 sk
  (leNat (h.take 32) % 2 ^ 254 / 8 * 8 + 2 ^ 254, h.drop 32)

/-- The public key of a secret key of 32 bytes. -/
def edPublic (sk : List Byte) : List Byte := edEncode (edTimes edBase 255 (edExpand sk).1)

/-- The signature of a message (section 5.1.6). -/
def edSign (sk m : List Byte) : List Byte :=
  let e := edExpand sk
  let r := leNat (sha512 (e.2 ++ m)) % edL
  let rb := edEncode (edTimes edBase 253 r)
  let k := leNat (sha512 (rb ++ edPublic sk ++ m)) % edL
  rb ++ leBytes 32 ((r + k * e.1) % edL)

/-- Does a signature verify (section 5.1.7)? DEDUCED: by the equation with the cofactor 8, the one that section states as the check. -/
def edVerify (pk m sig : List Byte) : Bool :=
  let s := leNat (sub sig 32 32)
  match edDecode pk, edDecode (sub sig 0 32) with
  | some a, some r =>
    let k := leNat (sha512 (sub sig 0 32 ++ pk ++ m)) % edL
    decide (s < edL) && edSame (edTimes (edTimes edBase 253 s) 4 8) (edTimes (edAdd r (edTimes a 253 k)) 4 8)
  | _, _ => false

end Sys2Proof.Machine
end

