-- ==== Sys2Proof/Machine/Sha3.lean ====
section
/-! DEFINITION. SHAKE128 and SHAKE256 (FIPS 202), HMAC-SHA-512 and HKDF-SHA-512 (RFC 5869), on which R410, R416 and R417 rest. PRESUMED: the standards are not part of the spec's text. -/

namespace Sys2Proof.Machine

/-! ### Keccak-f[1600] (FIPS 202): 25 lanes of 64 bits, lane (x, y) at x + 5y -/

/-- The round constants, constant `i` at bits [64i+63:64i]. -/
def keccakRC : Nat := 0x8000000080008008000000008000000180000000000080808000000080008081800000008000000a000000000000800a8000000000000080800000000000800280000000000080038000000000008089800000000000008b000000008000808b000000008000000a00000000800080090000000000000088000000000000008a800000000000800980000000800080810000000080000001000000000000808b8000000080008000800000000000808a00000000000080820000000000000001

/-- The rotation of each lane (ρ). -/
def keccakRot : List Nat := [0, 1, 62, 28, 27, 36, 44, 6, 55, 20, 3, 10, 43, 25, 39, 41, 45, 15, 21, 8, 18, 2, 61, 56, 14]

/-- A lane turned left by `n` bits. -/
def rotl64 (n x : Nat) : Nat := (x <<< n) % 2 ^ 64 ||| (x >>> (64 - n))

/-- θ: every lane with the parities of two columns. -/
def keccakTheta (a : List Nat) : List Nat :=
  let l (i : Nat) : Nat := a.getD i 0
  let c := (List.range 5).map (fun x => l x ^^^ l (x + 5) ^^^ l (x + 10) ^^^ l (x + 15) ^^^ l (x + 20))
  let d := (List.range 5).map (fun x => c.getD ((x + 4) % 5) 0 ^^^ rotl64 1 (c.getD ((x + 1) % 5) 0))
  a.zipIdx.map (fun e => e.1 ^^^ d.getD (e.2 % 5) 0)

/-- ρ and π: lane (x, y) of the result is lane (x + 3y, x), turned. -/
def keccakRhoPi (a : List Nat) : List Nat :=
  let r := List.zipWith rotl64 keccakRot a
  (List.range 25).map (fun i => r.getD ((i % 5 + 3 * (i / 5)) % 5 + 5 * (i % 5)) 0)

/-- χ. -/
def keccakChi (b : List Nat) : List Nat :=
  let l (x y : Nat) : Nat := b.getD (x % 5 + 5 * y) 0
  (List.range 25).map (fun i => l i (i / 5) ^^^ ((2 ^ 64 - 1 - l (i + 1) (i / 5)) &&& l (i + 2) (i / 5)))

/-- The rounds from round `i` on. -/
def keccakRounds : Nat → Nat → List Nat → List Nat
  | 0, _, a => a
  | n + 1, i, a =>
    match keccakChi (keccakRhoPi (keccakTheta a)) with
    | x :: xs => keccakRounds n (i + 1) ((x ^^^ slice keccakRC (64 * i + 63) (64 * i)) :: xs)
    | [] => []

/-- The permutation. -/
def keccakF (a : List Nat) : List Nat := keccakRounds 24 0 a

/-- Absorb `n` blocks of `rate` bytes. -/
def keccakAbsorb (rate : Nat) : Nat → List Byte → List Nat → List Nat
  | 0, _, a => a
  | n + 1, bs, a =>
    keccakAbsorb rate n (bs.drop rate) (keccakF (a.zipIdx.map (fun e => if e.2 < rate / 8 then e.1 ^^^ le bs (8 * e.2) 8 else e.1)))

/-- Squeeze `n` blocks. -/
def keccakSqueeze (rate : Nat) : Nat → List Nat → List Byte
  | 0, _ => []
  | n + 1, a => ((a.take (rate / 8)).map (leBytes 8)).flatten ++ keccakSqueeze rate n (keccakF a)

/-- The message with the SHAKE suffix and the padding of its last block. -/
def shakePad (rate : Nat) (m : List Byte) : List Byte :=
  let p := m ++ 0x1F#8 :: List.replicate (rate - 1 - m.length % rate) 0#8
  p.take (p.length - 1) ++ [p.getLastD 0 ||| 0x80#8]

/-- `n` bytes of a SHAKE of the rate. -/
def shake (rate n : Nat) (m : List Byte) : List Byte :=
  let p := shakePad rate m
  (keccakSqueeze rate ((n + rate - 1) / rate) (keccakAbsorb rate (p.length / rate) p (List.replicate 25 0))).take n

/-- SHAKE128 and SHAKE256. -/
def shake128 (n : Nat) (m : List Byte) : List Byte := shake 168 n m
def shake256 (n : Nat) (m : List Byte) : List Byte := shake 136 n m

/-! ### HMAC-SHA-512 and HKDF (RFC 2104, RFC 5869) -/

/-- HMAC-SHA-512. -/
def hmacSha512 (key m : List Byte) : List Byte :=
  let k := sub (if 128 < key.length then sha512 key else key) 0 128
  sha512 (k.map (· ^^^ 0x5C) ++ sha512 (k.map (· ^^^ 0x36) ++ m))

/-- HKDF-SHA-512 of at most 64 bytes: extract under the salt, then one block of expand under `info`. -/
def hkdfSha512 (salt ikm info : List Byte) (n : Nat) : List Byte := (hmacSha512 (hmacSha512 salt ikm) (info ++ [1#8])).take n

end Sys2Proof.Machine
end

