-- ==== Sys2Proof/Machine/MlDsa.lean ====
section
/-! DEFINITION. ML-DSA-65 (FIPS 204, pure, empty context), which R410, R416 and R417 name: k = 6, l = 5, η = 4, τ = 49, γ1 = 2^19, γ2 = (q − 1)/32, β = 196, ω = 55. PRESUMED: the standard is not part of the spec's text. -/

namespace Sys2Proof.Machine

/-- A polynomial: 256 coefficients modulo q. -/
abbrev Poly := List Nat

/-- The modulus. -/
def mlQ : Nat := 8380417
def mlGamma1 : Nat := 2 ^ 19
def mlGamma2 : Nat := (mlQ - 1) / 32
def mlBeta : Nat := 196

def polyAdd (a b : Poly) : Poly := List.zipWith (fun x y => (x + y) % mlQ) a b
def polySub (a b : Poly) : Poly := List.zipWith (fun x y => (x + mlQ - y) % mlQ) a b
def polyMul (a b : Poly) : Poly := List.zipWith (fun x y => x * y % mlQ) a b
def polyZero : Poly := List.replicate 256 0

/-! ### The number-theoretic transform (FIPS 204 algorithms 41 and 42) -/

/-- The low `n` bits of `x`, reversed. -/
def revBits : Nat → Nat → Nat
  | 0, _ => 0
  | n + 1, x => x % 2 * 2 ^ n + revBits n (x / 2)

/-- ζ to the power of the reversed number `k`, and its inverse. -/
def mlZeta (k : Nat) : Nat := powMod mlQ 1753 8 (revBits 8 k)
def mlZetaInv (k : Nat) : Nat := powMod mlQ 1753 9 (512 - revBits 8 k)

/-- The transform of a block of 2^n coefficients, block `k` of the walk. -/
def nttBlock : Nat → Nat → List Nat → List Nat
  | 0, _, a => a
  | n + 1, k, a =>
    let z := mlZeta k
    let t := (a.drop (2 ^ n)).map (fun x => z * x % mlQ)
    nttBlock n (2 * k) (polyAdd (a.take (2 ^ n)) t) ++ nttBlock n (2 * k + 1) (polySub (a.take (2 ^ n)) t)

/-- The inverse transform of a block, without the division by its size. -/
def nttInvBlock : Nat → Nat → List Nat → List Nat
  | 0, _, a => a
  | n + 1, k, a =>
    let z := mlZetaInv k
    let x := nttInvBlock n (2 * k) (a.take (2 ^ n))
    let y := nttInvBlock n (2 * k + 1) (a.drop (2 ^ n))
    polyAdd x y ++ (polySub x y).map (fun c => z * c % mlQ)

def ntt (a : Poly) : Poly := nttBlock 8 1 a
def nttInv (a : Poly) : Poly := (nttInvBlock 8 1 a).map (fun x => x * 8347681 % mlQ)

/-- A row of a matrix times a vector, both transformed. -/
def rowTimes (row v : List Poly) : Poly := (List.zipWith polyMul row v).foldl polyAdd polyZero

/-! ### Signed values -/

/-- The coefficient as a number of least magnitude. -/
def mlCentre (x : Nat) : Int := if mlQ / 2 < x then (x : Int) - mlQ else x

/-- An integer modulo q. -/
def mlMod (x : Int) : Nat := (x % (mlQ : Int)).toNat

/-- The largest magnitude of the coefficients stays below `b`. -/
def normBelow (b : Nat) (p : Poly) : Bool := p.all (fun x => decide ((mlCentre x).natAbs < b))

/-! ### Packing (algorithms 16 to 19) -/

/-- Numbers of `w` bits each as bytes, low bits first. -/
def bitPack (w : Nat) (l : List Nat) : List Byte :=
  leBytes (l.length * w / 8) (l.foldr (fun x n => x % 2 ^ w + 2 ^ w * n) 0)

/-- `n` numbers of `w` bits each from a number. -/
def bitsOf (w : Nat) : Nat → Nat → List Nat
  | 0, _ => []
  | n + 1, x => x % 2 ^ w :: bitsOf w n (x / 2 ^ w)

/-- 256 numbers of `w` bits each from bytes. -/
def bitUnpack (w : Nat) (bs : List Byte) : List Nat := bitsOf w 256 (leNat bs)

/-- Coefficients as differences from `b`. -/
def packFrom (w b : Nat) (p : Poly) : List Byte := bitPack w (p.map (fun x => ((b : Int) - mlCentre x).toNat))
def unpackFrom (w b : Nat) (bs : List Byte) : Poly := (bitUnpack w bs).map (fun x => mlMod ((b : Int) - x))

/-- Pieces of `n` bytes. -/
def chunks (n : Nat) : Nat → List Byte → List (List Byte)
  | 0, _ => []
  | k + 1, bs => bs.take n :: chunks n k (bs.drop n)

/-! ### Sampling (algorithms 29 to 34); a stream has the length that FIPS 204's Appendix C lets an implementation stop at -/

/-- Coefficients below q from three bytes each. -/
def ntt3 : List Byte → List Nat
  | a :: b :: c :: bs =>
    let z := a.toNat + 2 ^ 8 * b.toNat + 2 ^ 16 * (c.toNat % 128)
    if z < mlQ then z :: ntt3 bs else ntt3 bs
  | _ => []

/-- Entry of the public matrix. -/
def mlEntry (rho : List Byte) (r s : Nat) : Poly := (ntt3 (shake128 894 (rho ++ [BitVec.ofNat 8 s, BitVec.ofNat 8 r]))).take 256

/-- The public matrix, transformed. -/
def mlMatrix (rho : List Byte) : List (List Poly) := (List.range 6).map (fun r => (List.range 5).map (fun s => mlEntry rho r s))

/-- Coefficients of magnitude at most 4 from the halves of bytes. -/
def small4 (bs : List Byte) : List Nat :=
  ((bs.map (fun b : Byte => [b.toNat % 16, b.toNat / 16])).flatten.filter (fun b : Nat => decide (b < 9))).map (fun b : Nat => mlMod (4 - (b : Int)))

/-- A secret polynomial. -/
def mlSecret (rho : List Byte) (r : Nat) : Poly := (small4 (shake256 481 (rho ++ leBytes 2 r))).take 256

/-- A mask polynomial. -/
def mlMask (rho : List Byte) (k : Nat) : Poly := unpackFrom 20 mlGamma1 (shake256 640 (rho ++ leBytes 2 k))

/-- The first byte of a stream that is at most `i`, and the rest. -/
def ballPick (i : Nat) : List Byte → Nat × List Byte
  | [] => (0, [])
  | b :: bs => if b.toNat ≤ i then (b.toNat, bs) else ballPick i bs

/-- The places of a challenge from place `i` on: signs, stream, polynomial. -/
def ballPlaces : Nat → Nat → Nat → List Byte → Poly → Poly
  | 0, _, _, _, c => c
  | n + 1, i, signs, bs, c =>
    let j := ballPick i bs
    ballPlaces n (i + 1) (signs / 2) j.2 ((c.set i (c.getD j.1 0)).set j.1 (if signs % 2 = 1 then mlQ - 1 else 1))

/-- A challenge: 49 coefficients are 1 or −1. -/
def mlBall (ct : List Byte) : Poly :=
  let bs := shake256 (8 + 121) ct
  ballPlaces 49 207 (leNat (bs.take 8)) (bs.drop 8) polyZero

/-! ### High and low bits, hints (algorithms 35 to 40) -/

/-- Power2Round: the high part, and the low 13 bits as a coefficient. -/
def power2High (x : Nat) : Nat := (x + 4095) / 2 ^ 13
def power2Low (x : Nat) : Nat := mlMod ((x : Int) - (power2High x * 2 ^ 13 : Nat))

/-- Decompose: high part and low part. -/
def mlDecompose (x : Nat) : Nat × Int :=
  let g := 2 * mlGamma2
  let r0 : Int := if mlGamma2 < x % g then ((x % g : Nat) : Int) - g else (x % g : Nat)
  if (x : Int) - r0 = mlQ - 1 then (0, r0 - 1) else (((x : Int) - r0).toNat / g, r0)

def mlHigh (x : Nat) : Nat := (mlDecompose x).1
def mlLow (x : Nat) : Nat := mlMod (mlDecompose x).2

/-- UseHint. -/
def mlUseHint (h : Bool) (x : Nat) : Nat :=
  let d := mlDecompose x
  if h then (if 0 < d.2 then (d.1 + 1) % 16 else (d.1 + 15) % 16) else d.1

/-- Places of the hints of one polynomial. -/
def hintPlaces (h : List Bool) : List Nat := (h.zipIdx.filter (·.1)).map (·.2)

/-- The hints packed: 55 places, then the running counts. -/
def hintPack (h : List (List Bool)) : List Byte :=
  let p := (h.map hintPlaces).flatten
  let counts := (List.range 6).map (fun i => ((h.take (i + 1)).map (fun x => (hintPlaces x).length)).sum)
  (p ++ List.replicate (55 - p.length) 0 ++ counts).map (BitVec.ofNat 8)

/-- The numbers rise. -/
def rising : List Nat → Bool
  | a :: b :: l => decide (a < b) && rising (b :: l)
  | _ => true

/-- The hints of `n` polynomials from place `lo` on. -/
def hintRows (y : List Nat) : Nat → Nat → Nat → Option (List (List Bool))
  | 0, _, lo => if ((y.take 55).drop lo).all (· == 0) then some [] else none
  | n + 1, i, lo =>
    let hi := y.getD (55 + i) 0
    let ps := (y.take hi).drop lo
    if hi < lo ∨ 55 < hi ∨ !rising ps then none
    else match hintRows y n (i + 1) hi with
      | some l => some ((List.range 256).map (fun j => ps.contains j) :: l)
      | none => none

/-- The hints of a signature, none when they are not well formed. -/
def hintUnpack (bs : List Byte) : Option (List (List Bool)) := hintRows (bs.map (·.toNat)) 6 0 0

/-! ### Keys (algorithm 6) -/

/-- What a seed of 32 bytes expands to. -/
structure MlKey where
  rho : List Byte
  k : List Byte
  tr : List Byte
  s1 : List Poly
  s2 : List Poly
  t0 : List Poly
  pk : List Byte
  deriving DecidableEq, Repr

/-- The key pair of a seed. -/
def mlKeys (xi : List Byte) : MlKey :=
  let h := shake256 128 (xi ++ [6, 5])
  let rho := h.take 32
  let rho' := (h.drop 32).take 64
  let s1 := (List.range 5).map (mlSecret rho')
  let s2 := (List.range 6).map (fun i => mlSecret rho' (5 + i))
  let t := List.zipWith (fun row e => polyAdd (nttInv (rowTimes row (s1.map ntt))) e) (mlMatrix rho) s2
  let pk := rho ++ (t.map (fun p => bitPack 10 (p.map power2High))).flatten
  { rho := rho, k := h.drop 96, tr := shake256 64 pk, s1 := s1, s2 := s2, t0 := t.map (·.map power2Low), pk := pk }

/-- The public key of a seed. -/
def mldsaPublic (xi : List Byte) : List Byte := (mlKeys xi).pk

/-- The private key as bytes. -/
def mldsaSecret (xi : List Byte) : List Byte :=
  let k := mlKeys xi
  k.rho ++ k.k ++ k.tr ++ ((k.s1 ++ k.s2).map (packFrom 4 4)).flatten ++ (k.t0.map (packFrom 13 4096)).flatten

/-! ### Signing and verification (algorithms 2, 3, 7, 8) -/

/-- The message representative of a pure signature with an empty context. -/
def mlMu (tr m : List Byte) : List Byte := shake256 64 (tr ++ [0, 0] ++ m)

/-- The commitment hash. -/
def mlCommit (mu : List Byte) (w1 : List Poly) : List Byte := shake256 48 (mu ++ (w1.map (bitPack 4)).flatten)

/-- One attempt with mask counter `kappa`. -/
def mlAttempt (key : MlKey) (mat : List (List Poly)) (mu rho : List Byte) (kappa : Nat) : Option (List Byte) :=
  let y := (List.range 5).map (fun r => mlMask rho (kappa + r))
  let w := mat.map (fun row => nttInv (rowTimes row (y.map ntt)))
  let ct := mlCommit mu (w.map (·.map mlHigh))
  let c := ntt (mlBall ct)
  let times (v : List Poly) : List Poly := v.map (fun p => nttInv (polyMul c (ntt p)))
  let z := List.zipWith polyAdd y (times key.s1)
  let wcs := List.zipWith polySub w (times key.s2)
  let c0 := times key.t0
  let h := List.zipWith (fun a b => List.zipWith (fun x e => mlHigh ((x + e) % mlQ) != mlHigh x) a b) wcs c0
  if z.all (normBelow (mlGamma1 - mlBeta)) && wcs.all (fun p => normBelow (mlGamma2 - mlBeta) (p.map mlLow)) &&
      c0.all (normBelow mlGamma2) && decide ((h.map (fun x => (hintPlaces x).length)).sum ≤ 55) then
    some (ct ++ (z.map (packFrom 20 mlGamma1)).flatten ++ hintPack h)
  else none

/-- Attempts until one is taken; the bound is that of FIPS 204's Appendix C. -/
def mlAttempts (key : MlKey) (mat : List (List Poly)) (mu rho : List Byte) : Nat → Nat → List Byte
  | 0, _ => []
  | n + 1, kappa =>
    match mlAttempt key mat mu rho kappa with
    | some s => s
    | none => mlAttempts key mat mu rho n (kappa + 5)

/-- The signature of a message under the key of seed `xi`, with 32 bytes of randomness. -/
def mldsaSign (xi rnd m : List Byte) : List Byte :=
  let key := mlKeys xi
  let mu := mlMu key.tr m
  mlAttempts key (mlMatrix key.rho) mu (shake256 64 (key.k ++ rnd ++ mu)) 814 0

/-- Does a signature of 3 309 bytes verify under a public key of 1 952 bytes? -/
def mldsaVerify (pk m sig : List Byte) : Bool :=
  let t1 := (chunks 320 6 (pk.drop 32)).map (bitUnpack 10)
  let ct := sig.take 48
  let z := (chunks 640 5 (sig.drop 48)).map (unpackFrom 20 mlGamma1)
  match hintUnpack (sig.drop 3248) with
  | none => false
  | some h =>
    let mu := mlMu (shake256 64 pk) m
    let c := ntt (mlBall ct)
    let zh := z.map ntt
    let w := List.zipWith (fun row t =>
      nttInv (polySub (rowTimes row zh) (polyMul c (ntt (t.map (fun x => x * 2 ^ 13 % mlQ)))))) (mlMatrix (pk.take 32)) t1
    let w1 := List.zipWith (fun p hs => List.zipWith (fun x b => mlUseHint b x) p hs) w h
    z.all (normBelow (mlGamma1 - mlBeta)) && mlCommit mu w1 == ct

end Sys2Proof.Machine
end

