-- ==== Sys2Proof/Machine/Images.lean ====
section
/-! DEFINITION. Benchmark's flash and fuses: the slot state record (R408), images and their verification (R409, R410), boot slot selection (R411), the calibration set (R420 to R422). -/

namespace Sys2Proof.Machine

/-! ### Flash -/

/-- Offset of a slot in flash (Table 15.4); true is B. -/
def slotBase (b : Bool) : Nat := if b then 0x1100000 else 0x200000

/-- Bytes of an image slot. -/
def slotSize : Nat := 15728640

def slotOf' (s : State) (b : Bool) : Slot := if b then s.bmk.slotB else s.bmk.slotA

def setSlot' (s : State) (b : Bool) (x : Slot) : State :=
  if b then { s with bmk := { s.bmk with slotB := x } } else { s with bmk := { s.bmk with slotA := x } }

/-- Byte `i` of a slot: erased flash reads 0xFF. -/
def slotByte (s : State) (b : Bool) (i : Nat) : Byte :=
  (SMap.get none (slotOf' s b).cells i).getD (if (slotOf' s b).erased then 0xFF else Config.flashByte (slotBase b + i))

/-- `n` bytes of a slot from offset `o`. -/
def slotRead (s : State) (b : Bool) (o n : Nat) : List Byte := (List.range n).map (fun i => slotByte s b (o + i))

/-- A slot is erased: marked empty. -/
def slotErase (s : State) (b : Bool) : State := setSlot' s b ⟨true, []⟩

/-- Bytes put into sparse cells from `o` upward. -/
def putCells (m : SMap (Option Byte)) (o : Nat) : List Byte → SMap (Option Byte)
  | [] => m
  | x :: xs => putCells (SMap.put none m o (some x)) (o + 1) xs

/-- Program bytes of a slot at offset `o`. -/
def slotProgram (s : State) (b : Bool) (o : Nat) (bs : List Byte) : State :=
  setSlot' s b { slotOf' s b with cells := putCells (slotOf' s b).cells o bs }

/-! ### The slot state record (R408) -/

/-- One bit of CRC-32 (IEEE 802.3, reflected). -/
def crc32Bit (c : Nat) : Nat := if c % 2 = 1 then (c / 2) ^^^ 0xEDB88320 else c / 2

def crc32Step (c : Nat) (b : Byte) : Nat :=
  crc32Bit (crc32Bit (crc32Bit (crc32Bit (crc32Bit (crc32Bit (crc32Bit (crc32Bit (c ^^^ b.toNat))))))))

/-- CRC-32 (IEEE 802.3) of bytes. -/
def crc32 (bs : List Byte) : Nat := bs.foldl crc32Step 0xFFFFFFFF ^^^ 0xFFFFFFFF

/-- The bytes of a copy that its CRC covers. DESIGN CHOICE: R408 names the fields and no layout. -/
def SlotRec.body (r : SlotRec) : List Byte :=
  leBytes 4 r.seq.toNat ++ [BitVec.ofNat 8 r.active.toNat, BitVec.ofNat 8 r.pending.toNat, BitVec.ofNat 8 r.pendSlot.toNat, r.tries.setWidth 8]

/-- The copy has a good CRC. -/
def SlotRec.good (r : SlotRec) : Bool := crc32 r.body == r.crc.toNat

/-- The copy with its CRC. -/
def SlotRec.sealed (r : SlotRec) : SlotRec := { r with crc := BitVec.ofNat 32 (crc32 r.body) }

/-- The second copy is the one in force: the higher sequence with a good CRC. -/
def recSecond (s : State) : Bool := s.bmk.rec1.good && (!s.bmk.rec0.good || decide (s.bmk.rec0.seq < s.bmk.rec1.seq))

/-- The slot state record in force. -/
def slotRec (s : State) : SlotRec := if recSecond s then s.bmk.rec1 else s.bmk.rec0

/-- Program the copy that is not in force. -/
def recPut (s : State) (r : SlotRec) : State :=
  if recSecond s then { s with bmk := { s.bmk with rec0 := r } } else { s with bmk := { s.bmk with rec1 := r } }

/-- The record as it is written after the one in force. -/
def recNext (s : State) (r : SlotRec) : SlotRec := SlotRec.sealed { r with seq := (slotRec s).seq + 1 }

/-- Write the slot state record. -/
def writeRec (s : State) (r : SlotRec) : State := recPut s (recNext s r)

/-- Write the slot state record and read it back: does it stand? A programming failure leaves the copy erased. -/
def writeRecBack (s : State) (r : SlotRec) (fails : Bool) : Bool × State :=
  let t := recPut s (if fails then SlotRec.erased else recNext s r)
  (slotRec t == recNext s r, t)

/-! ### Verification (R409, R410) -/

/-- Every byte is 0. -/
def allZero (bs : List Byte) : Bool := bs.all (· == 0)

/-- Fields of an image header (Table 15.5). -/
def hdrVersion (h : List Byte) : Nat := le h 8 4
def hdrSc (h : List Byte) : Nat := le h 12 4
def hdrLen (h : List Byte) : Nat := le h 16 4
def hdrKey (h : List Byte) : Nat := le h 21 1

/-- Check 1, FORMAT. -/
def imgFormat (h : List Byte) : Bool :=
  le h 0 4 == 0x5A468096 && le h 4 4 == 1 && decide (hdrLen h ≤ 15723008) && le h 20 1 == 0xA1 &&
  allZero (sub h 22 42) && allZero (sub h 208 48) && allZero (sub h 5581 51)

/-- Digest of a signing key record in OTP. -/
def otpDigest (k which : Nat) : List Byte := (List.range 48).map (fun i => Config.keyDigest k which i)

/-- Check 2, KEYS: only records 0 and 1 exist. -/
def imgKeys (s : State) (h : List Byte) : Bool :=
  decide (hdrKey h < 2) && !s.bmk.revoked.getLsbD (hdrKey h) && sha384 (sub h 128 32) == otpDigest (hdrKey h) 0 &&
  sha384 (sub h 256 1952) == otpDigest (hdrKey h) 1 && sha384 (sub h 256 1952) == sub h 160 48

/-- The first check of R410 that an image with header `h` fails, 0 when it is valid. -/
def imgCheck (s : State) (b : Bool) (h : List Byte) : Nat :=
  if !imgFormat h then 1
  else if !imgKeys s h then 2
  else if !edVerify (sub h 128 32) (sub h 0 256) (sub h 2208 64) then 3
  else if !mldsaVerify (sub h 256 1952) (sub h 0 256) (sub h 2272 3309) then 4
  else if hdrSc h < s.bmk.count then 5
  else if sha512 (slotRead s b 5632 (hdrLen h)) != sub h 64 64 then 6
  else 0

/-- Header of the image in a slot. -/
def slotHeader (s : State) (b : Bool) : List Byte := slotRead s b 0 5632

/-- Verify the image in a slot; a rejection is recorded in the event log, with the number of the failed check as its arg (DESIGN CHOICE: R410 has the check recorded and gives no place). -/
def verify (s : State) (b : Bool) : Nat × State :=
  let c := imgCheck s b (slotHeader s b)
  (c, if c = 0 then s else evBmk s evREJECT (BitVec.ofNat 32 c))

/-! ### Slot selection (R411) -/

/-- The image in slot `b` runs, as a trial or not. -/
def bootSlot (s : State) (b trial : Bool) : State :=
  { s with bmk := { s.bmk with running := some b, header := slotHeader s b, trial := trial, recovery := false } }

/-- Enter recovery (R413). -/
def recovery (s : State) : State :=
  evBmk { s with bmk := { s.bmk with running := none, header := [], trial := false, recovery := true } } evNOIMAGE (Config.eventArg evNOIMAGE 0)

/-- The end of selection: the active slot, else the other, else recovery. -/
def selectActive (s : State) : State :=
  let a := (slotRec s).active
  let r := verify s a
  if r.1 = 0 then bootSlot (writeRec r.2 { slotRec r.2 with pending := false }) a false
  else
    let r := verify r.2 (!a)
    if r.1 = 0 then bootSlot (writeRec r.2 { slotRec r.2 with active := !a, pending := false }) (!a) false
    else recovery r.2

/-- Boot slot selection. -/
def selectSlot (s : State) : State :=
  let c := slotRec s
  if c.pending && c.tries != 0 then
    let r := verify (writeRec s { c with tries := c.tries - 1 }) c.pendSlot
    if r.1 = 0 then bootSlot r.2 c.pendSlot true else selectActive r.2
  else selectActive s

/-- The slot in use is verified again, without a new selection (Table 16.4, R440). -/
def reverify (s : State) (b : Bool) : State :=
  let r := verify s b
  if r.1 = 0 then bootSlot r.2 b s.bmk.trial else recovery r.2

/-! ### The calibration set (R420 to R422) -/

/-- The set in flash. -/
def calFlash (s : State) : List Byte := s.bmk.cal.getD ((List.range 2048).map (fun i => Config.flashByte (0x20000 + i)))

/-- Does a set pass: magic, version, length, CRC (R422)? -/
def calGood (c : List Byte) : Bool :=
  le c 0 4 == 0x4C414346 && le c 4 4 == 1 && le c 8 4 == 2048 && crc32 (sub c 0 2044) == le c 2044 4

/-- Correction of port `n`, mode index `m`, direction `d` (0 RX, 1 TX) in a set. -/
def calCorr (c : List Byte) (n m d : Nat) : Word := BitVec.ofNat 32 (le c (16 + ((n * 5 + m) * 2 + d) * 4) 4)

/-- Load the corrections of port `n`. -/
def calPort (c : List Byte) (s : State) (n : Nat) : State :=
  foldS (fun s m => wr (wr s (Reg.DTM_PC_RX n m) (calCorr c n m 0)) (Reg.DTM_PC_TX n m) (calCorr c n m 1)) (List.range 5) s

/-- Load the Plumb coefficients. -/
def calPlumb (c : List Byte) (s : State) : State :=
  let s := wr s Reg.DTM_PLUMB_T0 (BitVec.ofNat 32 (le c 656 2))
  let s := foldS (fun s j => wr s (Reg.DTM_PLUMB_C j) (BitVec.ofNat 32 (le c (660 + 4 * j) 4))) (List.range 4) s
  wr s Reg.DTM_PLUMB_AGE (BitVec.ofNat 32 (le c 676 4))

/-- Word `j` of a stored timing set: W3 has reserved bits (Table 10.10). -/
def tsetWord (j : Nat) (v : Word) : Word := if j = 3 then v &&& 0xFFFF0C00 else v

/-- Load timing set A. -/
def calTiming (f : Fin 4 → Word) (s : State) : State :=
  foldS (fun s (j : Fin 4) => wr s (Reg.DMC_TSET_W 0 j.val) (tsetWord j.val (f j))) [0, 1, 2, 3] s

/-- Benchmark loads the set, or the defaults of R422: generic presets and no training seeds among them; timing set A only when DRAM is trained anew. -/
def calLoad (s : State) (train : Bool) : State :=
  let c := calFlash s
  let ok := calGood c
  let u := if ok then c else List.replicate 2048 0
  let s := if ok then s else evNamed s 3 0 evCAL (Config.eventArg evCAL 0)
  let s := calPlumb u (foldS (calPort u) (List.range 16) s)
  let s := { s with pkt := { s.pkt with presets := if ok then sub c 760 640 else (List.range 640).map Config.genericPreset },
                    dmc := { s.dmc with trainSeeds := if ok then sub c 1400 512 else [] } }
  let s := if train then calTiming (fun j => if ok then BitVec.ofNat 32 (le c (1912 + 4 * j.val) 4) else Config.safeTiming j) s else s
  { s with bmk := { s.bmk with calLoaded := c, calValid := ok } }

/-- Offset of sensor `i` in the set as loaded; 0 under defaults. -/
def sensorOffset (s : State) (i : Nat) : Int := if s.bmk.calValid then sext 16 (le s.bmk.calLoaded (680 + 2 * i) 2) else 0

/-! ### Attestation keys (R416) -/

/-- The device secret. -/
def deviceSecret : List Byte := (List.finRange 32).map Config.deviceSecret

/-- The two labels of R416. -/
def labelEd : List Byte := [0x46, 0x5A, 0x38, 0x30, 0x39, 0x36, 0x20, 0x61, 0x74, 0x74, 0x65, 0x73, 0x74, 0x20, 0x65, 0x64, 0x32, 0x35, 0x35, 0x31, 0x39]
def labelMl : List Byte := [0x46, 0x5A, 0x38, 0x30, 0x39, 0x36, 0x20, 0x61, 0x74, 0x74, 0x65, 0x73, 0x74, 0x20, 0x6D, 0x6C, 0x64, 0x73, 0x61, 0x36, 0x35]

/-- The key pairs of a device secret: HKDF-SHA-512 without a salt, 32 bytes under each label. -/
def attestKeys (secret : List Byte) : AttestKeys :=
  let ed := hkdfSha512 [] secret labelEd 32
  let ml := hkdfSha512 [] secret labelMl 32
  { ed := ed, edPub := edPublic ed, ml := ml, mlPub := mldsaPublic ml }

/-- Benchmark derives the key pairs. -/
def bootKeys (s : State) : State := { s with bmk := { s.bmk with keys := some (attestKeys deviceSecret) } }

/-- BMK_BOOT_STAT (Table 15.10). -/
def bootStat (s : State) : Word :=
  let r := slotRec s
  BitVec.ofNat 32 (2 ^ 24 * (hdrSc s.bmk.header % 256) + 2 ^ 16 * s.bmk.count + s.bmk.kek0.isSome.toNat * 2 ^ 8 + r.tries.toNat * 2 ^ 6 +
    s.bmk.calValid.toNat * 2 ^ 5 + s.bmk.trial.toNat * 2 ^ 4 + hdrKey s.bmk.header % 4 * 4 + r.pending.toNat * 2 + r.active.toNat)

end Sys2Proof.Machine
end

