-- ==== Sys2Proof/Machine/Billet.lean ====
section
/-! DEFINITION. The billet engine (R222 to R232). -/

namespace Sys2Proof.Machine

/-! ### Billets (R222 to R227) -/

/-- Bytes of a billet (Table 9.1). -/
def bilBytes : Nat → Nat
  | 0 => 60
  | 1 => 54
  | _ => 40

/-- Bits of a coded sample (Table 9.1). -/
def bilBits : Nat → Nat
  | 0 => 7
  | 1 => 6
  | _ => 4

/-- Where the CRC stands in a billet. -/
def bilCrcAt (ratio : Nat) : Nat := bilBytes ratio - 2

/-- One bit step of the CRC-16 of R225. -/
def crcStep (c : Nat) : Nat := if c.testBit 15 then (c * 2 % 65536) ^^^ 0x1021 else c * 2

/-- CRC-16 with polynomial 0x1021, most significant bit first (R225). -/
def crc16 : List Byte → Nat → Nat
  | [], c => c
  | b :: bs, c => crc16 bs (crcStep (crcStep (crcStep (crcStep (crcStep (crcStep (crcStep (crcStep (c ^^^ b.toNat * 256)))))))))

/-- The CRC of a block: 20 data bytes and the exponent byte of each word (R225). -/
def bilCrc (ws : List (BitVec 167)) : Nat :=
  crc16 ((ws.map (fun w => leBytes 20 (dataOf w) ++ [BitVec.ofNat 8 (trunc 6 (expOf w))])).flatten) 0xFFFF

/-- The block exponent. -/
def bilExp (ws : List (BitVec 167)) : Int := (ws.map expOf).foldl max (-32)

/-- The samples of a block: mantissa and exponent. -/
def bilSamples (ws : List (BitVec 167)) : List (Int × Int) := (ws.map (fun w => (mants w).map (fun m => (m, expOf w)))).flatten

/-- Every sample fits in `b` bits after a shift by `s`. -/
def bilFits (rnd b s : Nat) (a : List Int) : Bool := a.all (fun x => !(satTo b (rndShift rnd x 1 (-(s : Int)))).2)

/-- The shift of a block. -/
def bilShift (rnd b : Nat) (a : List Int) : Nat := ((List.range (11 - b)).find? (fun s => bilFits rnd b s a)).getD (10 - b)

/-- The error of a sample exceeds the bound (R226): d decoded mantissa, m and e of the source, E the block's exponent. -/
def bilOver (ebound : Nat) (E d : Int) (x : Int × Int) : Bool :=
  let sh := x.2 - E + 2
  if 0 ≤ sh then decide (ebound < (4 * d - x.1 * (2 ^ sh.toNat : Nat)).natAbs)
  else decide (ebound * 2 ^ (-sh).toNat < (4 * d * (2 ^ (-sh).toNat : Nat) - x.1).natAbs)

/-- Coded samples packed from bit 0 of the payload (R224). -/
def bilPack (b : Nat) : List Int → Nat
  | [] => 0
  | q :: qs => trunc b q + 2 ^ b * bilPack b qs

/-- Encode a block (R223, R224, R226): the billet and whether it is over its bound. -/
def bilEncode (ratio rnd ebound : Nat) (ws : List (BitVec 167)) : List Byte × Bool :=
  let b := bilBits ratio
  let E := bilExp ws
  let xs := bilSamples ws
  let a := xs.map (fun x => rndShift rnd x.1 1 (x.2 - E))
  let sft := bilShift rnd b a
  let q := a.map (fun y => (satTo b (rndShift rnd y 1 (-(sft : Int)))).1)
  let ovf := (List.zip q xs).any (fun p => bilOver ebound E (p.1 * (2 ^ sft : Nat)) p.2)
  let hdr := trunc 6 E + sft * 64 + 2 ^ 13 * ovf.toNat + 2 ^ 14 * ratio
  let pay := leBytes (8 * b) (bilPack b q)
  (leBytes 2 hdr ++ pay ++ List.replicate (bilCrcAt ratio - 2 - 8 * b) 0#8 ++ leBytes 2 (bilCrc ws), ovf)

/-- Word `j` of a decoded billet. -/
def bilWord (b sft : Nat) (E : Int) (pay j : Nat) : BitVec 167 :=
  mkWord (packLanes (lanes.map (fun i => sext b (pay >>> (b * (16 * j + i))) * (2 ^ sft : Nat)))) E 0

/-- Decode a billet (R227): none when its header fails; else the four words and whether the CRC matches. -/
def bilDecode (ratio : Nat) (bs : List Byte) : Option (List (BitVec 167) × Bool) :=
  let b := bilBits ratio
  let h := le bs 0 2
  let sft := slice h 8 6
  if slice h 15 14 ≠ ratio ∨ slice h 12 9 ≠ 0 ∨ 10 - b < sft then none
  else
    let ws := [0, 1, 2, 3].map (bilWord b sft (sext 6 h) (le bs 2 (8 * b)))
    some (ws, bilCrc ws == le bs (bilCrcAt ratio) 2)

/-! ### Jobs (R228, R229) -/

def bilJOB : Nat := 1
def bilADDR : Nat := 2
def bilTILE : Nat := 3
def bilFORMAT : Nat := 4
def bilCRC : Nat := 5
def bilMEM : Nat := 6

/-- The fields of a job entry (Table 9.3). -/
def bilAddr (j : List Byte) : Nat := wdAddr j 0
def bilTile (j : List Byte) : Nat := wdf j 2 31 25
def bilWa (j : List Byte) : Nat := wdf j 2 24 12
def bilCount (j : List Byte) : Nat := wdf j 2 11 0
def bilRatio (j : List Byte) : Nat := wdf j 3 30 29
def bilRnd (j : List Byte) : Nat := wdf j 3 28 27

/-- The engine as a requester, in the DRAM service class of the job (Table 9.3). -/
def bilPort (j : List Byte) : Requester := accelPort 5 (wdf j 3 24 23)

/-- The check of a job: its code, 0 when it passes. -/
def bilCheck (s : State) (j : List Byte) : Nat :=
  if wdf j 1 31 16 ≠ 0 ∨ wdf j 3 22 10 ≠ 0 ∨ wd j 4 ≠ 0 ∨ wd j 5 ≠ 0 ∨ wdf j 6 27 24 ≠ 0 ∨ wdf j 7 31 12 ≠ 0 ∨
    bilRatio j = 3 ∨ bilCount j = 0 ∨ 2048 < bilCount j ∨ 95 < bilTile j then bilJOB
  else if bilAddr j % 2 ≠ 0 ∨ !inMem s (bilAddr j) (bilCount j * bilBytes (bilRatio j)) ∨ 8191 < bilWa j + 4 * bilCount j - 1 then
    bilADDR
  else 0

/-- Rings the engine may take a job from, in order. -/
def bilRings (s : State) : List RingRef :=
  ((after 16 s.bil.last.val).filter (fun r => !s.bil.jobs.any (fun j => j.ring.val == r))).map (fun r => .bil (Fin.ofNat 16 r))

/-- Take the next job of ring `r`. -/
def bilFetch (s : State) (r : Fin 16) : State :=
  let i := ringNext s (.bil r)
  let o := ringEntry s (.bil r) i
  let j := sramGet s o 32
  let c := bilCheck s j
  let job : BilJob := ⟨r, i % ringSize s (.bil r), o, j, 0, 0, 0, if c = 0 then none else some c⟩
  setRingNext { s with bil := ⟨s.bil.jobs ++ [job], r⟩ } (.bil r) (i + 1)

/-- BIL_JOB_FETCH (R228). -/
def execBilJobFetch (s : State) : Host.Outcome State Fault Refusal :=
  live s (if rdb s Reg.BIL_CTRL 0 && !gateAsked s 83 && !frozen s && decide (s.bil.jobs.length < 4) then
    match bestRing s (bilRings s) with
    | some (.bil r) => bilFetch s r
    | _ => s
  else s)

/-- The job held for ring `r`. -/
def bilJob (s : State) (r : Fin 16) : Option BilJob := s.bil.jobs.find? (fun j => j.ring == r)

/-- Replace the job held for its ring. -/
def setBilJob (s : State) (j : BilJob) : State :=
  { s with bil := { s.bil with jobs := s.bil.jobs.map (fun x => if x.ring = j.ring then j else x) } }

/-- Read four tile words (R230); none at an uncorrectable error. -/
def bilReadWords (t : Nat) : Nat → Nat → State → Option (List (BitVec 167)) × State
  | 0, _, s => (some [], s)
  | n + 1, a, s =>
    match tmRead s t a 3 with
    | (none, s) => (none, s)
    | (some w, s) =>
      match bilReadWords t n (a + 1) s with
      | (some ws, s) => (some (w :: ws), s)
      | (none, s) => (none, s)

/-- Write tile words. -/
def bilWriteWords (t : Nat) : List (BitVec 167) → Nat → State → State
  | [], _, s => s
  | w :: ws, a, s => bilWriteWords t ws (a + 1) (tmWrite s t a w)

/-- A job ends. -/
def bilEnd (s : State) (j : BilJob) (code : Nat) : State := setBilJob s { j with ended := some code }

/-- Encode the next block: the job with the block counted, or none when the job ends or its billet's write is not acknowledged. -/
def bilEncodeOne (j : BilJob) (s : State) : Option BilJob × State :=
  let t := bilTile j.entry
  if gated s (t / 2) then (none, bilEnd s j bilTILE)
  else match bilReadWords t 4 (bilWa j.entry + 4 * j.done) s with
    | (none, s) => (none, bilEnd s j bilMEM)
    | (some ws, s) =>
      let e := bilEncode (bilRatio j.entry) (bilRnd j.entry) (wdf j.entry 3 9 0) ws
      match memWrite s (bilPort j.entry) (bilAddr j.entry + j.done * bilBytes (bilRatio j.entry)) e.1 with
      | (false, s) => (none, setBilJob s j)
      | (true, s) =>
        let s := inc s Reg.BIL_BLOCKS
        (some { j with done := j.done + 1, ovf := j.ovf + e.2.toNat },
          if e.2 then orr (inc s Reg.BIL_OVER) Reg.BIL_INT_STAT 8 else s)

/-- Encode the blocks left, in ascending order; a billet whose write is not acknowledged leaves the job unfinished. -/
def bilEncodeRun : Nat → BilJob → State → State
  | 0, j, s => bilEnd s j 0
  | n + 1, j, s =>
    let r := bilEncodeOne j s
    match r.1 with
    | some j => bilEncodeRun n j r.2
    | none => r.2

/-- Decode the blocks left, in ascending order. -/
def bilDecodeRun : Nat → BilJob → State → State
  | 0, j, s => bilEnd s j 0
  | n + 1, j, s =>
    let t := bilTile j.entry
    let r := bilRatio j.entry
    if gated s (t / 2) then bilEnd s j bilTILE
    else match memRead s (bilPort j.entry) (bilAddr j.entry + j.done * bilBytes r) (bilBytes r) with
      | (none, s) => bilEnd s j bilMEM
      | (some bs, s) =>
        match bilDecode r bs with
        | none => bilEnd s j bilFORMAT
        | some (ws, good) =>
          let s := if good then s else inc s Reg.BIL_INEXACT
          let j := { j with inexact := j.inexact + (!good).toNat }
          if !good && (wd j.entry 3).testBit 26 then bilEnd s j bilCRC
          else bilDecodeRun n { j with done := j.done + 1 } (inc (bilWriteWords t ws (bilWa j.entry + 4 * j.done) s) Reg.BIL_BLOCKS)

/-- The engine works on the job of ring `r` whose op is `op`; a tile in a memory fill makes it wait its turn (R68). -/
def bilWork (s : State) (r : Fin 16) (op : Bool) : State :=
  match bilJob s r with
  | some j =>
    let t := bilTile j.entry
    if frozen s || j.ended.isSome || (wd j.entry 3).testBit 31 != op then s
    else if (tileAt s t).fill then
      if (tileAt s t).heldAcc.contains (.billet r) then s else modTile s t (fun x => { x with heldAcc := x.heldAcc ++ [.billet r] })
    else if op then bilDecodeRun (bilCount j.entry - j.done) j s else bilEncodeRun (bilCount j.entry - j.done) j s
  | none => s

/-- ENCODE (R223). -/
def execEncode (ring : Fin 16) (s : State) : Host.Outcome State Fault Refusal := live s (bilWork s ring false)

/-- DECODE (R227). -/
def execDecode (ring : Fin 16) (s : State) : Host.Outcome State Fault Refusal := live s (bilWork s ring true)

/-- Status words, consumer word and registers of a job that has ended (R228, R229). -/
def bilComplete (s : State) (j : BilJob) (code : Nat) : State :=
  let s := { s with bil := { s.bil with jobs := s.bil.jobs.filter (fun x => x.ring != j.ring) } }
  let s := sramPut s (j.off + 24) (wordBytes [j.done + 2 ^ 12 * j.ovf + 2 ^ 28 * code + 2 ^ 31, j.inexact])
  let s := advanceCons s (.bil j.ring)
  if code = 0 then (if (wd j.entry 3).testBit 25 then orr s Reg.BIL_INT_STAT 1 else s)
  else
    let s := orr (inc s Reg.BIL_JOB_ERRS) Reg.BIL_INT_STAT 2
    wr s Reg.BIL_LAST_ERR (BitVec.ofNat 32 (2 ^ 20 * j.ring + 2 ^ 16 * code + j.index % 1024))

/-- BIL_JOB_COMPLETE (R228). -/
def execBilJobComplete (ring : Fin 16) (s : State) : Host.Outcome State Fault Refusal :=
  live s (if frozen s then s
    else match bilJob s ring with
      | some j =>
        match j.ended with
        | some c => bilComplete s j c
        | none => s
      | none => s)

/-- In M10 the engine abandons the jobs it holds (R239). -/
def bilFreeze (s : State) : State := { s with bil := { s.bil with jobs := [] } }

/-- What a read of the BIL page register at `a` returns. -/
def bilPageRead (s : State) (a : Nat) : Word :=
  if a = Reg.BIL_STAT then BitVec.ofNat 32 ((frozen s).toNat * 2 + (s.bil.jobs != []).toNat) else rd s a

end Sys2Proof.Machine
end

