-- ==== Sys2Proof/Machine/TileFill.lean ====
section
/-! DEFINITION. The end of a tile's memory fill (R68): the accesses that came during it are served in order of arrival. -/

namespace Sys2Proof.Machine

/-- An access that waited for the fill of tile `n`. A billet job does all of its work on the tile at its turn. -/
def serveHeld (s : State) (n : Nat) (h : HeldAccess) : State :=
  match h with
  | .window who w v => windowAccess s who n w v
  | .dma c => if frozen s then s else dmaWord s n c
  | .billet r =>
    match bilJob s r with
    | some j => bilWork s r ((wd j.entry 3).testBit 31)
    | none => s

/-- The end of a memory fill: the held accesses are served in order of arrival, then a deferred run takes effect. The spec orders neither before the other; with run set first, R66 would discard the writes of instruction memory that wait. DESIGN CHOICE. The scrubber's interval, paused for the 512 tile cycles of the fill, ends as much later (R57). -/
def fillDone (s : State) (n : Nat) : State :=
  let held := (tileAt s n).heldAcc
  let run := (tileAt s n).fillRun
  let s := modTile s n (fun t => { t with fill := false, fillRun := false, heldAcc := [], scrubSince := t.scrubSince + 768 })
  let s := foldS (fun s h => serveHeld s n h) held s
  if run then tileRun s n else s

/-- MEM_FILL_DONE (R68). -/
def execMemFillDone (tile : Fin 96) (s : State) : Host.Outcome State Fault Refusal :=
  live s (if (tileAt s tile.val).fill && !rdb s (Reg.PWR_PGATE_STAT (tile.val / 64)) (tile.val / 2 % 32) then fillDone s tile.val else s)

end Sys2Proof.Machine
end

