-- ==== Sys2Proof/Machine/Power.lean ====
section
/-! DEFINITION. Modes, start-up, resets, clock and power gating, standby and wake (file 16), and the starting of application cores (R469 to R471). -/

namespace Sys2Proof.Machine

/-! ### Modes (R426 to R430) -/

/-- The router is turned off by the mode. -/
def dropFab (s : State) : State :=
  if fabHeld s && rdb s Reg.FAB_CTRL 0 then fabOff (wrb s Reg.FAB_CTRL 0 false) else s

/-- The controls the mode holds at 0 are cleared (R427). -/
def holdControls (s : State) : State :=
  let s := if trvHeld s && trvEnabled s then trvEnable s false else s
  let s := dropFab s
  if onestepHeld s then wrb s Reg.DTM_PTP_CFG 1 false else s

/-- The part enters mode `m`; leaving M3 changes what it offers its partners (R366, R368). -/
def enterMode (s : State) (m : Nat) : State :=
  let t := holdControls (modeChange s m)
  if mode s = 3 ∧ m ≠ 3 then readvertise t else t

/-- Table 16.2 has a software row from the current mode to `t`. -/
def modeLegal (s : State) (t : Nat) : Bool :=
  let org := rdf s Reg.PWR_MODE 11 8
  match mode s with
  | 3 => [4, 5, 6, 11].contains t
  | 11 => t == 3
  | 4 => [5, 6, 1].contains t
  | 5 => [4, 6, 8, 1].contains t
  | 6 => [4, 5, 8].contains t
  | 7 => [4, 5, 6].contains t || (t == 8 && (org == 5 || org == 6))
  | 8 => [5, 6, 1].contains t
  | _ => false

/-- The part holds no work that keeps it from M1 (R438). -/
def standbyIdle (s : State) : Bool :=
  (List.range 96).all (fun n => !tileRunning s n) && !rdb s Reg.TRV_CTRL 0 && s.sre.jobs == [] && s.bil.jobs == [] &&
  s.dfl.job == none && (List.range 8).all (fun c => !coreBusy s c) && !rdb s Reg.FAB_CTRL 0 && s.bmk.update == none

/-- A wake source is set up (R428). -/
def wakeSource (s : State) : Bool :=
  rdb s Reg.PWR_STBY_CFG 1 || (rdf s Reg.PKT_WAKE_CTRL 7 0 != 0 && rdf s Reg.PKT_WAKE_CTRL 9 8 != 0)

/-- A mode change is in progress: entry to M1. -/
def modeBusy (s : State) : Bool := rdb s Reg.PWR_MODE 16

/-- The code with which a request of mode `t` is refused, 0 when it is accepted (R428). -/
def modeRefusal (s : State) (t : Nat) : Nat :=
  if mode s = 10 then 5
  else if modeBusy s then 1
  else if !modeLegal s t then 2
  else if t = 1 && !standbyIdle s then 3
  else if t = 1 && !wakeSource s then 4
  else 0

/-- An accepted request of mode `t`. -/
def modeGo (s : State) (t : Nat) : State :=
  let m := mode s
  if t = 1 then wrb s Reg.PWR_MODE 16 true
  else if m = 7 ∧ t ≠ 8 then holdControls (wrf s Reg.PWR_MODE 11 8 t)
  else if t = 8 ∧ m ≠ 7 then enterMode (wrf s Reg.PWR_MODE 11 8 m) 8
  else enterMode s t

/-- A request of mode `t`, 1 to 15. -/
def modeRequest (s : State) (t : Nat) : State :=
  match modeRefusal s t with
  | 0 => modeGo s t
  | c => orr (wrf (wrb s Reg.PWR_MODE_REQ 7 true) Reg.PWR_MODE_REQ 11 8 c) Reg.PWR_INT_STAT 2

/-- A write of PWR_MODE_REQ. -/
def modeReqWrite (s : State) (v : Word) : State :=
  let s := plainWrite s Reg.PWR_MODE_REQ v
  if fld v 3 0 = 0 then s else modeRequest s (fld v 3 0)

/-- MODE_REQUEST (R428). -/
def execModeRequest (who : Who) (value : Word) (s : State) : Host.Outcome State Fault Refusal :=
  live s (swWrite s who Reg.PWR_MODE_REQ (fun s => modeReqWrite s value))

/-! ### Resets (R432 to R434) -/

/-- Benchmark after a power-on or full reset: flash and fuses are kept, and the newest 2 048 flash records are in the log (R405). -/
def bmkPowerOn (b : Bmk) : Bmk :=
  let log := b.flashLog.drop (b.flashLog.length - 2048)
  let seq := match log.getLast? with
    | some r => (r.seq.toNat + 1) % 65536
    | none => 0
  { Bmk.reset with flashLog := b.flashLog, rec0 := b.rec0, rec1 := b.rec1, cal := b.cal, slotA := b.slotA, slotB := b.slotB,
                   revoked := b.revoked, count := b.count, kek0 := b.kek0, log := log, seq := seq }

/-- The part after a power-on reset: everything but fuses and flash is reset; the pins and the model's own fields stay. -/
def powerOn (s : State) : State :=
  { State.reset with bmk := bmkPowerOn s.bmk, pwr := { Pwr.reset with irqLow := s.pwr.irqLow }, freeCtr := s.freeCtr, pulses := s.pulses, pending := s.pending }

/-- POWER_ON_RESET (R432). -/
def execPowerOnReset (s : State) : Host.Outcome State Fault Refusal := .next (powerOn s)

/-- An open update session is closed and its slot emptied (R415). -/
def updateDrop (s : State) : State :=
  match s.bmk.update with
  | some _ =>
    let s := { s with bmk := { s.bmk with update := none } }
    slotErase s (!(slotRec s).active)
  | none => s

/-- A full reset, with its bit of PWR_RST_CAUSE (R432). -/
def fullReset (s : State) (cause : Nat) : State :=
  let c := rd s Reg.PWR_RST_CAUSE
  wr (powerOn (updateDrop s)) Reg.PWR_RST_CAUSE (setBit c cause true)

/-- Registers that a warm reset keeps: those of the DMC, Datum, the mailbox page, CLK/PWR and ERR (Table 16.4). -/
def warmKeeps (a : Nat) : Bool :=
  let p := a / 2 ^ 24
  p == 0x1084 || p == 0x1087 || p == 0x108A || p == 0x108B || a / 2 ^ 12 == 0x1089000

/-- The DRAM controller with every rank in self-refresh: its queues completed, its check blocks written back, every bank refreshed (R242, R274, R433). What its ports hold ends with the blocks that sent it. -/
def ranksAsleep (s : State) : State :=
  let s := allBankRefresh (chkFlushAll (completeQueues s))
  { s with dmc := { s.dmc with held := [], selfRefresh := true } }

/-- The part with every block reset whose registers `keeps` does not name. -/
def resetBlocks (s : State) (keeps : Nat → Bool) : State :=
  { s with regs := s.regs.filter (fun e => keeps e.1), staged := s.staged.filter (fun e => keeps e.1),
           latches := s.latches.filter (fun e => keeps e.1), sram := [], l2 := [], tiles := [], pipes := [], trv := Trv.reset, jq := Jq.reset, ringNext := [],
           ringSince := [], sre := Sre.reset, bil := Bil.reset, dfl := Dfl.reset, cip := Cip.reset, pkt := Pkt.reset, fab := Fab.reset,
           pwr := { s.pwr with entry := [], wake := false }, resp := .idle }

/-- Cores 1 to 3 are no longer offline: their domains are clocked and powered. -/
def coresReset (s : State) : State :=
  let s := wrf (wrf s (Reg.CLK_GATE 2) 15 13 0) (Reg.CLK_GATE_STAT 2) 15 13 0
  wrf (wrf s (Reg.PWR_PGATE 1) 18 16 0) (Reg.PWR_PGATE_STAT 1) 18 16 0

/-- A warm reset proper. -/
def warmGo (s : State) : State :=
  let s := wrb (coresReset (resetBlocks (ranksAsleep s) warmKeeps)) Reg.PWR_MODE 16 false
  enterMode { s with bmk := { s.bmk with select := s.bmk.running.isNone, recovery := false, trial := false, woken := false } } 2

/-- A warm reset with its cause; in M10 and with a frozen DRAM controller it acts as a full reset (R433). -/
def warmReset (s : State) (cause : Nat) : State :=
  if mode s = 10 || dmcFrozen s then fullReset s cause else warmGo (wrb s Reg.PWR_RST_CAUSE cause true)

/-- A write of PWR_RST (R434). -/
def pwrRstWrite (s : State) (v : Word) : State :=
  if fld v 31 16 != 0xC1A5 then s
  else if v.getLsbD 1 then fullReset s 3
  else if v.getLsbD 0 then warmReset s 5
  else s

/-- FULL_RESET (R432, R434): a write of PWR_RST with full = 1. -/
def execFullReset (who : Who) (value : Word) (s : State) : Host.Outcome State Fault Refusal :=
  live s (swWrite s who Reg.PWR_RST (fun s => pwrRstWrite s (value ||| 2)))

/-- WARM_RESET (R433): a write of PWR_RST with warm = 1, or WARM_N held low (no writer); the pin acts outside M0 and M1. -/
def execWarmReset (who : Option Who) (value : Word) (s : State) : Host.Outcome State Fault Refusal :=
  liveBmk s (match who with
    | some w => swWrite s w Reg.PWR_RST (fun s => pwrRstWrite s (value ||| 1))
    | none => warmReset s 4)

/-! ### Application cores (R469 to R471) -/

/-- BMK_CORE_ENTRY. -/
def coreEntry (s : State) : Addr := BitVec.ofNat 48 (rd2 s Reg.BMK_CORE_ENTRY_LO Reg.BMK_CORE_ENTRY_HI)

/-- Core `c` starts at address `a`, powered and clocked. -/
def coreStart (s : State) (c : Nat) (a : Addr) : State :=
  let s := wrb (wrb s Reg.BMK_CORE_STAT (4 + c) false) Reg.BMK_CORE_STAT c true
  let s := wrb (wrb s (Reg.CLK_GATE 2) (12 + c) false) (Reg.CLK_GATE_STAT 2) (12 + c) false
  { s with pwr := { s.pwr with entry := SMap.put 0 s.pwr.entry c a } }

/-- Core `c` goes offline: its domain 76 + c gates. -/
def coreOffline (s : State) (c : Nat) : State :=
  let s := wrb (wrb s Reg.BMK_CORE_STAT c false) Reg.BMK_CORE_STAT (4 + c) true
  wrb (wrb s (Reg.CLK_GATE 2) (12 + c) true) (Reg.CLK_GATE_STAT 2) (12 + c) true

/-- Core `c` comes back: at once, or when the power that Benchmark removed has returned. -/
def coreBack (s : State) (c : Nat) : State :=
  if rdb s (Reg.PWR_PGATE_STAT 1) (15 + c) then wrb s (Reg.PWR_PGATE 1) (15 + c) false else coreStart s c (coreEntry s)

/-- The bits of BMK_CORE_CTRL written `v` for core `c`: offline wins over release. -/
def coreCtrlBit (v : Word) (s : State) (c : Nat) : State :=
  let off := v.getLsbD (4 + c)
  let was := rdb s Reg.BMK_CORE_CTRL (4 + c)
  let s := wrb s Reg.BMK_CORE_CTRL (4 + c) off
  if off then (if was then s else coreOffline s c)
  else if was then coreBack s c
  else if v.getLsbD c && !rdb s Reg.BMK_CORE_STAT c && !rdb s Reg.BMK_CORE_STAT (4 + c) then coreStart s c (coreEntry s)
  else s

/-- A write of BMK_CORE_CTRL. -/
def coreCtrlWrite (s : State) (v : Word) : State := foldS (coreCtrlBit v) [1, 2, 3] s

/-- CORE_RELEASE (R470). -/
def execCoreRelease (who : Who) (core : Fin 4) (value : Word) (s : State) : Host.Outcome State Fault Refusal :=
  live s (swWrite s who Reg.BMK_CORE_CTRL (fun s => coreCtrlWrite s (setBit value core.val true)))

/-- CORE_OFFLINE (R471). -/
def execCoreOffline (who : Who) (value : Word) (s : State) : Host.Outcome State Fault Refusal :=
  live s (swWrite s who Reg.BMK_CORE_CTRL (fun s => coreCtrlWrite s value))

/-! ### Boot (R431, R469) -/

/-- The two words of a seed. -/
def seedWord (x : BitVec 64) (j : Nat) : Word := BitVec.ofNat 32 (x.toNat >>> (32 * j))

/-- Benchmark seeds both random sources (R264, R294). -/
def seedAll (s : State) (d c : BitVec 64) : State :=
  let s := dmcSeedWrite .bmk 1 (seedWord d 1) (dmcSeedWrite .bmk 0 (seedWord d 0) s)
  let s := rngSeedWrite (rngSeedWrite s .bmk (Reg.CIP_RNG_SEED 0) (seedWord c 0)) .bmk (Reg.CIP_RNG_SEED 1) (seedWord c 1)
  { s with bmk := { s.bmk with seedAt := s.mono.toNat } }

/-- Benchmark gates the channels that hold no DRAM (Table 16.6). -/
def gateChannels (s : State) : State :=
  let v := if dmcChans s = 2 then 0xC else 0
  wrf (wrf s (Reg.CLK_GATE 2) 3 0 v) (Reg.CLK_GATE_STAT 2) 3 0 v

/-- Initial training: each channel has the delay found from its seeds (R274). -/
def trainAll (s : State) : State :=
  foldS (fun s ch => setRetrain s ch { Retrain.reset with last := s.mono.toNat, delay := some (Config.trainedDelay ch s.dmc.trainSeeds) })
    (List.range (dmcChans s)) s

/-- The DRAM row of the boot: trained anew, with the attachment of the calibration set (R241), or out of self-refresh with what it held; after a wake it is retrained from its last settings (R440). -/
def bootDram (s : State) (train : Bool) (delays : List (Option Nat)) : State :=
  if train then dmcCtrlWrite 0x80000001 (trainAll (wr s Reg.DMC_CFG (((Config.attachment (calFlash s)).setWidth 32) &&& 0x1D)))
  else
    let t := { s with dmc := { s.dmc with selfRefresh := false } }
    if s.bmk.woken then retrainAll delays t else t

/-- KEK 0 is installed when its fuse is blown (R418). -/
def bootKek (s : State) : State :=
  match s.bmk.kek0 with
  | some k => wrb { s with cip := { s.cip with keks := SMap.put [] s.cip.keks 0 k } } Reg.CIP_KEK_VALID 0 true
  | none => s

/-- The handoff record (Table 18.4). -/
def handoffRecord (s : State) (load entry : Addr) (len : Nat) : List Byte :=
  let r := leBytes 4 0x4F485A46 ++ leBytes 4 1 ++ leBytes 4 (rd s Reg.PWR_RST_CAUSE).toNat ++ leBytes 4 (bootStat s).toNat ++
    leBytes 8 Config.serial.toNat ++ leBytes 4 (rd s Reg.DMC_INSTALLED).toNat ++ leBytes 4 (hdrVersion s.bmk.header) ++
    leBytes 8 load.toNat ++ leBytes 4 len ++ leBytes 8 entry.toNat
  r ++ List.replicate (256 - r.length) 0

/-- Memories of every tile that has power are filled (R68). -/
def bootFills (s : State) : State :=
  foldS (fun s n => if (tileAt s n).fill && !rdb s (Reg.PWR_PGATE_STAT (n / 64)) (n / 2 % 32) then fillDone s n else s) (List.range 96) s

/-- The last row of Table 16.3: handoff and M3. -/
def bootHandoff (s : State) (load entry : Addr) (image : List Byte) : State :=
  let s := memWrite_ s bmkPort load.toNat image
  let s := bootKek (bootFills s)
  let s := sramPut s 0x7FFF00 (handoffRecord s load entry image.length)
  let s := coreStart s 0 entry
  enterMode { s with bmk := { s.bmk with handoff := s.mono.toNat, woken := false } } 3

/-- Recovery holds every block but Benchmark and the always-on domain in reset (R413). -/
def holdInReset (s : State) : State :=
  let s := resetBlocks s (fun a => a / 2 ^ 24 == 0x108A || a / 2 ^ 12 == 0x1089000)
  { s with dmc := Dmc.reset, err := Err.reset, dtm := { Dtm.reset with m0 := s.mono.toNat } }

/-- The boot runs to its end (Table 16.3): slot, attestation keys, calibration set, seeds, DRAM, handoff; in recovery the part stays in M2. -/
def bootRun (s : State) (delays : List (Option Nat)) (dseed cseed : BitVec 64) (load entry : Addr) (image : List Byte) : State :=
  let s := wrb s Reg.CLK_STAT 0 true
  let s := match s.bmk.select, s.bmk.running with
    | false, some b => reverify s b
    | _, _ => selectSlot s
  let s := bootKeys s
  if s.bmk.recovery then holdInReset s
  else
    let train := !rdb s Reg.DMC_CTRL 0
    let s := seedAll (calLoad s train) dseed cseed
    bootHandoff (gateChannels (bootDram s train delays)) load entry image

/-- BOOT_COMPLETE (R431). -/
def execBootComplete (delays : List (Option Nat)) (dmcSeed cipSeed : BitVec 64) (load entry : Addr) (image : List Byte) (s : State) :
    Host.Outcome State Fault Refusal :=
  live s (if mode s = 2 && !s.bmk.recovery then bootRun s delays dmcSeed cipSeed load entry image else s)

/-! ### Standby and wake (R438 to R440, R323) -/

/-- Registers that M1 keeps: Datum, Benchmark's mailbox, CLK/PWR and ERR, the wake page, port 0 when it is watched, and the DRAM controller when DRAM is kept. -/
def standbyKeeps (port0 dram : Bool) (a : Nat) : Bool :=
  let p := a / 2 ^ 24
  p == 0x1087 || p == 0x108A || p == 0x108B || a / 2 ^ 12 == 0x1089000 || a / 2 ^ 12 == 0x1086031 ||
  (port0 && a / 2 ^ 12 == 0x1086001) || (dram && p == 0x1084)

/-- The part enters M1 (R439). -/
def standbyEnter (s : State) : State :=
  let keep := rdb s Reg.PWR_STBY_CFG 0
  let w := s.pwr.wake
  let s := ranksAsleep (logFlush s)
  let s := coresReset (resetBlocks s (standbyKeeps (rdb s Reg.PKT_WAKE_CTRL 9) keep))
  let s := if keep then s else { s with dram := [], dmc := Dmc.reset }
  let s := { s with pwr := { s.pwr with wake := w } }
  enterMode (wrb s Reg.PWR_MODE 16 false) 1

/-- STANDBY_ENTRY (R439). -/
def execStandbyEntry (s : State) : Host.Outcome State Fault Refusal := live s (if modeBusy s then standbyEnter s else s)

/-- Pattern byte `j` and mask bit `j` of wake pattern `p`. -/
def wakePat (s : State) (p j : Nat) : Byte := BitVec.ofNat 8 ((rd s (Reg.PKT_WAKE_PAT p (j / 4))).toNat >>> (8 * (j % 4)))
def wakeMask (s : State) (p j : Nat) : Bool := rdb s (Reg.PKT_WAKE_PAT p (32 + j / 32)) (j % 32)

/-- The frame matches pattern `p`. -/
def wakeHit (s : State) (frame : List Byte) (p : Nat) : Bool :=
  rdb s Reg.PKT_WAKE_CTRL p &&
  (List.range 128).all (fun j => !wakeMask s p j || (decide (j < frame.length) && frame.getD j 0 == wakePat s p j))

/-- The detector watches the port: port 0 in mode 1 or 2, or the management port. -/
def wakeWatched (s : State) (port0 : Bool) : Bool :=
  if port0 then rdb s Reg.PKT_WAKE_CTRL 9 && [1, 2].contains (rdf s (Reg.ETH_CTRL 0) 2 0) else rdb s Reg.PKT_WAKE_CTRL 8

/-- A frame reaches the wake detector. -/
def wakeFrame (s : State) (port0 : Bool) (frame : List Byte) (good : Bool) : State :=
  match (List.range 8).find? (wakeHit s frame) with
  | some p =>
    if good && wakeWatched s port0 && !s.pwr.wake then
      let s := wr s Reg.PKT_WAKE_STAT (BitVec.ofNat 32 (2 ^ 31 + (if port0 then 16 else 8) + p))
      { s with pwr := { s.pwr with wake := true } }
    else s
  | none => s

/-- The wake detector is at work: in M1 and during the entry to it (R440). -/
def wakeArmed (s : State) : Bool := mode s == 1 || modeBusy s

/-- WAKE_MATCH (R323). -/
def execWakeMatch (port0 : Bool) (frame : List Byte) (good : Bool) (s : State) : Host.Outcome State Fault Refusal :=
  liveAny s (if wakeArmed s then wakeFrame s port0 frame good else s)

/-- The part leaves M1 after `ref` REFCLK cycles in it (R329, R440). -/
def wakeGo (s : State) (ref : Nat) : State :=
  let s := { s with mono := s.mono + BitVec.ofNat 64 (50 * ref) }
  let s := orr (wrb s Reg.PWR_RST_CAUSE 6 true) Reg.PWR_INT_STAT 4
  enterMode { s with pwr := { s.pwr with wake := false }, bmk := { s.bmk with select := s.bmk.running.isNone, woken := true } } 2

/-- WAKE (R440): by the pin, when pin_wake is 1, or by a match; one that arrives during the entry is held. -/
def execWake (pin : Bool) (ref : Nat) (s : State) : Host.Outcome State Fault Refusal :=
  liveAny s (
    let p := pin && rdb s Reg.PWR_STBY_CFG 1
    if mode s = 1 then (if p || s.pwr.wake then wakeGo s ref else s)
    else if modeBusy s && p then { s with pwr := { s.pwr with wake := true } }
    else s)

/-! ### Clock and power gating (R435 to R437, R441) -/

/-- Bits of CLK_GATEj that software may write (Table 16.6): cores 1 to 3 only while offline. -/
def gateMask (s : State) (j : Nat) : Word :=
  match j with
  | 0 => 0xFFFFFFFF
  | 1 => 0xFFFFFFFF
  | 2 => 0x11F80FF0 ||| BitVec.ofNat 32 (2 ^ 13 * rdf s Reg.BMK_CORE_STAT 7 5)
  | _ => 2

/-- Pairs without power, as bits of CLK_GATEj: they stay gated. -/
def unpowered (s : State) (j : Nat) : Word :=
  match j with
  | 0 => rd s (Reg.PWR_PGATE_STAT 0)
  | 1 => rd s (Reg.PWR_PGATE_STAT 1) &&& 0xFFFF
  | _ => 0

/-- The scrubbers of pair `32j + k` restart their interval when bit `k` says that it is ungated (R57). -/
def pairOn (j : Nat) (on : Word) (s : State) (k : Nat) : State :=
  let p := 32 * j + k
  if on.getLsbD k && decide (p < 48) then scrubRestart (scrubRestart s (2 * p)) (2 * p + 1) else s

/-- A write of CLK_GATEj; the bits of the DRAM channels are Benchmark's. -/
def clkGateWrite (s : State) (who : Who) (j : Nat) (v : Word) : State :=
  let a := Reg.CLK_GATE j
  let old := rd s a
  let put (mask : Word) : State :=
    let new := (old &&& ~~~ mask) ||| (v &&& mask)
    let s := wr s a new
    let on := rd s (Reg.CLK_GATE_STAT j) &&& ~~~ (new ||| unpowered s j)
    let s := wr s (Reg.CLK_GATE_STAT j) (rd s (Reg.CLK_GATE_STAT j) &&& (new ||| unpowered s j))
    cipKick (foldS (pairOn j on) (List.range 32) s)
  match who with
  | .core _ => if j = 2 ∧ (v ^^^ old) &&& 0xF ≠ 0 then refuseAccess s srcClk who a true false else put (gateMask s j)
  | .bmk => put (if j = 2 then gateMask s j ||| 0xE00F else gateMask s j)

/-- CLOCK_GATE_WRITE (R436). -/
def execClockGateWrite (who : Who) (j : Fin 4) (value : Word) (s : State) : Host.Outcome State Fault Refusal :=
  live s (swWrite s who (Reg.CLK_GATE j.val) (fun s => clkGateWrite s who j.val value))

/-- Domain `d` holds no work, and any condition of Table 16.6 is met. -/
def domainIdle (s : State) (d : Nat) : Bool :=
  let still (n : Nat) : Bool := !tileRunning s n && dmaIdle (tileAt s n) 0 && dmaIdle (tileAt s n) 1
  if d < 48 then still (2 * d) && still (2 * d + 1)
  else if d < 64 then portExists s (d - 48) && rdf s (Reg.ETH_CTRL (d - 48)) 2 0 == 0
  else if d < 68 then decide (dmcChans s ≤ d - 64)
  else if d < 76 then !coreBusy s (d - 68) && !(coreOpen s (d - 68) && (s.cip.ingress != [] || s.cip.cmds.any (·.taken)))
  else if d = 83 then s.bil.jobs == []
  else if d = 84 then s.dfl.job == none
  else if 85 ≤ d ∧ d ≤ 88 then !s.sre.jobs.any (fun j => j.engine == d - 85)
  else if d = 92 then !rdb s Reg.FAB_CTRL 0
  else if 77 ≤ d ∧ d ≤ 79 then rdb s Reg.BMK_CORE_STAT (d - 72)
  else d == 97

/-- DOMAIN_GATED (R436). -/
def execDomainGated (domain : Fin 100) (s : State) : Host.Outcome State Fault Refusal :=
  let d := domain.val
  live s (if gateAsked s d && domainIdle s d then wrb s (Reg.CLK_GATE_STAT (d / 32)) (d % 32) true else s)

/-- Tile `n` loses its registers and memories. -/
def tileLost (s : State) (n : Nat) : State :=
  { s with tiles := SMap.put Tile.reset s.tiles n Tile.reset, pipes := SMap.put Pipe.reset s.pipes n Pipe.reset, regs := s.regs.filter (fun e => e.1 / 2 ^ 20 != 0x10400 + n) }

/-- The bits of PWR_PGATEj that a write of `v` leaves set: a pair only while its domain is gated, a core only while it is offline. -/
def pgateBits (s : State) (j : Nat) (v : Word) : Word :=
  if j = 0 then v &&& rd s (Reg.CLK_GATE_STAT 0)
  else (v &&& rd s (Reg.CLK_GATE_STAT 1) &&& 0xFFFF) ||| (v &&& BitVec.ofNat 32 (2 ^ 16 * rdf s Reg.BMK_CORE_STAT 7 5))

/-- The tiles of pair `32j + k` lose power when bit `k` is newly set. -/
def pgatePair (j : Nat) (new : Word) (s : State) (k : Nat) : State :=
  let p := 32 * j + k
  if new.getLsbD k && !rdb s (Reg.PWR_PGATE_STAT j) k then tileLost (tileLost s (2 * p)) (2 * p + 1) else s

/-- A write of PWR_PGATEj: power goes at once and returns with PAIR_POWER_UP_DONE; the core bits are Benchmark's. -/
def pgateWrite (s : State) (who : Who) (j : Nat) (v : Word) : State :=
  let a := Reg.PWR_PGATE j
  let put : State :=
    let new := pgateBits s j v
    let s := foldS (pgatePair j new) (List.range (if j = 0 then 32 else 16)) s
    orr (wr s a new) (Reg.PWR_PGATE_STAT j) new
  match who with
  | .core _ => if j = 1 ∧ (v ^^^ rd s a) &&& 0x70000 ≠ 0 then refuseAccess s srcPwr who a true false else put
  | .bmk => put

/-- POWER_GATE_WRITE (R437). -/
def execPowerGateWrite (who : Who) (j : Fin 2) (value : Word) (s : State) : Host.Outcome State Fault Refusal :=
  live s (swWrite s who (Reg.PWR_PGATE j.val) (fun s => pgateWrite s who j.val value))

/-- Power has returned to pair `p`: the fill starts; the domain stays gated until software ungates it. -/
def pairUp (s : State) (p : Nat) : State :=
  let s := wrb s (Reg.PWR_PGATE_STAT (p / 32)) (p % 32) false
  let s := startFill (startFill s (2 * p)) (2 * p + 1)
  if gateAsked s p then s else wrb s (Reg.CLK_GATE_STAT (p / 32)) (p % 32) false

/-- Power has returned to core `c`: it starts when it is no longer to be offline. -/
def coreUp (s : State) (c : Nat) : State :=
  let s := wrb s (Reg.PWR_PGATE_STAT 1) (15 + c) false
  if rdb s Reg.BMK_CORE_STAT (4 + c) && !rdb s Reg.BMK_CORE_CTRL (4 + c) then coreStart s c (coreEntry s) else s

/-- PAIR_POWER_UP_DONE (R437): units 0 to 47 are the pairs, 48 to 50 cores 1 to 3. -/
def execPairPowerUpDone (unit : Fin 51) (s : State) : Host.Outcome State Fault Refusal :=
  let u := unit.val
  live s (
    if u < 48 then (if rdb s (Reg.PWR_PGATE_STAT (u / 32)) (u % 32) && !rdb s (Reg.PWR_PGATE (u / 32)) (u % 32) then pairUp s u else s)
    else if rdb s (Reg.PWR_PGATE_STAT 1) (u - 32) && !rdb s (Reg.PWR_PGATE 1) (u - 32) then coreUp s (u - 47) else s)

end Sys2Proof.Machine
end

