-- ==== Sys2Proof/Machine/Bench.lean ====
section
/-! DEFINITION. What Benchmark does: sensors and thresholds (R401 to R403), the log's copies (R405, R406), seeds (R264, R294), the commands of Table 15.7 from the mailbox and the management port (R423, R424), and the trial's expiry (R412). -/

namespace Sys2Proof.Machine

/-! ### Sensors (R401, R402) -/

/-- The millisecond it is now. -/
def msNow (s : State) : Nat := s.mono.toNat / 1250000

/-- A write of BMK_THRi: the sample of this millisecond is judged against the old value. -/
def thrWrite (s : State) (i : Nat) (v : Word) : State :=
  let keep := match SMap.get none s.bmk.thrOld i with
    | some (k, o) => if k = msNow s then (k, o) else (msNow s, rd s (Reg.BMK_THR i))
    | none => (msNow s, rd s (Reg.BMK_THR i))
  let s := { s with bmk := { s.bmk with thrOld := SMap.put none s.bmk.thrOld i (some keep) } }
  wr s (Reg.BMK_THR i) v

/-- The threshold a sample taken now is judged against. -/
def thrInForce (s : State) (i : Nat) : Word :=
  match SMap.get none s.bmk.thrOld i with
  | some (k, o) => if k = msNow s then o else rd s (Reg.BMK_THR i)
  | none => rd s (Reg.BMK_THR i)

/-- Sensors 0 to 23 are temperatures: signed. -/
def sensorSigned (i : Nat) : Bool := decide (i < 24)

/-- The value of 16 bits in the sensor's sign. -/
def sensorVal (i x : Nat) : Int := if sensorSigned i then sext 16 x else (x % 65536 : Nat)

/-- A reading corrected by the sensor's calibration offset. -/
def corrected (s : State) (i : Nat) (raw : BitVec 16) : BitVec 16 :=
  let v := sensorVal i raw.toNat + sensorOffset s i
  let lo : Int := if sensorSigned i then -32768 else 0
  let hi : Int := if sensorSigned i then 32767 else 65535
  if lo ≤ v ∧ v ≤ hi then BitVec.ofInt 16 v else Config.sensorOver i s.freeCtr

/-- The above bit of sensor `i`, judged with threshold `t` on sample `v` (R402). -/
def aboveNext (i : Nat) (t : Word) (above : Bool) (v : Int) : Bool :=
  let hi : Int := if sensorSigned i then sext 15 (fld t 30 16) else (fld t 30 16 : Nat)
  let lo : Int := sensorVal i (fld t 15 0)
  t.getLsbD 31 && (if above then !decide (v ≤ lo) else decide (16 * hi ≤ v))

/-- Register and bit that hold the above bit. -/
def aboveReg (i : Nat) : Nat := if i < 32 then Reg.BMK_THR_STAT0 else Reg.BMK_THR_STAT1

/-- One sensor is sampled and judged. -/
def sampleOne (s : State) (x : BitVec 16 × Nat) : State :=
  let i := x.2
  let v := corrected s i x.1
  let s := wr (drawn s) (Reg.BMK_SENS i) (v.setWidth 32)
  let was := rdb s (aboveReg i) (i % 32)
  let now := aboveNext i (thrInForce s i) was (sensorVal i v.toNat)
  if was == now then s
  else
    let s := wrb s (aboveReg i) (i % 32) now
    orr (evBmk s evTHRESH (BitVec.ofNat 32 (2 ^ 31 * now.toNat + i))) Reg.BMK_INT_STAT 4

/-- The samples of a millisecond. -/
def sampleAll (s : State) (readings : List (BitVec 16)) : State :=
  let s := notBefore s ((s.bmk.sampleAt / 1250000 + 1) * 1250000)
  foldS sampleOne (readings.take 40).zipIdx { s with bmk := { s.bmk with sampleAt := s.mono.toNat } }

/-- SENSOR_SAMPLE (R401): the readings of sensors 0, 1, … in the next millisecond. -/
def execSensorSample (readings : List (BitVec 16)) (s : State) : Host.Outcome State Fault Refusal :=
  liveBmk s (sampleAll s readings)

/-- EXT_TEMP (R403): a reading, or none for a failed read. -/
def execExtTemp (reading : Option (BitVec 16)) (s : State) : Host.Outcome State Fault Refusal :=
  live s (if rdb s Reg.BMK_EXT_TEMP_CFG 31 then
      let s := notBefore s (s.bmk.extAt + 1250000000)
      let s := { s with bmk := { s.bmk with extAt := s.mono.toNat } }
      match reading with
      | some r => { s with dtm := { s.dtm with ext := r <<< rdf s Reg.BMK_EXT_TEMP_CFG 15 12 } }
      | none => orr (evBmk s evEXT (Config.eventArg evEXT 0)) Reg.BMK_INT_STAT 16
    else s)

/-! ### Once per second -/

/-- LOG_FLASH_COPY (R405). -/
def execLogFlashCopy (s : State) : Host.Outcome State Fault Refusal :=
  liveBmk s (
    let s := notBefore s (s.bmk.copyAt + 1250000000)
    logFlush { s with bmk := { s.bmk with copyAt := s.mono.toNat } })

/-- RNG_RESEED (R264, R294). -/
def execRngReseed (dmcSeed cipSeed : BitVec 64) (s : State) : Host.Outcome State Fault Refusal :=
  live s (if 3 ≤ mode s then seedAll s dmcSeed cipSeed else s)

/-! ### Commands (Table 15.7) -/

def mbBUSY : Nat := 1
def mbADDR : Nat := 2
def mbSTATE : Nat := 3
def mbLENGTH : Nat := 4
def mbSEQ : Nat := 5
def mbVERIFY : Nat := 6
def mbFLASH : Nat := 7
def mbMODE : Nat := 8
def mbFORMAT : Nat := 9
def mbKEK : Nat := 10
def mbUNWRAP : Nat := 11
def mbRANGE : Nat := 12
def mbSOURCE : Nat := 13

/-- The operations of Table 15.7. -/
def mbOps : List Nat := [0x01, 0x10, 0x20, 0x21, 0x22, 0x23, 0x24, 0x25, 0x30, 0x40, 0x41, 0x50, 0x51, 0x52]

/-- The operations that M9 and M10 serve (Table 16.1). -/
def mbOpsM9 : List Nat := [0x01, 0x10, 0x20, 0x21, 0x22, 0x23, 0x30]

/-- A trial is pending (R415). -/
def trialPending (s : State) : Bool := (slotRec s).pending && (s.bmk.trial || decide (0 < (slotRec s).tries))

/-- The slot an update writes: the one that is not active. -/
def updateSlot (s : State) : Bool := !(slotRec s).active

/-- The code with which a command is refused before it uses its buffer, 0 for none. -/
def mbCheck (s : State) (op a0 a1 : Nat) (mbox : Bool) : Nat :=
  let m := mode s
  if (m = 9 ∨ m = 10) ∧ !mbOpsM9.contains op then mbMODE
  else match op with
    | 0x20 => if s.bmk.update.isSome || trialPending s then mbSTATE else if slotSize < a0 then mbLENGTH else 0
    | 0x21 => match s.bmk.update with
      | none => mbSTATE
      | some u => if a0 ≠ u.next ∨ a1 = 0 ∨ 65536 < a1 ∨ u.len < a0 + a1 then mbSEQ else 0
    | 0x22 => if s.bmk.update.isNone then mbSTATE else 0
    | 0x23 => if s.bmk.update.isNone then mbSTATE else 0
    | 0x24 => if s.bmk.trial then 0 else mbSTATE
    | 0x25 => if s.bmk.running.isSome && hdrKey s.bmk.header == a0 % 2 then mbSTATE else 0
    | 0x41 => if m = 3 ∨ m = 11 then 0 else mbMODE
    | 0x50 => if m ≠ 3 ∨ !mbox then mbMODE else if s.bmk.kek0.isSome then mbSTATE else 0
    | 0x51 => if a0 % 16 = 0 then mbRANGE else if s.bmk.kek0.isNone then mbKEK else 0
    | 0x52 => if a0 % 16 = 0 then mbRANGE else 0
    | _ => 0

/-- Bytes a command takes from its buffer. -/
def mbIn (op a1 : Nat) : Nat :=
  match op with
  | 0x21 => a1
  | 0x30 => 32
  | 0x41 => 2048
  | 0x50 => 32
  | 0x51 => 40
  | _ => 0

/-- A record as 32 bytes (Table 15.3). -/
def recBytes (r : EvRec) : List Byte :=
  leBytes 8 r.mono.toNat ++ leBytes 4 r.nsec.toNat ++ leBytes 2 r.seq.toNat ++ [BitVec.ofNat 8 r.sev, BitVec.ofNat 8 r.src] ++
  leBytes 2 r.code.toNat ++ [0, 0] ++ leBytes 4 r.arg.toNat ++ leBytes 8 r.data.toNat

/-- The records that LOG_READ copies: from sequence `q`, oldest first, at most `n` (R406). -/
def logFrom (s : State) (q n : Nat) : List EvRec :=
  (s.bmk.log.filter (fun r => (r.seq - BitVec.ofNat 16 q).toNat < 32768)).take n

/-- The fields of the identity record and of the quote that depend on the state. -/
def slotFields (s : State) : List Byte :=
  let r := slotRec s
  leBytes 8 Config.serial.toNat ++ [0xA1, BitVec.ofNat 8 r.active.toNat, BitVec.ofNat 8 (r.pending.toNat + 2 * r.pendSlot.toNat)] ++
  leBytes 4 (hdrVersion s.bmk.header) ++ leBytes 4 (hdrSc s.bmk.header) ++ leBytes 1 s.bmk.count

/-- The public keys of the attestation key pairs. -/
def attestPublic (s : State) : List Byte :=
  match s.bmk.keys with
  | some k => k.edPub ++ k.mlPub
  | none => []

/-- The digests of both signing key records. -/
def keyDigests : List Byte := otpDigest 0 0 ++ otpDigest 0 1 ++ otpDigest 1 0 ++ otpDigest 1 1

/-- The identity record; it also names the version in each slot, the key-record digests and the attestation public keys. -/
def identity (s : State) : List Byte :=
  let f := slotFields s ++ leBytes 4 (hdrVersion (slotHeader s false)) ++ leBytes 4 (hdrVersion (slotHeader s true)) ++ keyDigests ++ attestPublic s
  (List.range 8192).map (Config.identityByte f)

/-- The body of the quote over a nonce (R417). -/
def quoteBody (s : State) (nonce : List Byte) : List Byte :=
  let f := slotFields s ++ sha512 s.bmk.header ++ sha512 s.bmk.calLoaded ++ leBytes 1 (mode s) ++ leBytes 8 s.mono.toNat ++ nonce
  (List.range 192).map (Config.quoteByte f)

/-- A body with its two signatures, under the attestation keys and 32 bytes of randomness. -/
def signed (k : AttestKeys) (rnd body : List Byte) : List Byte := body ++ edSign k.ed body ++ mldsaSign k.ml rnd body

/-- The quote over a nonce (R417): a draw gives the randomness of the ML-DSA-65 signature. -/
def quote (s : State) (nonce : List Byte) : List Byte × State :=
  (match s.bmk.keys with
    | some k => signed k ((List.range 32).map (Config.signRandom s.freeCtr)) (quoteBody s nonce)
    | none => [], drawn s)

/-- Bytes a command puts into its buffer. -/
def mbOut (s : State) (op a0 a1 : Nat) : Nat :=
  match op with
  | 0x01 => 8192
  | 0x10 => 32 * (logFrom s (a0 % 65536) a1).length
  | 0x30 => 3565
  | 0x40 => 2048
  | _ => 0

/-- A flash operation fails or not. -/
def flashTry (s : State) : Bool × State := (Config.flashFails s.freeCtr, drawn s)

/-- The session closes; from M9 the part returns to the mode it came from. -/
def updateClose (s : State) : State :=
  let s := { s with bmk := { s.bmk with update := none } }
  if mode s = 9 then enterMode s (rdf s Reg.PWR_MODE 15 12) else s

/-- UPDATE_BEGIN (R415). -/
def updateBegin (s : State) (len : Nat) : State :=
  let s := slotErase { s with bmk := { s.bmk with update := some ⟨len, 0⟩ } } (updateSlot s)
  let m := mode s
  if 4 ≤ m ∧ m ≤ 8 then enterMode (wrf s Reg.PWR_MODE 15 12 m) 9 else s

/-- UPDATE_DATA. -/
def updateData (s : State) (o : Nat) (bs : List Byte) : Nat × State :=
  let r := flashTry s
  if r.1 then (mbFLASH, r.2)
  else (0, slotProgram { r.2 with bmk := { r.2.bmk with update := s.bmk.update.map (fun u => { u with next := o + bs.length }) } } (updateSlot s) o bs)

/-- UPDATE_END: its code, the failed check, and the state. The slot state record is written and read back (R408). -/
def updateEnd (s : State) : Nat × Nat × State :=
  let b := updateSlot s
  let v := verify s b
  if v.1 ≠ 0 then (mbVERIFY, v.1, updateClose (slotErase v.2 b))
  else
    let r := flashTry v.2
    let x := slotRec s
    let w := writeRecBack r.2 (if s.bmk.recovery then { x with active := b, pending := false } else { x with pending := true, pendSlot := b, tries := 3 }) r.1
    if !w.1 then (mbFLASH, 0, updateClose (slotErase w.2 b))
    else if s.bmk.recovery then (0, 0, fullReset (updateClose w.2) 1)
    else (0, 0, updateClose w.2)

/-- BOOT_CONFIRM (R412). -/
def bootConfirm (s : State) : State :=
  let r := slotRec s
  let s := writeRec s { r with active := r.pendSlot, pending := false }
  { s with bmk := { s.bmk with trial := false, count := max s.bmk.count (min 64 (hdrSc s.bmk.header)) } }

/-- CAL_WRITE (R421). -/
def calWrite (s : State) (c : List Byte) : Nat × State :=
  if !calGood c then (mbFORMAT, s)
  else
    let r := flashTry s
    if r.1 then (mbFLASH, { r.2 with bmk := { r.2.bmk with cal := some (List.replicate 2048 0xFF) } })
    else (0, { r.2 with bmk := { r.2.bmk with cal := some c } })

/-- KEK_SET (R419). -/
def kekSet (s : State) (i : Nat) (blob : List Byte) : Nat × State :=
  match keyUnwrap (s.bmk.kek0.getD []) blob with
  | some k =>
    if k.length = 32 then (0, wrb { s with cip := { s.cip with keks := SMap.put [] s.cip.keks i k } } Reg.CIP_KEK_VALID i true)
    else (mbUNWRAP, s)
  | none => (mbUNWRAP, s)

/-- KEK_CLEAR (R419). -/
def kekClear (s : State) (i : Nat) : State :=
  wrb { s with cip := { s.cip with keks := SMap.put [] s.cip.keks i [] } } Reg.CIP_KEK_VALID i false

/-- A command that passed its checks, with the bytes of its buffer: code, RSP0, bytes put out, state. -/
def mbRun (s : State) (op a0 a1 : Nat) (inp : List Byte) : Nat × Nat × List Byte × State :=
  match op with
  | 0x01 => (0, 0xA1, identity s, s)
  | 0x10 =>
    let l := logFrom s (a0 % 65536) a1
    (0, l.length, (l.map recBytes).flatten, s)
  | 0x20 => (0, (updateSlot s).toNat, [], updateBegin s a0)
  | 0x21 =>
    let r := updateData s a0 inp
    (r.1, 0, [], r.2)
  | 0x22 =>
    let r := updateEnd s
    (r.1, r.2.1, [], r.2.2)
  | 0x23 => (0, 0, [], updateClose (slotErase s (updateSlot s)))
  | 0x24 =>
    let s := bootConfirm s
    (0, s.bmk.count, [], s)
  | 0x25 => (0, 0, [], { s with bmk := { s.bmk with revoked := s.bmk.revoked ||| BitVec.ofNat 2 (2 ^ (a0 % 2)) } })
  | 0x30 =>
    let q := quote s inp
    (0, 0, q.1, q.2)
  | 0x40 => (0, 0, calFlash s, s)
  | 0x41 =>
    let r := calWrite s inp
    (r.1, 0, [], r.2)
  | 0x50 => (0, 0, [], { s with bmk := { s.bmk with kek0 := some inp } })
  | 0x51 =>
    let r := kekSet s (a0 % 16) inp
    (r.1, 0, [], r.2)
  | 0x52 => (0, 0, [], kekClear s (a0 % 16))
  | _ => (0, 0, [], s)

/-! ### Commands one at a time (R423) -/

/-- The buffer of the mailbox. -/
def mbBuf (s : State) : Nat := rd2 s Reg.BMK_MB_BUF_LO Reg.BMK_MB_BUF_HI

/-- A buffer holds `n` bytes within installed DRAM (R423). -/
def mbPlaced (s : State) (buf n : Nat) : Bool := n == 0 || (buf % 64 == 0 && inDram s buf n)

/-- A mailbox command ends with a code. -/
def mbEnd (s : State) (code : Nat) : State :=
  let s := wrb (wrf s Reg.BMK_MB_STAT 3 0 code) Reg.BMK_MB_STAT 31 false
  if code = 0 then orr (wrb s Reg.BMK_MB_STAT 30 true) Reg.BMK_INT_STAT 1
  else orr (wrb s Reg.BMK_MB_STAT 29 true) Reg.BMK_INT_STAT 2

/-- A mailbox command runs with its input bytes: results to RSP0 and the buffer. -/
def mbGo (s : State) (j : MbJob) (inp : List Byte) : State :=
  let r := mbRun s j.op j.a0 j.a1 inp
  let w := memWrite r.2.2.2 bmkPort j.buf r.2.2.1
  if !w.1 then mbEnd w.2 mbADDR
  else
    let s := if r.1 = 0 ∨ r.1 = mbVERIFY then wr w.2 (Reg.BMK_MB_RSP 0) (BitVec.ofNat 32 r.2.1) else w.2
    mbEnd s r.1

/-- Benchmark runs a mailbox command. -/
def mbJobRun (s : State) (j : MbJob) : State :=
  match mbCheck s j.op j.a0 j.a1 true with
  | 0 =>
    if !mbPlaced s j.buf (mbIn j.op j.a1) || !mbPlaced s j.buf (mbOut s j.op j.a0 j.a1) then mbEnd s mbADDR
    else match memRead s bmkPort j.buf (mbIn j.op j.a1) with
      | (some d, s) => mbGo s j d
      | (none, s) => mbEnd s mbADDR
  | c => mbEnd s c

/-- The answer to a management-port frame. -/
def mgmtAnswer (s : State) (code rsp : Nat) (out : List Byte) : State :=
  { s with bmk := { s.bmk with replies := s.bmk.replies ++ [⟨code, BitVec.ofNat 32 rsp, out⟩] } }

/-- Benchmark runs the command of a management-port frame and answers it (R424). -/
def mgmtJobRun (s : State) (j : MbJob) : State :=
  match mbCheck s j.op j.a0 j.a1 false with
  | 0 =>
    if j.data.length < mbIn j.op j.a1 then mgmtAnswer s mbADDR 0 []
    else
      let r := mbRun s j.op j.a0 j.a1 (j.data.take (mbIn j.op j.a1))
      mgmtAnswer r.2.2.2 r.1 r.2.1 r.2.2.1
  | c => mgmtAnswer s c 0 []

/-- Benchmark serves commands: not during a boot, nor in M0 and M1. -/
def bmkServes (s : State) : Bool := decide (3 ≤ mode s) || (mode s == 2 && s.bmk.recovery)

/-- Benchmark runs at most `n` of the commands that wait, one after the other; a full reset ends them all. -/
def workN : Nat → State → State
  | 0, s => s
  | n + 1, s =>
    match s.bmk.work with
    | [] => s
    | j :: l =>
      let s := { s with bmk := { s.bmk with work := l } }
      workN n (if j.mbox then mbJobRun s j else mgmtJobRun s j)

/-- Benchmark runs the commands that wait. -/
def bmkWork (s : State) : State :=
  if bmkServes s && s.bmk.work != [] then workN s.bmk.work.length { s with bmk := { s.bmk with replies := [] } } else s

/-- A command takes its place: in order of arrival, a mailbox command before the frames of its cycle. -/
def jobInsert (j : MbJob) : List MbJob → List MbJob
  | [] => [j]
  | x :: xs => if j.mbox && !x.mbox && x.arrived == j.arrived then j :: x :: xs else x :: jobInsert j xs

/-- A command waits for Benchmark. -/
def jobAdd (s : State) (j : MbJob) : State := { s with bmk := { s.bmk with work := jobInsert j s.bmk.work } }

/-- A write of op to BMK_MB_CMD: it starts the command with the arguments as they stand, or finds the mailbox busy. DESIGN CHOICE: an op that Table 15.7 does not list does nothing. -/
def mbWrite (s : State) (op : Nat) : State :=
  if rdb s Reg.BMK_MB_STAT 31 then wrb (wrf s Reg.BMK_MB_STAT 3 0 mbBUSY) Reg.BMK_MB_STAT 29 true
  else if !mbOps.contains op then s
  else jobAdd (wrb s Reg.BMK_MB_STAT 31 true)
    { mbox := true, op := op, a0 := (rd s (Reg.BMK_MB_ARG 0)).toNat, a1 := (rd s (Reg.BMK_MB_ARG 1)).toNat, buf := mbBuf s, data := [], arrived := s.mono.toNat }

/-- Benchmark gets to the commands that wait within this row, or the last one is held and runs at the next tick or after the next command. -/
def bmkTurn (held : Bool) (s : State) : State := if held then s else bmkWork s

/-- A mailbox command as a row of the table. -/
def mbRow (s : State) (w : MbWriter) (op : Nat) : State := bmkTurn w.held (swWrite s w.who Reg.BMK_MB_CMD (fun s => mbWrite s op))

/-- IDENTITY (R423). -/
def execIdentity (who : MbWriter) (s : State) : Host.Outcome State Fault Refusal := live s (mbRow s who 0x01)
/-- LOG_READ (R406). -/
def execLogRead (who : MbWriter) (s : State) : Host.Outcome State Fault Refusal := live s (mbRow s who 0x10)
/-- UPDATE_BEGIN (R415). -/
def execUpdateBegin (who : MbWriter) (s : State) : Host.Outcome State Fault Refusal := live s (mbRow s who 0x20)
/-- UPDATE_DATA (R415). -/
def execUpdateData (who : MbWriter) (s : State) : Host.Outcome State Fault Refusal := live s (mbRow s who 0x21)
/-- UPDATE_END (R415). -/
def execUpdateEnd (who : MbWriter) (s : State) : Host.Outcome State Fault Refusal := live s (mbRow s who 0x22)
/-- UPDATE_ABORT (R415). -/
def execUpdateAbort (who : MbWriter) (s : State) : Host.Outcome State Fault Refusal := live s (mbRow s who 0x23)
/-- BOOT_CONFIRM (R412). -/
def execBootConfirm (who : MbWriter) (s : State) : Host.Outcome State Fault Refusal := live s (mbRow s who 0x24)
/-- KEY_REVOKE (R400). -/
def execKeyRevoke (who : MbWriter) (s : State) : Host.Outcome State Fault Refusal := live s (mbRow s who 0x25)
/-- ATTEST (R417). -/
def execAttest (who : MbWriter) (s : State) : Host.Outcome State Fault Refusal := live s (mbRow s who 0x30)
/-- CAL_READ (R421). -/
def execCalRead (who : MbWriter) (s : State) : Host.Outcome State Fault Refusal := live s (mbRow s who 0x40)
/-- CAL_WRITE (R421). -/
def execCalWrite (who : MbWriter) (s : State) : Host.Outcome State Fault Refusal := live s (mbRow s who 0x41)
/-- KEK0_FUSE (R418). -/
def execKek0Fuse (who : MbWriter) (s : State) : Host.Outcome State Fault Refusal := live s (mbRow s who 0x50)
/-- KEK_SET (R419). -/
def execKekSet (who : MbWriter) (s : State) : Host.Outcome State Fault Refusal := live s (mbRow s who 0x51)
/-- KEK_CLEAR (R419). -/
def execKekClear (who : MbWriter) (s : State) : Host.Outcome State Fault Refusal := live s (mbRow s who 0x52)

/-! ### The management port (R424) -/

/-- The operations the port serves now (Table 15.8); none while the boot has not reached M3 or recovery. -/
def mgmtOps (s : State) : Option (List Nat) :=
  let boot := [0x01, 0x30, 0x20, 0x21, 0x22, 0x23]
  if mode s = 2 then (if s.bmk.recovery then some boot else none)
  else if mode s = 3 then some boot
  else some (0x10 :: boot)

/-- A command frame arrives: it waits its turn, or is answered SOURCE. -/
def mgmtTake (s : State) (l : List Nat) (j : MbJob) : State :=
  if l.contains j.op then jobAdd s j else mgmtAnswer s mbSOURCE 0 []

/-- MGMT_COMMAND_FRAME (R424): a frame of EtherType 0x88B6 to the port's station address. DESIGN CHOICE: one that arrives while the port serves nothing, or with more than 1 024 bytes of data, is dropped. -/
def execMgmtCommandFrame (op : BitVec 8) (arg0 arg1 : Word) (frame : MgmtFrame) (s : State) : Host.Outcome State Fault Refusal :=
  liveBmk s (match mgmtOps s with
    | some l =>
      if 1024 < frame.data.length then s
      else bmkTurn frame.held (mgmtTake s l ⟨false, op.toNat, arg0.toNat, arg1.toNat, 0, frame.data, s.mono.toNat⟩)
    | none => s)

/-! ### Power loss during a write of the flash (R408, R422) -/

/-- The bytes that a running command programs. -/
def jobBytes (s : State) (j : MbJob) : List Byte :=
  if j.mbox then (memRead s bmkPort j.buf (mbIn j.op j.a1)).1.getD [] else j.data.take (mbIn j.op j.a1)

/-- The supplies went while Benchmark ran command `j`, `n` bytes into what it programs: the calibration set or the chunk stands in part, or the copy of the slot state record that was being written stands erased. -/
def jobTorn (n : Nat) (s : State) (j : MbJob) : State :=
  let d := jobBytes s j
  if mbCheck s j.op j.a0 j.a1 j.mbox ≠ 0 then s
  else if j.op = 0x41 then
    (if calGood d then { s with bmk := { s.bmk with cal := some (sub (d.take n ++ List.replicate 2048 0xFF) 0 2048) } } else s)
  else if j.op = 0x21 then slotProgram s (updateSlot s) j.a0 (d.take n)
  else if j.op = 0x22 ∨ j.op = 0x24 then recPut s SlotRec.erased
  else s

/-- The supplies went in the midst of a write of the flash: by the command that runs, or by the boot. -/
def flashTorn (n : Nat) (s : State) : State :=
  match s.bmk.work with
  | [] => if mode s = 2 ∧ s.bmk.select then recPut s SlotRec.erased else s
  | j :: _ => jobTorn n s j

/-- The flash as the supplies leave it: a draw says whether they go in the midst of a write, and how far into it. -/
def supplyFlash (s : State) : State :=
  match Config.torn s.freeCtr with
  | some n => flashTorn n (drawn s)
  | none => drawn s

/-- SUPPLY_REMOVED (R483): M0. -/
def execSupplyRemoved (s : State) : Host.Outcome State Fault Refusal :=
  .next { wrf (powerOn (supplyFlash s)) Reg.PWR_MODE 3 0 0 with void := s.void }

/-! ### The trial (R412) -/

/-- TRIAL_EXPIRY. -/
def execTrialExpiry (s : State) : Host.Outcome State Fault Refusal :=
  live s (if s.bmk.trial && decide (3 ≤ mode s) then
      fullReset (notBefore s (s.bmk.handoff + rdf s Reg.BMK_BOOT_CFG 7 0 * 75000000000)) 2
    else s)

/-! ### The mailbox page (R425) -/

/-- Sequence of the newest record, 0 before the first. -/
def logSeq (s : State) : Word :=
  match s.bmk.log.getLast? with
  | some r => r.seq.setWidth 32
  | none => 0

/-- What a read of the mailbox page register at `a` returns. -/
def bmkPageRead (s : State) (a : Nat) : Word :=
  if a = Reg.BMK_LOG_SEQ then logSeq s
  else if a = Reg.BMK_BOOT_STAT then bootStat s
  else rd s a

/-- A write of `v` to the mailbox page register at `a`. -/
def bmkPageWrite (s : State) (a : Nat) (v : Word) : State :=
  if a = Reg.BMK_MB_CMD then mbWrite s (fld v 7 0)
  else if a = Reg.BMK_BOOT_CFG then plainWrite s a (if fld v 7 0 = 0 then setFld v 7 0 1 else v)
  else if Reg.BMK_THR 0 ≤ a ∧ a ≤ Reg.BMK_THR 39 then thrWrite s ((a - Reg.BMK_THR 0) / 4) v
  else plainWrite s a v

end Sys2Proof.Machine
end

