-- ==== Sys2Proof/Machine/Clock.lean ====
section
/-! DEFINITION. A tick of the clock with no command waiting: the monotonic counter counts, a tick boundary of Traverse that it reaches is passed, every tile that can issue issues the bundle at its PC, and Benchmark runs the commands that wait for it. -/

namespace Sys2Proof.Machine

/-- A tile issues from its instruction memory if it can (R72), once the stall cycles of its last bundle have passed. -/
def tileClock (s : State) (n : Nat) : State :=
  if canIssue s n then
    if (pipeAt s n).owed = 0 then fetchIssue s n .run else modPipe s n (fun p => { p with owed := p.owed - 1 })
  else s

/-- The tiles' clock has an edge in 2 of 3 counts (833.33 MHz to 1.25 GHz, Table 16.5). -/
def tilesClock (s : State) : State := if s.mono.toNat % 3 = 0 then s else foldS tileClock (List.range 96) s

/-- Traverse passes the next tick boundary when the counter has reached it (R153). -/
def boundaryClock (s : State) : State :=
  if atBoundary s then tickBoundary s else s

/-- What the blocks do at a count; held in reset they do nothing (R413). -/
def blocksClock (s : State) : State := if s.bmk.recovery then s else tilesClock (boundaryClock s)

/-- One count of the monotonic counter (R328). -/
def clockTick (s : State) : State := bmkWork (blocksClock { s with mono := s.mono + 1 })

/-- What an idle step ends in. -/
def idle (s : State) : Host.Outcome State Fault Refusal := liveBmk s (clockTick s)

end Sys2Proof.Machine
end

