-- ==== Sys2Proof/Machine/ErrBlock.lean ====
section
/-! DEFINITION. The ERR block: the ordering, queueing and forwarding of error records (R442 to R449), the freeze (R450 to R453), and the device audit (R455, R456). -/

namespace Sys2Proof.Machine

/-! ### Records (R443, R447) -/

/-- Records of one cycle are taken in the order of src, location code, arg. -/
def recBefore (x y : ErrIn) : Bool :=
  decide (x.src < y.src) ||
  (x.src == y.src && (decide (x.loc < y.loc) || (x.loc == y.loc && decide (x.arg.toNat ≤ y.arg.toNat))))

/-- Put a record in its place. -/
def recInsert (x : ErrIn) : List ErrIn → List ErrIn
  | [] => [x]
  | y :: ys => if recBefore x y then x :: y :: ys else y :: recInsert x ys

/-- The records of a cycle in order. -/
def recSort (l : List ErrIn) : List ErrIn := l.foldr recInsert []

/-- Location code of a record: with the package while the part holds a valid fabric address. -/
def recLoc (s : State) (r : ErrIn) : Nat := if r.pkg then r.loc + 2 ^ 50 * package s else r.loc

/-- pv: the package field is a valid fabric address. -/
def recPv (s : State) (r : ErrIn) : Bool := r.pkg && rdb s Reg.FAB_STAT 31

/-- The six words of a record (Table 17.1). -/
def recWords (s : State) (r : ErrIn) : ErrRec :=
  { e0 := BitVec.ofNat 32 (2 ^ 28 * r.src + 2 ^ 26 * r.sev + 2 ^ 25 * (recPv s r).toNat + 2 ^ 24 + r.code)
    e1 := r.arg
    e2 := BitVec.ofNat 32 (recLoc s r)
    e3 := BitVec.ofNat 32 (recLoc s r >>> 32)
    e4 := BitVec.ofNat 32 s.mono.toNat
    e5 := BitVec.ofNat 32 (s.mono.toNat >>> 32) }

/-- Word `i` of a record. -/
def ErrRec.word (r : ErrRec) : Nat → Word
  | 0 => r.e0
  | 1 => r.e1
  | 2 => r.e2
  | 3 => r.e3
  | 4 => r.e4
  | _ => r.e5

/-- Only MEM_UNC and DMC_CMD freeze the part (Table 17.2). -/
def recFreezes (code : Nat) : Bool := code == 0x11 || code == 0x30

/-- The counter of a code, if it has one. -/
def recCounter (code : Nat) : Option Nat :=
  match code with
  | 0x10 => some Reg.ERR_CNT_CORR
  | 0x11 => some Reg.ERR_CNT_UNC
  | 0x20 => some Reg.ERR_CNT_FAULT
  | 0x01 => some Reg.ERR_CNT_ACCESS
  | _ => none

/-- Raise field `[hi:hi-1]` of ERR_STAT to `v` when that is higher. -/
def statRaise (s : State) (hi v : Nat) : State := wrf s Reg.ERR_STAT hi (hi - 1) (max v (rdf s Reg.ERR_STAT hi (hi - 1)))

/-- The queue takes a record, or discards it when 64 are queued (R446). -/
def recQueue (s : State) (r : ErrIn) : State :=
  if s.err.queue.length < 64 then
    orr { s with err := { s.err with queue := s.err.queue ++ [recWords s r] } } Reg.ERR_INT_STAT 1
  else orr (statRaise (inc s Reg.ERR_OVF) 5 r.sev) Reg.ERR_INT_STAT 4

/-- Level, FATAL and AUDIT interrupts and counters of an accepted record (R445). -/
def recCount (s : State) (r : ErrIn) : State :=
  let s := statRaise s 1 r.sev
  let s := if r.sev = 3 then orr s Reg.ERR_INT_STAT 2 else s
  let s := if r.code = 0x50 then orr s Reg.ERR_INT_STAT 8 else s
  match recCounter r.code with
  | some a => inc s a
  | none => s

/-! ### Freeze (R449 to R452) -/

/-- ERR_FIRST latches the first freezing record. -/
def errFirst (s : State) (w : ErrRec) : State :=
  if rdb s Reg.ERR_STAT 8 then s
  else foldS (fun s i => wr s (Reg.ERR_FIRST i) (w.word i)) (List.range 6) (wrb s Reg.ERR_STAT 8 true)

/-- The part can enter M10 from its mode: M3 to M9 and M11. -/
def canFreeze (s : State) : Bool := (decide (3 ≤ mode s) && decide (mode s ≤ 9)) || mode s == 11

/-- The part enters M10 FREEZE: every block applies its freeze rules and the log goes to flash. -/
def freezeAll (s : State) : State :=
  let s := wrb (wrb s Reg.ERR_STAT 7 true) Reg.PWR_MODE 16 false
  let s := enterMode s 10
  logFlush (dtmFreeze (dflFreeze (bilFreeze (sreFreeze (cipFreeze (if dmcFrozen s then s else dmcFreeze s))))))

/-- The ERR block accepts a record: level, counters, queue, event log, and the latch of the first freezing one. -/
def recAccept (s : State) (r : ErrIn) : State :=
  let w := recWords s r
  let s := recQueue (recCount s r) r
  let s := evLog s r.sev r.src (BitVec.ofNat 16 r.code) r.arg (BitVec.ofNat 64 (recLoc s r))
  if recFreezes r.code then errFirst s w else s

/-- The location code of a place, without the package (Table 1.4). -/
def placeLoc (p : MemPlace) (bit : Nat) : Nat :=
  match p with
  | .sram b w => locCode 4 0 0 b.val w.val bit
  | .l2 c b w => locCode 5 c.val 0 b.val w.val bit
  | .mgmt b w => locCode 7 0 0 b.val w.val bit

/-- The record of an error of another memory (R14, Table 17.2): the bit of an uncorrectable one is 255. -/
def memErrRec (m : MemErr) : ErrIn :=
  if m.unc then uncRec m.src.val 5 (placeLoc m.place 255) else corrRec m.src.val (placeLoc m.place m.bit.val)

/-- The ERR block takes the records of one cycle in order; the freeze that one of them asks for follows them all (Table 17.3). -/
def errTake (s : State) (l : List ErrIn) : State :=
  let t := foldS recAccept (recSort l) s
  if l.any (fun r => recFreezes r.code) && canFreeze t then freezeAll t else t

/-- The records that reach the ERR block in one cycle: the oldest `n` on their way, and those of other memories. -/
def errCycle (s : State) (n : Nat) (mem : List MemErr) : State :=
  errTake { s with err := { s.err with arrivals := s.err.arrivals.drop n } } (s.err.arrivals.take n ++ mem.map memErrRec)

/-- PLL_LOSS_OF_LOCK (R435): 0 the root PLL, 1 a SerDes PLL, 2 the DRAM PLL. The records on their way and that of the loss are taken, and R2 holds no longer. -/
def execPllLossOfLock (pll : Fin 3) (s : State) : Host.Outcome State Fault Refusal :=
  let t := wrb s Reg.CLK_STAT (1 + pll.val) true
  let r : ErrIn := { src := srcClk, sev := 3, code := 0x40, arg := BitVec.ofNat 32 (rdf t Reg.CLK_STAT 3 1), loc := 0, pkg := true }
  liveBmk s { errTake { t with err := { t.err with arrivals := [] } } (t.err.arrivals ++ [r]) with void := true }

/-- ERROR_RECORD (R447): also in M1, where the part only records (R450); in recovery the ERR block is held in reset (R413). -/
def execErrorRecord (n : Nat) (mem : List MemErr) (s : State) : Host.Outcome State Fault Refusal :=
  liveAny s (if mode s = 0 || s.bmk.recovery then s else errCycle s n mem)

/-- A read of ERR_REC0 pops the oldest record and latches its other words (R446). -/
def errPop (s : State) : State × Word :=
  match s.err.queue with
  | [] => (foldS (fun s i => wr s (Reg.ERR_REC i) 0) [1, 2, 3, 4, 5] s, 0)
  | r :: q =>
    (foldS (fun s i => wr s (Reg.ERR_REC i) (r.word i)) [1, 2, 3, 4, 5] { s with err := { s.err with queue := q } }, r.e0)

/-- RECORD_POP (R446). -/
def execRecordPop (who : Who) (s : State) : Host.Outcome State Fault Refusal := live s (swRead s who (Reg.ERR_REC 0) errPop)

/-! ### Audit (R455, R456) -/

/-- A device snapshot. -/
def errSnap (s : State) : State :=
  let t := fabSnap (pktSnap (jqSnap (trvSnap s)))
  { t with err := { t.err with auditDue := true } }

/-- ERR_AUDIT_SNAPSHOT (R456). -/
def execErrAuditSnapshot (who : Who) (s : State) : Host.Outcome State Fault Refusal := live s (swWrite s who Reg.ERR_AUD_SNAP errSnap)

/-- The identities of Table 17.4 on the latched values, each with its bit. -/
def auditIds (s : State) : List Bool :=
  let v (a : Nat) : Word := rd s a
  [v Reg.TRV_AUD_TOTAL == v Reg.TRV_AUD_FREE + v Reg.TRV_AUD_PORTED + v Reg.TRV_AUD_INFLIGHT,
   v Reg.JQ_AUD_PUSH + v Reg.JQ_AUD_REWOUND == v Reg.JQ_AUD_TAKE + v Reg.JQ_AUD_DISC + v Reg.JQ_AUD_HELD,
   v Reg.JQ_AUD_ALLOC + v Reg.JQ_AUD_UNALLOC == 1048576,
   v Reg.PKT_AUD_CELL_FREE + v Reg.PKT_AUD_CELL_HELD == 8192,
   v Reg.PKT_AUD_GFREE + v Reg.PKT_AUD_GALLOC - v Reg.PKT_AUD_GRET == BitVec.ofNat 32 (granCount s),
   v Reg.FAB_AUD_LIMIT == v Reg.FAB_AUD_AVAIL + v Reg.FAB_AUD_OUT,
   v Reg.FAB_AUD_OFFER == v Reg.FAB_AUD_RXFREE + v Reg.FAB_AUD_RXHELD]

/-- Bits of the identities that fail. -/
def auditFail : List Bool → Nat
  | [] => 0
  | ok :: l => (!ok).toNat + 2 * auditFail l

/-- The ERR block evaluates a snapshot. -/
def auditRun (s : State) : State :=
  let f := auditFail (auditIds s)
  let s := orr { s with err := { s.err with auditDue := false } } Reg.ERR_AUD_STAT (BitVec.ofNat 32 (256 + f))
  if f = 0 then s
  else raise s { src := srcErr, sev := 2, code := 0x50, arg := BitVec.ofNat 32 (rdf s Reg.ERR_AUD_STAT 6 0), loc := 0, pkg := true }

/-- AUDIT (R456). -/
def execAudit (s : State) : Host.Outcome State Fault Refusal := live s (if s.err.auditDue then auditRun s else s)

/-- What a read of the ERR page register at `a` returns. -/
def errPageRead (s : State) (a : Nat) : Word := if a = Reg.ERR_COUNT then BitVec.ofNat 32 s.err.queue.length else rd s a

/-- A write of `v` to the ERR page register at `a`. -/
def errPageWrite (s : State) (a : Nat) (v : Word) : State :=
  if a = Reg.ERR_AUD_SNAP then (if v.getLsbD 0 then errSnap s else s) else plainWrite s a v

end Sys2Proof.Machine
end

