-- ==== Sys2Proof/Machine/HostView.lean ====
section
/-! DEFINITION. Host doorbells (R467), the interrupt lines (R466), and excursions (R2). -/

namespace Sys2Proof.Machine

/-- HOST_DOORBELL_SET (R467): a write of TRV_HDB_SETj. -/
def execHostDoorbellSet (who : Who) (j : Fin 2) (value : Word) (s : State) : Host.Outcome State Fault Refusal :=
  live s (swWrite s who (Reg.TRV_HDB_SET j.val) (fun s => orr s (Reg.TRV_HDB_STAT j.val) value))

/-- IRQ_N_CHANGE (R466): the ball drives line 60. -/
def execIrqNChange (s : State) : Host.Outcome State Fault Refusal :=
  liveAny s { s with pwr := { s.pwr with irqLow := !s.pwr.irqLow } }

/-- EXCURSION (R2). -/
def execExcursion (s : State) : Host.Outcome State Fault Refusal := .next { s with void := true }

/-- A status bit of `st` is set whose enable bit in `en` is set. -/
def statEn (s : State) (st en : Nat) : Bool := rd s st &&& rd s en != 0

/-- INT_STAT and INT_EN of level lines 0 to 11 (Table 18.3). -/
def blockInts : List (Nat × Nat) :=
  [(Reg.TRV_INT_STAT, Reg.TRV_INT_EN), (Reg.JQ_INT_STAT, Reg.JQ_INT_EN), (Reg.SRE_INT_STAT, Reg.SRE_INT_EN),
   (Reg.BIL_INT_STAT, Reg.BIL_INT_EN), (Reg.DFL_INT_STAT, Reg.DFL_INT_EN), (Reg.DMC_INT_STAT, Reg.DMC_INT_EN),
   (Reg.DTM_INT_STAT, Reg.DTM_INT_EN), (Reg.FAB_INT_STAT, Reg.FAB_INT_EN), (Reg.BMK_INT_STAT, Reg.BMK_INT_EN),
   (Reg.PWR_INT_STAT, Reg.PWR_INT_EN), (Reg.ERR_INT_STAT, Reg.ERR_INT_EN), (Reg.PKT_INT_STAT, Reg.PKT_INT_EN)]

/-- Level line `l` is asserted (R466, Table 18.3). -/
def lineLevel (s : State) (l : Nat) : Bool :=
  if l < 12 then (match blockInts[l]? with
    | some (a, e) => statEn s a e
    | none => false)
  else if 50 ≤ l ∧ l < 58 then
    let j := (l - 50) / 4
    ((rd s (Reg.TRV_HDB_STAT j) &&& rd s (Reg.TRV_HDB_EN j)).toNat >>> (8 * ((l - 50) % 4))) % 256 != 0
  else if l = 58 then rdb s Reg.TRV_TEV_EN 0 && [0, 1, 2].any (fun j => rd s (Reg.TRV_TSTOP j) != 0)
  else if l = 59 then rdb s Reg.TRV_TEV_EN 1 && [0, 1, 2].any (fun j => rd s (Reg.TRV_TFAULT j) != 0)
  else if l = 60 then s.pwr.irqLow
  else if 64 ≤ l ∧ l < 128 then statEn s (Reg.CIP_U_INT_STAT (l - 64)) (Reg.CIP_U_INT_EN (l - 64))
  else false

end Sys2Proof.Machine
end

