-- ==== Sys2Proof/Machine/Access.lean ====
section
/-! DEFINITION. The address map as software sees it (R5 to R7, R458, R459): a 32-bit write and a 32-bit read of any address. -/

namespace Sys2Proof.Machine

/-! ### Values wider than 32 bits (R7) -/

/-- Low words of the wide values that software writes, with their arrays. -/
def wideWritable : List (Nat × List (Nat × Nat)) :=
  [(Reg.TILE_DMA_EXT_LO 0 0, [(96, 0x100000), (2, 0x20)]), (Reg.PKT_GRAN_BASE_LO, []), (Reg.PKT_GFL_BASE_LO, []), (Reg.PKT_FLOW_BASE_LO, []),
   (Reg.ETH_MAC_LO 0, [(16, 0x1000)]), (Reg.PKT_RXR_BASE_LO 0, [(16, 0x1000)]), (Reg.DTM_STEP_S_LO, []),
   (Reg.DTM_EVO_START_S_LO 0, [(4, 0x20)]), (Reg.FAB_MIG_WBASE_LO 0, [(16, 0x40)]), (Reg.BMK_MB_BUF_LO, []), (Reg.BMK_CORE_ENTRY_LO, [])]

/-- Low words of the wide values that software only reads. -/
def wideReadOnly : List (Nat × List (Nat × Nat)) :=
  [(Reg.JQ_LOST_TOTAL_LO, []), (Reg.DMC_ERR_LOC_LO, []), (Reg.DTM_MONO_LO, []), (Reg.DTM_STEP_PEND_LO, []), (Reg.DTM_SRV_LAST_LO, []),
   (Reg.ERR_REC 2, []), (Reg.ERR_REC 4, []), (Reg.FAB_SERIAL_LO, []), (Reg.FAB_LNK_W 0 1, [(64, 0x20)])]

/-- Does a list of wide values hold one whose low word is at `a`? -/
def wideLow (l : List (Nat × List (Nat × Nat))) (a : Nat) : Bool :=
  l.any (fun w => decide (w.1 ≤ a) && dimsMatch w.2 (a - w.1))

/-! ### Pages -/

/-- Page offset. -/
def off (a : Nat) : Nat := a % 4096

/-- Ring `i` of an array of ring registers that begins at page offset `b`, and which of its four registers `a` is. -/
def ringIx (b a : Nat) : Nat × Nat := ((off a - b) / 16, (off a - b) % 16)

/-- A write to a ring's register: CFG or BASE; the others are read-only. -/
def ringWrite (s : State) (who : Who) (r : RingRef) (k : Nat) (v : Word) : State :=
  match k with
  | 0 => ringCfgWrite s who r v
  | 4 => ringBaseWrite s r v
  | _ => s

/-- A write to the SRE page. -/
def srePageWrite (s : State) (who : Who) (a : Nat) (v : Word) : State :=
  if 0x100 ≤ off a then ringWrite s who (.sre (Fin.ofNat 16 (ringIx 0x100 a).1)) (ringIx 0x100 a).2 v
  else if a = Reg.SRE_CMD then sreCmdWrite s v
  else plainWrite s a v

/-- A write to the BIL page. -/
def bilPageWrite (s : State) (who : Who) (a : Nat) (v : Word) : State :=
  if 0x100 ≤ off a then ringWrite s who (.bil (Fin.ofNat 16 (ringIx 0x100 a).1)) (ringIx 0x100 a).2 v else plainWrite s a v

/-- A write to the DFL page. -/
def dflPageWrite (s : State) (who : Who) (a : Nat) (v : Word) : State :=
  if 0x100 ≤ off a then ringWrite s who (.dfl (Fin.ofNat 4 (ringIx 0x100 a).1)) (ringIx 0x100 a).2 v else plainWrite s a v

/-- A write to the DMC page. -/
def dmcPageWrite (s : State) (who : Who) (a : Nat) (v : Word) : State :=
  if a = Reg.DMC_CTRL then dmcCtrlWrite v s
  else if a = Reg.DMC_FREQ then freqWrite v s
  else if a = Reg.DMC_RNG_SEED 0 then dmcSeedWrite who 0 v s
  else if a = Reg.DMC_RNG_SEED 1 then dmcSeedWrite who 1 v s
  else dmcOtherWrite a v s

/-- A field written 0 stores 1. -/
def low1 (v : Word) (hi lo : Nat) : Word := if fld v hi lo = 0 then setFld v hi lo 1 else v

/-- A write to the PKT global page. -/
def pktGlobalWrite (s : State) (who : Who) (a : Nat) (v : Word) : State :=
  if 0x400 ≤ off a then ringWrite s who (.gret (Fin.ofNat 4 (ringIx 0x400 a).1)) (ringIx 0x400 a).2 v
  else match off a with
    | 0x000 => pktCtrlWrite s v
    | 0x040 => flowCmdWrite s v
    | 0x050 => plainWrite s a (low1 (low1 v 25 16) 9 0)
    | 0x0C0 => if v.getLsbD 0 then pktSnap s else s
    | 0x10C => fwdWrite s v
    | _ => plainWrite s a v

/-- A write to the page of port `n`: a port that does not exist takes none; mode is ignored while the link is up. -/
def ethPageWrite (s : State) (n a : Nat) (v : Word) : State :=
  if !portExists s n then s
  else if a = Reg.ETH_CTRL n ∧ linkUp s n then plainWrite s a (setFld v 2 0 (rdf s a 2 0))
  else plainWrite s a v

/-- A write to the page of receive ring `r`. -/
def rxrPageWrite (s : State) (r a : Nat) (v : Word) : State :=
  match off a with
  | 0x000 => if rdb s (Reg.PKT_RXR_CFG r) 8 then s else plainWrite s a v
  | 0x004 => if rdb s (Reg.PKT_RXR_CFG r) 8 then s else plainWrite s a v
  | 0x008 => plainWrite s a (setFld v 3 0 (max 4 (min 14 (fld v 3 0))))
  | _ => plainWrite s a v

/-- A write to the ETH/PKT space (Table 12.10). -/
def pktPageWrite (s : State) (who : Who) (a : Nat) (v : Word) : State :=
  let p := (a - 0x1086000000) / 4096
  if p = 0 then pktGlobalWrite s who a v
  else if p ≤ 16 then ethPageWrite s (p - 1) a v
  else if p ≤ 32 then rxrPageWrite s (p - 17) a v
  else if p ≤ 48 then ringWrite s who (.txr (Fin.ofNat 16 (p - 33))) (off a) v
  else plainWrite s a v

/-- A written domain of 15 stores 14 (Table 18.7). -/
def domStored (v : Word) (lo : Nat) : Word := if fld v (lo + 3) lo = 15 then setFld v (lo + 3) lo 14 else v

/-- A write to the host control page. -/
def hostPageWrite (s : State) (a : Nat) (v : Word) : State :=
  if a = Reg.BMK_CORE_CTRL then coreCtrlWrite s v
  else if a = Reg.BMK_CORE_DOM then plainWrite s a ([0, 4, 8, 12].foldl domStored v)
  else if a = Reg.BMK_OWN 91 then plainWrite s a (v &&& 0xFFFFFF)
  else plainWrite s a v

/-- A write to the CLK/PWR page. -/
def pwrPageWrite (s : State) (who : Who) (a : Nat) (v : Word) : State :=
  if a = Reg.PWR_MODE_REQ then modeReqWrite s v
  else if a = Reg.PWR_RST then pwrRstWrite s v
  else if Reg.CLK_GATE 0 ≤ a ∧ a ≤ Reg.CLK_GATE 3 then clkGateWrite s who ((a - Reg.CLK_GATE 0) / 4) v
  else if Reg.PWR_PGATE 0 ≤ a ∧ a ≤ Reg.PWR_PGATE 1 then pgateWrite s who ((a - Reg.PWR_PGATE 0) / 4) v
  else plainWrite s a v

/-- A write to the doorbell and tile-event page. -/
def dbPageWrite (s : State) (a : Nat) (v : Word) : State :=
  if a = Reg.TRV_HDB_SET 0 then orr s (Reg.TRV_HDB_STAT 0) v
  else if a = Reg.TRV_HDB_SET 1 then orr s (Reg.TRV_HDB_STAT 1) v
  else plainWrite s a v

/-- A write of `v` to the register at `a` takes effect. -/
def pageWrite (s : State) (who : Who) (a : Nat) (v : Word) : State :=
  if a < 0x1046000000 then tilePageWrite s ((a - 0x1040000000) / 2 ^ 20) a v
  else match a / 2 ^ 24 with
    | 0x1080 => if a / 4096 = 0x1080000 then trvPageWrite s a v else dbPageWrite s a v
    | 0x1081 => if a / 4096 = 0x1081000 then jqPageWrite s who a v else recordWrite s who ((a - 0x1081200000) / 32) (a % 32 / 4) v
    | 0x1082 => srePageWrite s who a v
    | 0x1083 => if a / 4096 = 0x1083000 then bilPageWrite s who a v else dflPageWrite s who a v
    | 0x1084 => dmcPageWrite s who a v
    | 0x1085 => if a = Reg.CIP_CTRL then cipKick (cipPageWrite s who a v) else cipPageWrite s who a v
    | 0x1086 => pktPageWrite s who a v
    | 0x1087 => dtmPageWrite s a v
    | 0x1088 => fabPageWrite s who a v
    | 0x1089 => if a / 4096 = 0x1089000 then bmkPageWrite s a v else hostPageWrite s a v
    | 0x108A => pwrPageWrite s who a v
    | _ => errPageWrite s a v

/-- A register write under R7: the lower word of a wide value waits, the highest word takes the value over. -/
def regWrite (s : State) (who : Who) (a : Nat) (v : Word) : State :=
  if wideLow wideWritable a then stage s a v
  else if wideLow wideWritable (a - 4) then
    let s := pageWrite s who (a - 4) (stagedOr s (a - 4) (rd s (a - 4)))
    pageWrite { s with staged := SMap.put none s.staged (a - 4) none } who a v
  else pageWrite s who a v

/-- What a read of the ETH/PKT space returns. -/
def pktPageRead (s : State) (a : Nat) : Word :=
  let p := (a - 0x1086000000) / 4096
  if a = Reg.PKT_STAT then BitVec.ofNat 32 ((frozen s).toNat * 4 + (mode s == 3).toNat * 2 + (dispBusy s).toNat)
  else if 1 ≤ p ∧ p ≤ 16 ∧ portExists s (p - 1) = false then 0
  else rd s a

/-- What a read of the register at `a` returns, its effects apart. -/
def pageRead (s : State) (a : Nat) : Word :=
  if a < 0x1046000000 then tilePageRead s ((a - 0x1040000000) / 2 ^ 20) a
  else match a / 2 ^ 24 with
    | 0x1080 => if a / 4096 = 0x1080000 then trvPageRead s a else rd s a
    | 0x1081 => if a / 4096 = 0x1081000 then jqPageRead s a else recordWord s ((a - 0x1081200000) / 32) (a % 32 / 4)
    | 0x1082 => srePageRead s a
    | 0x1084 => dmcPageRead s a
    | 0x1083 => if a / 4096 = 0x1083000 then bilPageRead s a else dflPageRead s a
    | 0x1085 => cipPageRead s a
    | 0x1086 => pktPageRead s a
    | 0x1087 => dtmPageRead s a
    | 0x1088 => fabPageRead s a
    | 0x1089 => if a / 4096 = 0x1089000 then bmkPageRead s a else rd s a
    | 0x108B => errPageRead s a
    | _ => rd s a

/-- A wide value's low word, read: its upper word is latched. -/
def wideLatch (s : State) (a : Nat) : State × Word :=
  ({ s with latches := SMap.put (0, []) s.latches a (a, [pageRead s (a + 4)]) }, pageRead s a)

/-- A wide value's upper word: the latched copy, or the current word before any low-word read. -/
def wideUpper (s : State) (a : Nat) : Word :=
  match SMap.get (0, []) s.latches (a - 4) with
  | (_, [w]) => w
  | _ => pageRead s a

/-- A register read: reads that pop or latch, wide values (R7), and plain ones. -/
def regRead (s : State) (a : Nat) : State × Word :=
  if a = Reg.DTM_NT_FRAC then ntReadLatch s
  else if a = Reg.JQ_EV_POP then eventPop s
  else if a = Reg.ERR_REC 0 then errPop s
  else if Reg.DTM_EVI_TS0 0 ≤ a ∧ a ≤ Reg.DTM_EVI_TS0 4 ∧ (a - Reg.DTM_EVI_TS0 0) % 32 = 0 then capturePop s ((a - Reg.DTM_EVI_TS0 0) / 32)
  else if 0x1081200000 ≤ a ∧ a < 0x1081400000 then recordRead s ((a - 0x1081200000) / 32) (a % 32 / 4)
  else if wideLow wideWritable a || wideLow wideReadOnly a then wideLatch s a
  else if wideLow wideWritable (a - 4) || wideLow wideReadOnly (a - 4) then (s, wideUpper s a)
  else (s, pageRead s a)

/-! ### The address map (R458, R459) -/

/-- The tile and the window word at `a`, if it is one (Table 2.9). -/
def windowAt (a : Nat) : Option (Nat × TileWord) :=
  if a < 0x1040000000 ∨ 0x1046000000 ≤ a then none
  else
    let o := a % 2 ^ 20
    let n := (a - 0x1040000000) / 2 ^ 20
    if o < 0x40000 then some (n, .data (Fin.ofNat 8192 (o / 32)) (Fin.ofNat 8 (o % 32 / 4)))
    else if 0x80000 ≤ o ∧ o < 0x88000 then some (n, .code (Fin.ofNat 2048 ((o - 0x80000) / 16)) (Fin.ofNat 4 (o % 16 / 4)))
    else none

/-- A register stands at `a`. -/
def isReg (a : Nat) : Bool := (regAt a).isSome

/-- `a` lies inside a range of Table 18.1 above shared SRAM, so that a block answers for it. -/
def inRangeOfMap (a : Nat) : Bool :=
  decide (0x1040000000 ≤ a ∧ a < 0x1046000000) || (unitOf a).isSome || a / 4096 == 0x1089001

/-- The block in whose name an access that finds nothing is logged; where none decodes it, the spec names none. -/
def srcOf (a : Nat) : Nat := if inRangeOfMap a then pageSrc a else Config.undecodedSrc.toNat

/-- The word of a scheduler entry at offset `o` of shared SRAM (R142). -/
def entryWordAt (s : State) (o : Nat) : Word := BitVec.ofNat 32 ((entryWords s ((o - 0x600000) / 16)).getD (o % 16 / 4) 0)

/-- A software read of a word of shared SRAM. -/
def sramSoftRead (s : State) (who : Who) (a : Nat) : State :=
  let o := a - sramBase
  if 0x6C0000 ≤ o then reply s (.word (BitVec.ofNat 32 (leNat (sramGet s o 4))))
  else if o < 0x400000 then reply s (.word (SMap.get 0 s.jq.slots (o / 4)))
  else if 0x600000 ≤ o ∧ o < 0x680000 then reply s (.word (entryWordAt s o))
  else refuseAccess s (sramSrc o) who a false false

/-- The requester can make an access: Benchmark, or a core that runs. -/
def whoRuns (s : State) : Who → Bool
  | .core c => coreRuns s c.val
  | .bmk => true

/-- The source of the record of an access of the wrong width or alignment. -/
def badSrc (a : Nat) : Nat := if sramBase ≤ a ∧ a < 0x1000800000 then sramSrc (a - sramBase) else srcOf a

/-- A 32-bit write by software; `aligned` is false for one of another width or alignment (R5). -/
def softWrite (s : State) (who : Who) (a : Nat) (v : Word) (aligned : Bool) : State :=
  if !whoRuns s who then s
  else if a < sramBase then memWrite_ s (whoPort who) a (leBytes 4 v.toNat)
  else if !aligned || a % 4 != 0 then refuseAccess s (badSrc a) who a true true
  else if a < 0x1000800000 then sramSoftWrite s who a v
  else match windowAt a with
    | some (n, w) => swWrite s who a (fun s => windowAccess s who n w (some v))
    | none => if isReg a then swWrite s who a (fun s => regWrite s who a v) else refuseAccess s (srcOf a) who a true false

/-- A 32-bit read by software. -/
def softRead (s : State) (who : Who) (a : Nat) (aligned : Bool) : State :=
  if !whoRuns s who then s
  else if a < sramBase then
    match memRead s (whoPort who) a 4 with
    | (some d, s) => reply s (.word (BitVec.ofNat 32 (leNat d)))
    | (none, s) => reply s .error
  else if !aligned || a % 4 != 0 then refuseAccess s (badSrc a) who a false true
  else if a < 0x1000800000 then sramSoftRead s who a
  else match windowAt a with
    | some (n, w) => swAccess s who a false (fun s => windowAccess s who n w none)
    | none => if isReg a then swRead s who a (fun s => regRead s a) else refuseAccess s (srcOf a) who a false false

/-- REGISTER_WRITE (R5): a software write to any address. -/
def execRegisterWrite (who : Who) (addr : Addr) (value : Word) (aligned : Bool) (s : State) : Host.Outcome State Fault Refusal :=
  live s (softWrite s who addr.toNat value aligned)

/-- WIDE_VALUE_LOW_READ (R7): a software read of any address; the low word of a wide value latches its upper words. -/
def execWideValueLowRead (who : Who) (addr : Addr) (aligned : Bool) (s : State) : Host.Outcome State Fault Refusal :=
  live s (softRead s who addr.toNat aligned)

end Sys2Proof.Machine
end

