-- ==== Sys2Proof/Machine/Dispatch.lean ====
section
/-! DEFINITION. The dispatch of every command to its meaning. -/

namespace Sys2Proof.Machine

def exec (i : Instr) (s : State) : Host.Outcome State Fault Refusal :=
  match i with
  | .registerWrite who addr value aligned => Sys2Proof.Machine.execRegisterWrite who addr value aligned s
  | .wideValueLowRead who addr aligned => Sys2Proof.Machine.execWideValueLowRead who addr aligned s
  | .tileReset who tile value => Sys2Proof.Machine.execTileReset who tile value s
  | .tileRun who tile value => Sys2Proof.Machine.execTileRun who tile value s
  | .tileStop who tile value => Sys2Proof.Machine.execTileStop who tile value s
  | .memInit who tile value => Sys2Proof.Machine.execMemInit who tile value s
  | .memFillDone tile => Sys2Proof.Machine.execMemFillDone tile s
  | .tileWindowRead who tile word => Sys2Proof.Machine.execTileWindowRead who tile word s
  | .tileWindowWrite who tile word value => Sys2Proof.Machine.execTileWindowWrite who tile word value s
  | .faultClear who tile value => Sys2Proof.Machine.execFaultClear who tile value s
  | .singleStep who tile value => Sys2Proof.Machine.execSingleStep who tile value s
  | .litBundle tile lit m x c => Sys2Proof.Machine.execLitBundle tile lit m x c s
  | .mac tile d a b p mod => Sys2Proof.Machine.execMac tile d a b p mod s
  | .macd tile d a b p mod => Sys2Proof.Machine.execMacd tile d a b p mod s
  | .cmac tile d a b p mod => Sys2Proof.Machine.execCmac tile d a b p mod s
  | .aadd tile d a b p mod => Sys2Proof.Machine.execAadd tile d a b p mod s
  | .mul tile d a b p mod => Sys2Proof.Machine.execMul tile d a b p mod s
  | .muld tile d a b p mod => Sys2Proof.Machine.execMuld tile d a b p mod s
  | .aclr tile d a b p mod => Sys2Proof.Machine.execAclr tile d a b p mod s
  | .ald tile d a b p mod => Sys2Proof.Machine.execAld tile d a b p mod s
  | .aldd tile d a b p mod => Sys2Proof.Machine.execAldd tile d a b p mod s
  | .aop tile d a b p mod => Sys2Proof.Machine.execAop tile d a b p mod s
  | .anrm tile d a b p mod => Sys2Proof.Machine.execAnrm tile d a b p mod s
  | .anrd tile d a b p mod => Sys2Proof.Machine.execAnrd tile d a b p mod s
  | .vadd tile d a b p mod => Sys2Proof.Machine.execVadd tile d a b p mod s
  | .vmax tile d a b p mod => Sys2Proof.Machine.execVmax tile d a b p mod s
  | .vabs tile d a b p mod => Sys2Proof.Machine.execVabs tile d a b p mod s
  | .vlog tile d a b p mod => Sys2Proof.Machine.execVlog tile d a b p mod s
  | .vrexp tile d a b p mod => Sys2Proof.Machine.execVrexp tile d a b p mod s
  | .vnorm tile d a b p mod => Sys2Proof.Machine.execVnorm tile d a b p mod s
  | .vscl tile d a b p mod => Sys2Proof.Machine.execVscl tile d a b p mod s
  | .vrcp tile d a b p mod => Sys2Proof.Machine.execVrcp tile d a b p mod s
  | .vcmp tile d a b p mod => Sys2Proof.Machine.execVcmp tile d a b p mod s
  | .plog tile d a b p mod => Sys2Proof.Machine.execPlog tile d a b p mod s
  | .pmovi tile d a imm => Sys2Proof.Machine.execPmovi tile d a imm s
  | .pmov tile d a b p mod => Sys2Proof.Machine.execPmov tile d a b p mod s
  | .vbcast tile d a b p mod => Sys2Proof.Machine.execVbcast tile d a b p mod s
  | .vrot tile d a b p mod => Sys2Proof.Machine.execVrot tile d a b p mod s
  | .vperm tile d a b p mod => Sys2Proof.Machine.execVperm tile d a b p mod s
  | .vsel tile d a b p mod => Sys2Proof.Machine.execVsel tile d a b p mod s
  | .vzip tile d a b p mod => Sys2Proof.Machine.execVzip tile d a b p mod s
  | .vuzp tile d a b p mod => Sys2Proof.Machine.execVuzp tile d a b p mod s
  | .vcswp tile d a b p mod => Sys2Proof.Machine.execVcswp tile d a b p mod s
  | .bfly tile d a b p mod => Sys2Proof.Machine.execBfly tile d a b p mod s
  | .cvti tile d a b p mod => Sys2Proof.Machine.execCvti tile d a b p mod s
  | .cvto tile d a b p mod => Sys2Proof.Machine.execCvto tile d a b p mod s
  | .salu tile d a b p mod => Sys2Proof.Machine.execSalu tile d a b p mod s
  | .saddi tile d a imm => Sys2Proof.Machine.execSaddi tile d a imm s
  | .sandi tile d a imm => Sys2Proof.Machine.execSandi tile d a imm s
  | .smovi tile d a imm => Sys2Proof.Machine.execSmovi tile d a imm s
  | .smovh tile d a imm => Sys2Proof.Machine.execSmovh tile d a imm s
  | .vext tile d a b p mod => Sys2Proof.Machine.execVext tile d a b p mod s
  | .vins tile d a b p mod => Sys2Proof.Machine.execVins tile d a b p mod s
  | .vgete tile d a b p mod => Sys2Proof.Machine.execVgete tile d a b p mod s
  | .satclr tile d a b p mod => Sys2Proof.Machine.execSatclr tile d a b p mod s
  | .satget tile d a b p mod => Sys2Proof.Machine.execSatget tile d a b p mod s
  | .vld tile v a inc => Sys2Proof.Machine.execVld tile v a inc s
  | .vst tile v a inc => Sys2Proof.Machine.execVst tile v a inc s
  | .vldo tile v a inc => Sys2Proof.Machine.execVldo tile v a inc s
  | .vsto tile v a inc => Sys2Proof.Machine.execVsto tile v a inc s
  | .vstp tile r a p imm x => Sys2Proof.Machine.execVstp tile r a p imm x s
  | .vldd tile r a p imm x => Sys2Proof.Machine.execVldd tile r a p imm x s
  | .vstd tile r a p imm x => Sys2Proof.Machine.execVstd tile r a p imm x s
  | .sld tile r a p imm x => Sys2Proof.Machine.execSld tile r a p imm x s
  | .sst tile r a p imm x => Sys2Proof.Machine.execSst tile r a p imm x s
  | .vldx tile r a p imm x => Sys2Proof.Machine.execVldx tile r a p imm x s
  | .vstx tile r a p imm x => Sys2Proof.Machine.execVstx tile r a p imm x s
  | .ainc tile r a p imm x => Sys2Proof.Machine.execAinc tile r a p imm x s
  | .amov tile r a p imm x => Sys2Proof.Machine.execAmov tile r a p imm x s
  | .aget tile r a p imm x => Sys2Proof.Machine.execAget tile r a p imm x s
  | .aset tile r a p imm x => Sys2Proof.Machine.execAset tile r a p imm x s
  | .dmaGo tile r a p imm x => Sys2Proof.Machine.execDmaGo tile r a p imm x s
  | .dmaStat tile r a p imm x => Sys2Proof.Machine.execDmaStat tile r a p imm x s
  | .dmaWait tile r a p imm x => Sys2Proof.Machine.execDmaWait tile r a p imm x s
  | .br tile f => Sys2Proof.Machine.execBr tile f s
  | .call tile f => Sys2Proof.Machine.execCall tile f s
  | .ret tile f => Sys2Proof.Machine.execRet tile f s
  | .loop tile f => Sys2Proof.Machine.execLoop tile f s
  | .halt tile f => Sys2Proof.Machine.execHalt tile f s
  | .bkpt tile f => Sys2Proof.Machine.execBkpt tile f s
  | .taskAsk tile f => Sys2Proof.Machine.execTaskAsk tile f s
  | .taskEnd tile f => Sys2Proof.Machine.execTaskEnd tile f s
  | .dbell tile f => Sys2Proof.Machine.execDbell tile f s
  | .qtake tile f => Sys2Proof.Machine.execQtake tile f s
  | .qpeek tile f => Sys2Proof.Machine.execQpeek tile f s
  | .qskip tile f => Sys2Proof.Machine.execQskip tile f s
  | .qmark tile f => Sys2Proof.Machine.execQmark tile f s
  | .rewind tile f => Sys2Proof.Machine.execRewind tile f s
  | .answerArrival tile => Sys2Proof.Machine.execAnswerArrival tile s
  | .requestWithdrawal tile => Sys2Proof.Machine.execRequestWithdrawal tile s
  | .tileDmaGo who tile chan value => Sys2Proof.Machine.execTileDmaGo who tile chan value s
  | .dmaTransferDone tile chan => Sys2Proof.Machine.execDmaTransferDone tile chan s
  | .dmaErrorStop tile chan => Sys2Proof.Machine.execDmaErrorStop tile chan s
  | .backgroundAged tile req bank readDenied => Sys2Proof.Machine.execBackgroundAged tile req bank readDenied s
  | .eccWriteback tile => Sys2Proof.Machine.execEccWriteback tile s
  | .tileScrubRead tile => Sys2Proof.Machine.execTileScrubRead tile s
  | .scrubCtrlWrite who tile value => Sys2Proof.Machine.execScrubCtrlWrite who tile value s
  | .tokenAddition sender => Sys2Proof.Machine.execTokenAddition sender s
  | .askArrival tile => Sys2Proof.Machine.execAskArrival tile s
  | .dispatch cluster => Sys2Proof.Machine.execDispatch cluster s
  | .nodeEnd tile => Sys2Proof.Machine.execNodeEnd tile s
  | .hostDoorbellArrival tile => Sys2Proof.Machine.execHostDoorbellArrival tile s
  | .tickBoundary => Sys2Proof.Machine.execTickBoundary s
  | .timerFiring cluster => Sys2Proof.Machine.execTimerFiring cluster s
  | .timerPlacement cluster => Sys2Proof.Machine.execTimerPlacement cluster s
  | .load who index => Sys2Proof.Machine.execLoad who index s
  | .loadComplete => Sys2Proof.Machine.execLoadComplete s
  | .unload who index => Sys2Proof.Machine.execUnload who index s
  | .cancelNode who index => Sys2Proof.Machine.execCancelNode who index s
  | .cancelGraph who index => Sys2Proof.Machine.execCancelGraph who index s
  | .addTok who index => Sys2Proof.Machine.execAddTok who index s
  | .arm who index => Sys2Proof.Machine.execArm who index s
  | .disarm who index => Sys2Proof.Machine.execDisarm who index s
  | .resume who index => Sys2Proof.Machine.execResume who index s
  | .release who index => Sys2Proof.Machine.execRelease who index s
  | .readEntry who index => Sys2Proof.Machine.execReadEntry who index s
  | .trvReservedOp who op index => Sys2Proof.Machine.execTrvReservedOp who op index s
  | .trvEnable who value => Sys2Proof.Machine.execTrvEnable who value s
  | .tickMultWrite who value => Sys2Proof.Machine.execTickMultWrite who value s
  | .trvAuditSnapshot who => Sys2Proof.Machine.execTrvAuditSnapshot who s
  | .queuePush => Sys2Proof.Machine.execQueuePush s
  | .disposal => Sys2Proof.Machine.execDisposal s
  | .queueRequest => Sys2Proof.Machine.execQueueRequest s
  | .parkedDelivery => Sys2Proof.Machine.execParkedDelivery s
  | .enable who queue => Sys2Proof.Machine.execEnable who queue s
  | .disable who queue => Sys2Proof.Machine.execDisable who queue s
  | .flush who queue => Sys2Proof.Machine.execFlush who queue s
  | .flushNow who queue => Sys2Proof.Machine.execFlushNow who queue s
  | .push who queue => Sys2Proof.Machine.execPush who queue s
  | .sync who queue => Sys2Proof.Machine.execSync who queue s
  | .clrcnt who queue => Sys2Proof.Machine.execClrcnt who queue s
  | .jqReservedOp who op queue => Sys2Proof.Machine.execJqReservedOp who op queue s
  | .eventPop who => Sys2Proof.Machine.execEventPop who s
  | .jqAuditSnapshot who => Sys2Proof.Machine.execJqAuditSnapshot who s
  | .queueRecordRead who queue => Sys2Proof.Machine.execQueueRecordRead who queue s
  | .ringEnable who ring value => Sys2Proof.Machine.execRingEnable who ring value s
  | .producerWordWrite who ring value => Sys2Proof.Machine.execProducerWordWrite who ring value s
  | .sreJobFetch engine => Sys2Proof.Machine.execSreJobFetch engine s
  | .sreJobStart engine => Sys2Proof.Machine.execSreJobStart engine s
  | .sreJobComplete engine => Sys2Proof.Machine.execSreJobComplete engine s
  | .loadCoef who => Sys2Proof.Machine.execLoadCoef who s
  | .loadCoefComplete => Sys2Proof.Machine.execLoadCoefComplete s
  | .bilJobFetch => Sys2Proof.Machine.execBilJobFetch s
  | .encode ring => Sys2Proof.Machine.execEncode ring s
  | .decode ring => Sys2Proof.Machine.execDecode ring s
  | .bilJobComplete ring => Sys2Proof.Machine.execBilJobComplete ring s
  | .dflJobFetch => Sys2Proof.Machine.execDflJobFetch s
  | .compress => Sys2Proof.Machine.execCompress s
  | .decompress => Sys2Proof.Machine.execDecompress s
  | .dflJobComplete => Sys2Proof.Machine.execDflJobComplete s
  | .dramRead port src cls addr => Sys2Proof.Machine.execDramRead port src cls addr s
  | .dramWrite port src cls addr data => Sys2Proof.Machine.execDramWrite port src cls addr data s
  | .dramCommandIssue ch ready => Sys2Proof.Machine.execDramCommandIssue ch ready s
  | .perBankRefresh ch rank bank postpone => Sys2Proof.Machine.execPerBankRefresh ch rank bank postpone s
  | .mr4Readout ch rank value => Sys2Proof.Machine.execMr4Readout ch rank value s
  | .retrainStart ch => Sys2Proof.Machine.execRetrainStart ch s
  | .retrainReadback ch delay => Sys2Proof.Machine.execRetrainReadback ch delay s
  | .freqRequest who value => Sys2Proof.Machine.execFreqRequest who value s
  | .freqChangeBegin => Sys2Proof.Machine.execFreqChangeBegin s
  | .freqChangeComplete => Sys2Proof.Machine.execFreqChangeComplete s
  | .dmcScrubRead ch => Sys2Proof.Machine.execDmcScrubRead ch s
  | .seedGroup ch => Sys2Proof.Machine.execSeedGroup ch s
  | .commandPathError kind ch port => Sys2Proof.Machine.execCommandPathError kind ch port s
  | .dmcEnable who value => Sys2Proof.Machine.execDmcEnable who value s
  | .dmcRngSeed who value => Sys2Proof.Machine.execDmcRngSeed who value s
  | .unwrap who page kek slot => Sys2Proof.Machine.execUnwrap who page kek slot s
  | .erase who page slot => Sys2Proof.Machine.execErase who page slot s
  | .exportKeys who page kek slot => Sys2Proof.Machine.execExportKeys who page kek slot s
  | .cipReservedOp who page op slot => Sys2Proof.Machine.execCipReservedOp who page op slot s
  | .cipherSchedule core => Sys2Proof.Machine.execCipherSchedule core s
  | .protect core => Sys2Proof.Machine.execProtect core s
  | .unprotect core => Sys2Proof.Machine.execUnprotect core s
  | .ingressUnprotect => Sys2Proof.Machine.execIngressUnprotect s
  | .cipherJobComplete src => Sys2Proof.Machine.execCipherJobComplete src s
  | .pageSlotsWrite who page value => Sys2Proof.Machine.execPageSlotsWrite who page value s
  | .cipRngSeed who value => Sys2Proof.Machine.execCipRngSeed who value s
  | .frameArrival port frame good raw => Sys2Proof.Machine.execFrameArrival port frame good raw s
  | .rtpReceive => Sys2Proof.Machine.execRtpReceive s
  | .ingressResult => Sys2Proof.Machine.execIngressResult s
  | .limiterRefill => Sys2Proof.Machine.execLimiterRefill s
  | .set who flow => Sys2Proof.Machine.execSet who flow s
  | .clear who flow => Sys2Proof.Machine.execClear who flow s
  | .get who flow => Sys2Proof.Machine.execGet who flow s
  | .fwdEntryWrite who value => Sys2Proof.Machine.execFwdEntryWrite who value s
  | .pktEnable who value => Sys2Proof.Machine.execPktEnable who value s
  | .granuleReturn ring => Sys2Proof.Machine.execGranuleReturn ring s
  | .txFetch ring => Sys2Proof.Machine.execTxFetch ring s
  | .gatePoll ring => Sys2Proof.Machine.execGatePoll ring s
  | .launchTimeReached port cls => Sys2Proof.Machine.execLaunchTimeReached port cls s
  | .frameTransmit port frac => Sys2Proof.Machine.execFrameTransmit port frac s
  | .txComplete port => Sys2Proof.Machine.execTxComplete port s
  | .txLinkTimeout port cls => Sys2Proof.Machine.execTxLinkTimeout port cls s
  | .linkChange port partner => Sys2Proof.Machine.execLinkChange port partner s
  | .wakeMatch port0 frame good => Sys2Proof.Machine.execWakeMatch port0 frame good s
  | .pktAuditSnapshot who => Sys2Proof.Machine.execPktAuditSnapshot who s
  | .ntReadLatch who => Sys2Proof.Machine.execNtReadLatch who s
  | .ffoWrite who value => Sys2Proof.Machine.execFfoWrite who value s
  | .slewWrite who value => Sys2Proof.Machine.execSlewWrite who value s
  | .slewEnd => Sys2Proof.Machine.execSlewEnd s
  | .stepGo who => Sys2Proof.Machine.execStepGo who s
  | .stepConfirm who => Sys2Proof.Machine.execStepConfirm who s
  | .stepCancel who => Sys2Proof.Machine.execStepCancel who s
  | .servoSourceWrite who value => Sys2Proof.Machine.execServoSourceWrite who value s
  | .servoMeasurement who lo hi => Sys2Proof.Machine.execServoMeasurement who lo hi s
  | .servoLossTimeout => Sys2Proof.Machine.execServoLossTimeout s
  | .eventOutArm who out value => Sys2Proof.Machine.execEventOutArm who out value s
  | .eventOutPulse out => Sys2Proof.Machine.execEventOutPulse out s
  | .eventOutPulseEnd out => Sys2Proof.Machine.execEventOutPulseEnd out s
  | .ppsOutPulse => Sys2Proof.Machine.execPpsOutPulse s
  | .eventInCapture inp rising => Sys2Proof.Machine.execEventInCapture inp rising s
  | .capturePop who inp => Sys2Proof.Machine.execCapturePop who inp s
  | .synceWindow offset => Sys2Proof.Machine.execSynceWindow offset s
  | .plumbSecond => Sys2Proof.Machine.execPlumbSecond s
  | .plumbAgeUpdate => Sys2Proof.Machine.execPlumbAgeUpdate s
  | .plumbEnsemble => Sys2Proof.Machine.execPlumbEnsemble s
  | .helloSend => Sys2Proof.Machine.execHelloSend s
  | .hello => Sys2Proof.Machine.execHello s
  | .linkTimeout link => Sys2Proof.Machine.execLinkTimeout link s
  | .fabricFrameSend link cls => Sys2Proof.Machine.execFabricFrameSend link cls s
  | .creditSend link => Sys2Proof.Machine.execCreditSend link s
  | .credit => Sys2Proof.Machine.execCredit s
  | .fabricFrameReceive => Sys2Proof.Machine.execFabricFrameReceive s
  | .creditWriteOff link cls => Sys2Proof.Machine.execCreditWriteOff link cls s
  | .transitTimeout link cls => Sys2Proof.Machine.execTransitTimeout link cls s
  | .areq own => Sys2Proof.Machine.execAreq own s
  | .agrant => Sys2Proof.Machine.execAgrant s
  | .areqPendingExpiry => Sys2Proof.Machine.execAreqPendingExpiry s
  | .tentativeTimeout => Sys2Proof.Machine.execTentativeTimeout s
  | .routeSend full => Sys2Proof.Machine.execRouteSend full s
  | .route => Sys2Proof.Machine.execRoute s
  | .nextHopExpiry addr link => Sys2Proof.Machine.execNextHopExpiry addr link s
  | .timeSend => Sys2Proof.Machine.execTimeSend s
  | .time => Sys2Proof.Machine.execTime s
  | .fabricTxEntry => Sys2Proof.Machine.execFabricTxEntry s
  | .sessionOpen who sess value => Sys2Proof.Machine.execSessionOpen who sess value s
  | .sessionClose who sess value => Sys2Proof.Machine.execSessionClose who sess value s
  | .segsend who sess => Sys2Proof.Machine.execSegsend who sess s
  | .qsend who sess => Sys2Proof.Machine.execQsend who sess s
  | .migd => Sys2Proof.Machine.execMigd s
  | .migq => Sys2Proof.Machine.execMigq s
  | .miga sess => Sys2Proof.Machine.execMiga sess s
  | .migc => Sys2Proof.Machine.execMigc s
  | .data => Sys2Proof.Machine.execData s
  | .migrationRetransmit sess => Sys2Proof.Machine.execMigrationRetransmit sess s
  | .rtSet who => Sys2Proof.Machine.execRtSet who s
  | .rtClear who => Sys2Proof.Machine.execRtClear who s
  | .rtRead who => Sys2Proof.Machine.execRtRead who s
  | .linkReset who link => Sys2Proof.Machine.execLinkReset who link s
  | .fabAuditSnapshot who => Sys2Proof.Machine.execFabAuditSnapshot who s
  | .sensorSample readings => Sys2Proof.Machine.execSensorSample readings s
  | .extTemp reading => Sys2Proof.Machine.execExtTemp reading s
  | .logFlashCopy => Sys2Proof.Machine.execLogFlashCopy s
  | .rngReseed dmcSeed cipSeed => Sys2Proof.Machine.execRngReseed dmcSeed cipSeed s
  | .identity who => Sys2Proof.Machine.execIdentity who s
  | .logRead who => Sys2Proof.Machine.execLogRead who s
  | .updateBegin who => Sys2Proof.Machine.execUpdateBegin who s
  | .updateData who => Sys2Proof.Machine.execUpdateData who s
  | .updateEnd who => Sys2Proof.Machine.execUpdateEnd who s
  | .updateAbort who => Sys2Proof.Machine.execUpdateAbort who s
  | .bootConfirm who => Sys2Proof.Machine.execBootConfirm who s
  | .keyRevoke who => Sys2Proof.Machine.execKeyRevoke who s
  | .attest who => Sys2Proof.Machine.execAttest who s
  | .calRead who => Sys2Proof.Machine.execCalRead who s
  | .calWrite who => Sys2Proof.Machine.execCalWrite who s
  | .kek0Fuse who => Sys2Proof.Machine.execKek0Fuse who s
  | .kekSet who => Sys2Proof.Machine.execKekSet who s
  | .kekClear who => Sys2Proof.Machine.execKekClear who s
  | .mgmtCommandFrame op arg0 arg1 frame => Sys2Proof.Machine.execMgmtCommandFrame op arg0 arg1 frame s
  | .trialExpiry => Sys2Proof.Machine.execTrialExpiry s
  | .powerOnReset => Sys2Proof.Machine.execPowerOnReset s
  | .bootComplete delays dmcSeed cipSeed load entry image => Sys2Proof.Machine.execBootComplete delays dmcSeed cipSeed load entry image s
  | .supplyRemoved => Sys2Proof.Machine.execSupplyRemoved s
  | .fullReset who value => Sys2Proof.Machine.execFullReset who value s
  | .warmReset who value => Sys2Proof.Machine.execWarmReset who value s
  | .modeRequest who value => Sys2Proof.Machine.execModeRequest who value s
  | .standbyEntry => Sys2Proof.Machine.execStandbyEntry s
  | .wake pin ref => Sys2Proof.Machine.execWake pin ref s
  | .clockGateWrite who j value => Sys2Proof.Machine.execClockGateWrite who j value s
  | .domainGated domain => Sys2Proof.Machine.execDomainGated domain s
  | .powerGateWrite who j value => Sys2Proof.Machine.execPowerGateWrite who j value s
  | .pllLossOfLock pll => Sys2Proof.Machine.execPllLossOfLock pll s
  | .errorRecord n mem => Sys2Proof.Machine.execErrorRecord n mem s
  | .recordPop who => Sys2Proof.Machine.execRecordPop who s
  | .errAuditSnapshot who => Sys2Proof.Machine.execErrAuditSnapshot who s
  | .audit => Sys2Proof.Machine.execAudit s
  | .hostDoorbellSet who j value => Sys2Proof.Machine.execHostDoorbellSet who j value s
  | .coreRelease who core value => Sys2Proof.Machine.execCoreRelease who core value s
  | .coreOffline who value => Sys2Proof.Machine.execCoreOffline who value s
  | .irqNChange => Sys2Proof.Machine.execIrqNChange s
  | .nop tile rest => Sys2Proof.Machine.execNop tile rest s
  | .illegal tile bundle => Sys2Proof.Machine.execIllegal tile bundle s
  | .memI tile => Sys2Proof.Machine.execMemI tile s
  | .pairPowerUpDone unit => Sys2Proof.Machine.execPairPowerUpDone unit s
  | .pauseExpiry port cls => Sys2Proof.Machine.execPauseExpiry port cls s
  | .excursion => Sys2Proof.Machine.execExcursion s

end Sys2Proof.Machine
end

