-- ==== Sys2Proof/Safety.lean ====
section
/-! DEFINITION. The terms the statements use: when a part works, when a tile can issue, when a register access passes, what a command leaves alone. -/

namespace Sys2Proof.Machine

/-- The part works within its limits (R2). -/
def Within (s : State) : Prop := s.void = false

/-- A step goes on to a next state. -/
def Goes (s : State) : Prop := ∃ t, step s = .next t

/-- The part has power, does not sleep, and works within its limits. -/
def Awake (s : State) : Prop := s.void = false ∧ asleep s = false

/-- Tile `n` of an awake part can issue a bundle (R68, R451). -/
def Ready (s : State) (n : Nat) : Prop := Awake s ∧ canIssue s n = true

/-- The register access of `who` at `a` is made and passes its checks (R462 to R464, R67). -/
def passes (s : State) (who : Who) (a : Nat) (write : Bool) : Bool :=
  match who with
  | .bmk => clocked s a
  | .core c => coreRuns s c.val && permitted s c.val a write

/-- The register access of `who` at `a` is made and is refused (R459, R463). -/
def refused (s : State) (who : Who) (a : Nat) (write : Bool) : Bool :=
  match who with
  | .bmk => !clocked s a
  | .core c => coreRuns s c.val && !permitted s c.val a write

/-- `t` differs from `s` in tile `n` and its pipeline alone. -/
def OnlyTile (s t : State) (n : Nat) : Prop :=
  { t with tiles := s.tiles, pipes := s.pipes } = s ∧ ∀ m, m ≠ n → tileAt t m = tileAt s m ∧ pipeAt t m = pipeAt s m

/-- Tile `n` after a bundle of one instruction without a branch, whose effect on the registers is `f` (of the rounding mode and the tile before the bundle): that effect, and the PC's advance (R36, R40). -/
def slotTile (s : State) (n : Nat) (f : Nat → Tile → Tile → Tile) : Tile :=
  let t := tileAt s n
  advanced t (f (rdf s (Reg.TILE_CTRL n) 11 10) t { t with wait := none, answer := none, late := none })

/-- `c` runs on tile `n` to a next state that differs from `s` in that tile alone, which has the effect `f` done and the PC advanced. -/
def SlotDone (c : Instr) (s : State) (n : Nat) (f : Nat → Tile → Tile → Tile) : Prop :=
  ∃ t, exec c s = .next t ∧ OnlyTile s t n ∧ tileAt t n = slotTile s n f

/-- `c` goes on to a next state of which `P` holds. -/
def Does (c : Instr) (s : State) (P : State → Prop) : Prop := ∃ t, exec c s = .next t ∧ P t

/-- The registers that are not listed hold in `t` what they hold in `s`. -/
def RegsBut (s t : State) (as : List Nat) : Prop := ∀ a, a ∉ as → rd t a = rd s a

/-- Data word `a` of tile `n` holds `w` without an error (R51, R52). -/
def Holds (s : State) (n a : Nat) (w : BitVec 167) : Prop :=
  eccDecode 167 8 (SMap.get 0 (tileAt s n).dmem a).toNat = .good w.toNat

/-- The tile with data word `a` stored as `x` with fresh ECC, its queued write-back cancelled (R53, R56). -/
def stored167 (t : Tile) (a : Nat) (x : BitVec 167) : Tile :=
  { t with dmem := SMap.put 0 t.dmem a (BitVec.ofNat 176 (eccEncode 167 8 x.toNat)),
           writeBacks := t.writeBacks.filter (fun w => w.imem || w.addr != a) }

/-- The tile with its bundle issued: it waits for nothing (R111). -/
def fresh (t : Tile) : Tile := { t with wait := none, answer := none, late := none }


/-- The tile sent to bundle `target` by a taken branch (R38, R115). -/
def branched (target : Nat) (t : Tile) : Tile := { loopLeave target t with pc := BitVec.ofNat 11 target }

/-- `c` runs on tile `n` to a next state that differs from `s` in that tile alone, which becomes `x`. -/
def TileDone (c : Instr) (s : State) (n : Nat) (x : Tile) : Prop := ∃ t, exec c s = .next t ∧ OnlyTile s t n ∧ tileAt t n = x

/-- Tile `n` stands still with the fault `code`, slots and info of its bundle, and Traverse is told (R132). -/
def Faulted (s : State) (n code slots info : Nat) (t : State) : Prop :=
  rdb t (Reg.TILE_CTRL n) 0 = false ∧ (tileAt t n).faulted = true ∧
  rd t (Reg.TILE_FAULT n) = BitVec.ofNat 32 (2 ^ 31 + 2 ^ 16 * (tileAt s n).pc.toNat + 2 ^ 8 * slots + code) ∧
  rd t (Reg.TILE_FAULT_INFO n) = BitVec.ofNat 32 info ∧
  rd t (Reg.TILE_FAULT_COUNT n) = rd s (Reg.TILE_FAULT_COUNT n) + 1 ∧
  rdb t (Reg.TRV_TFAULT (n / 32)) (n % 32) = true ∧ ∀ m, m ≠ n → tileAt t m = tileAt s m

/-- The word `old` with the lanes of `mask` taken from `x`; exponent and tag stay (R47, R105). -/
def laneMerge (mask : BitVec 16) (x old : BitVec 167) : BitVec 167 :=
  mkWord (packLanes (mergeLanes mask (mants x) (mants old))) (expOf old) (tagOf old)

/-- Both memories, shared SRAM and DRAM, are in canonical form. -/
def MemOk (s : State) : Prop := Memory.wf s.sram = true ∧ Memory.wf s.dram = true

end Sys2Proof.Machine
end

