-- ==== Sys2Proof/Certificates/Slice0/Obligations.lean ====
section
/-! DEFINITION. The statements for the provers. -/

open Sys2Proof Sys2Proof.Machine

/-! ### Tile instructions on registers (R80 to R101): each completes on every legal operand, with this effect on its tile and nothing else -/

/-- MAC, MACD, CMAC and AADD accumulate: each selected lane, cleared first when z (mod[5]) is set, takes its exact product or term, negated when neg (mod[7]) is set, shifted to the accumulator's exponent and added modulo 2^56 with ACCV set on a wrap (R30, R32, R82, R83). -/
def Obligations.AccumulateCompletes : Prop :=
  ∀ (s : State) (n : Fin 96) (d a b : BitVec 5) (p : BitVec 3) (mod : BitVec 8), Ready s n.val →
    let x : XArgs := ⟨d, a, b, p, mod⟩
    let lane (t : Tile) (m i : Nat) (q sh : Int) : Tile :=
      accAdd (if mod.getLsbD 5 then accClearLane t d.toNat i else t) d.toNat i (align m (if mod.getLsbD 7 then -q else q) sh)
    (d.toNat < 4 → mod.getLsbD 4 = false →
      SlotDone (.mac n d a b p mod) s n.val (fun m o t =>
        eachLane (getP o p.toNat) (fun t i => lane t m i
          (laneM (getV o a.toNat) i * laneM (getV o b.toNat) (if mod.getLsbD 6 then fld mod 3 0 else i))
          (expOf (getV o a.toNat) + expOf (getV o b.toNat) - 18 - getAcce o d.toNat)) lanes t)) ∧
    (d.toNat < 4 → a.toNat % 2 = 0 → b.toNat % 2 = 0 → modIn mod 0xA3 = true →
      SlotDone (.macd n d a b p mod) s n.val (fun m o t =>
        eachLane (getP o p.toNat) (fun t i => lane t m i (pairM o a.toNat i * pairM o b.toNat i)
          (expOf (getV o a.toNat) + expOf (getV o b.toNat) - 38 - getAcce o d.toNat)) (groupLanes (fld mod 1 0)) t)) ∧
    (d.toNat < 4 → modIn mod 0xA3 = true →
      SlotDone (.cmac n d a b p mod) s n.val (fun m o t =>
        eachLane (getP o p.toNat) (fun t i => lane t m i (cmacP x o i)
          (expOf (getV o a.toNat) + expOf (getV o b.toNat) - 18 - getAcce o d.toNat))
          (if mod.getLsbD 0 then [8, 9, 10, 11, 12, 13, 14, 15] else [0, 1, 2, 3, 4, 5, 6, 7]) t)) ∧
    (d.toNat < 4 → b = 0 → modIn mod 0x80 = true →
      SlotDone (.aadd n d a b p mod) s n.val (fun m o t =>
        eachLane (getP o p.toNat) (fun t i => accAdd t d.toNat i
          (align m (if mod.getLsbD 7 then -laneM (getV o a.toNat) i else laneM (getV o a.toNat) i)
            (expOf (getV o a.toNat) - 9 - getAcce o d.toNat))) lanes t))

/-- MUL and MULD write products, ANRM and ANRD read an accumulator through narrowing (R84, R85, R88). -/
def Obligations.ProductCompletes : Prop :=
  ∀ (s : State) (n : Fin 96) (d a b : BitVec 5) (p : BitVec 3) (mod : BitVec 8), Ready s n.val →
    (modIn mod 0xCF = true →
      SlotDone (.mul n d a b p mod) s n.val (fun m o t =>
        let e := expOf (getV o a.toNat) + expOf (getV o b.toNat)
        writeTenth t m d.toNat (getP o p.toNat) (if mod.getLsbD 7 then .norm else .fixed (clampInt (-32) 31 e))
          (lanes.map (fun i => (laneM (getV o a.toNat) i *
            laneM (getV o b.toNat) (if mod.getLsbD 6 then fld mod 3 0 else i), 1)))
          (e - 18) (tagOf (getV o a.toNat)))) ∧
    (d.toNat % 2 = 0 → a.toNat % 2 = 0 → b.toNat % 2 = 0 → modIn mod 3 = true →
      SlotDone (.muld n d a b p mod) s n.val (fun m o t =>
        writePair t m d.toNat (getP o p.toNat &&& groupMask (fld mod 1 0)) .norm
          (lanes.map (fun i => (pairM o a.toNat i * pairM o b.toNat i, 1)))
          (expOf (getV o a.toNat) + expOf (getV o b.toNat) - 38) 0)) ∧
    (a.toNat < 4 → b = 0 → mod.getLsbD 6 = false →
      SlotDone (.anrm n d a b p mod) s n.val (fun m o t =>
        writeTenth t m d.toNat (getP o p.toNat) (if mod.getLsbD 7 then .fixed (sext 6 mod.toNat) else .norm)
          (lanes.map (fun i => (getAcc o a.toNat i, 1))) (getAcce o a.toNat) 0)) ∧
    (d.toNat % 2 = 0 → a.toNat < 4 → b = 0 → mod.getLsbD 6 = false →
      SlotDone (.anrd n d a b p mod) s n.val (fun m o t =>
        writePair t m d.toNat (getP o p.toNat) (if mod.getLsbD 7 then .fixed (sext 6 mod.toNat) else .norm)
          (lanes.map (fun i => (getAcc o a.toNat i, 1))) (getAcce o a.toNat) 0))

/-- ACLR, ALD and ALDD clear an accumulator, give it mod's exponent and load it; AOP moves, adds or subtracts accumulators (R86, R87). -/
def Obligations.AccumulatorSetCompletes : Prop :=
  ∀ (s : State) (n : Fin 96) (d a b : BitVec 5) (p : BitVec 3) (mod : BitVec 8), Ready s n.val → d.toNat < 4 →
    let cleared (t : Tile) : Tile :=
      putAcce (eachLane 0xFFFF (fun t i => accClearLane t d.toNat i) lanes t) d.toNat (sext 8 mod.toNat)
    (a = 0 → b = 0 → p = 0 → SlotDone (.aclr n d a b p mod) s n.val (fun _ _ t => cleared t)) ∧
    (b = 0 → p = 0 → SlotDone (.ald n d a b p mod) s n.val (fun m o t =>
      eachLane 0xFFFF (fun t i => accAdd t d.toNat i
        (align m (laneM (getV o a.toNat) i) (expOf (getV o a.toNat) - 9 - sext 8 mod.toNat))) lanes (cleared t))) ∧
    (a.toNat % 2 = 0 → b = 0 → p = 0 → SlotDone (.aldd n d a b p mod) s n.val (fun m o t =>
      eachLane 0xFFFF (fun t i => accAdd t d.toNat i
        (align m (pairM o a.toNat i) (expOf (getV o a.toNat) - 19 - sext 8 mod.toNat))) lanes (cleared t))) ∧
    (a.toNat < 4 → b.toNat < 4 → mod.toNat < 3 → SlotDone (.aop n d a b p mod) s n.val (fun _ o t =>
      putAcce (eachLane (getP o p.toNat) (fun t i =>
        let q := if mod = 1 then getAcc o a.toNat i + getAcc o b.toNat i else getAcc o a.toNat i - getAcc o b.toNat i
        if mod = 0 then setAccvBit (putAcc t d.toNat i (getAcc o a.toNat i)) d.toNat i ((getAccv o a.toNat).getLsbD i)
        else accAdd t d.toNat i (q - getAcc t d.toNat i)) lanes t) d.toNat (getAcce o a.toNat)))

/-- VADD, VMAX, VABS, VREXP, VNORM, VSCL and VRCP: exact lane results narrowed at the exponent that each one's entry gives (R90 to R92). -/
def Obligations.VectorArithmeticCompletes : Prop :=
  ∀ (s : State) (n : Fin 96) (d a b : BitVec 5) (p : BitVec 3) (mod : BitVec 7), Ready s n.val →
    let one (m : Nat) (o t : Tile) (w : Narrow) (k : Int) (f : Int → Int) : Tile :=
      writeTenth t m d.toNat (getP o p.toNat) w ((mants (getV o a.toNat)).map (fun v => (f v, 1))) k (tagOf (getV o a.toNat))
    let two (m : Nat) (o t : Tile) (w : Narrow) (f : Int → Int → Int) : Tile :=
      let r := aligned (getV o a.toNat) (getV o b.toNat)
      writeTenth t m d.toNat (getP o p.toNat) w ((List.zipWith f r.1 r.2.1).map (fun v => (v, 1))) r.2.2 (tagOf (getV o a.toNat))
    let ea (o : Tile) : Int := expOf (getV o a.toNat)
    let top (o : Tile) : Int := max (ea o) (expOf (getV o b.toNat))
    (mod.toNat < 8 → SlotDone (.vadd n d a b p mod) s n.val (fun m o t =>
      two m o t (if mod.getLsbD 0 then .norm else .fixed (clampInt (-32) 31 (top o + if mod.getLsbD 2 then 1 else 0)))
        (fun x y => if mod.getLsbD 1 then x - y else x + y))) ∧
    (mod = 0 ∨ mod = 2 → SlotDone (.vmax n d a b p mod) s n.val (fun m o t =>
      two m o t (.fixed (top o)) (fun x y => if mod = 2 then min x y else max x y))) ∧
    (modIn mod 6 = true → SlotDone (.vabs n d a b p mod) s n.val (fun m o t =>
      one m o t (.fixed (clampInt (-32) 31 (ea o + if mod.getLsbD 2 then 1 else 0))) (ea o - 9)
        (fun x => if mod.getLsbD 1 then -x else (x.natAbs : Int)))) ∧
    ((mod.getLsbD 6 = true → b.toNat < 16) → SlotDone (.vrexp n d a b p mod) s n.val (fun m o t =>
      one m o t (.fixed (if mod.getLsbD 6 then clampInt (-32) 31 (sint (getS o b.toNat)) else sext 6 mod.toNat)) (ea o - 9) id)) ∧
    (mod = 0 → SlotDone (.vnorm n d a b p mod) s n.val (fun m o t => one m o t .norm (ea o - 9) id)) ∧
    SlotDone (.vscl n d a b p mod) s n.val (fun m o t =>
      if mod.getLsbD 6 then one m o t (.fixed (clampInt (-32) 31 (ea o + sext 6 mod.toNat))) (ea o - 9 + sext 6 mod.toNat) id
      else one m o t (.fixed (sext 6 mod.toNat)) (sext 6 mod.toNat - 9) id) ∧
    (mod = 0 → SlotDone (.vrcp n d a b p mod) s n.val (fun m o t =>
      writeTenth t m d.toNat (getP o p.toNat) (if (mants (getV o a.toNat)).any (· == 0) then .fixed 31 else .norm)
        ((mants (getV o a.toNat)).map recip) (9 - ea o) (tagOf (getV o a.toNat))))

/-- VCMP, PLOG, PMOVI and PMOV write predicates; VLOG and VSEL combine words under one (R89, R93, R94). -/
def Obligations.PredicateCompletes : Prop :=
  ∀ (s : State) (n : Fin 96) (d a b : BitVec 5) (p : BitVec 3) (mod : BitVec 7) (imm : BitVec 15), Ready s n.val →
    (d.toNat < 8 → mod.toNat < 16 → fld mod 2 0 < 6 → (mod.getLsbD 3 = true → b = 0) →
      SlotDone (.vcmp n d a b p mod) s n.val (fun _ o t =>
        let r := aligned (getV o a.toNat) (getV o b.toNat)
        putP t d.toNat (getP o p.toNat &&& BitVec.ofNat 16 ((lanes.map (fun i =>
          if cmpCond (fld mod 2 0) (r.1.getD i 0) (if mod.getLsbD 3 then 0 else r.2.1.getD i 0) then 2 ^ i else 0)).sum)))) ∧
    (d.toNat < 8 → a.toNat < 8 → b.toNat < 8 → mod.toNat < 4 → p = 0 →
      SlotDone (.plog n d a b p mod) s n.val (fun _ o t => putP t d.toNat (bitOp mod.toNat (getP o a.toNat) (getP o b.toNat)))) ∧
    (d.toNat < 8 → SlotDone (.pmovi n d a imm) s n.val (fun _ _ t =>
      putP t d.toNat (BitVec.ofNat 16 (imm.toNat + (a.toNat % 2) * 2 ^ 15)))) ∧
    (d.toNat < 16 → a.toNat < 8 → mod = 1 → p = 0 →
      SlotDone (.pmov n d a b p mod) s n.val (fun _ o t => putS t d.toNat ((getP o a.toNat).setWidth 32))) ∧
    (d.toNat < 8 → a.toNat < 16 → mod = 0 → p = 0 →
      SlotDone (.pmov n d a b p mod) s n.val (fun _ o t => putP t d.toNat ((getS o a.toNat).setWidth 16))) ∧
    (mod.toNat < 4 → getP (tileAt s n.val) p.toNat = 0xFFFF → SlotDone (.vlog n d a b p mod) s n.val (fun _ o t =>
      putV t d.toNat (mkWord (bitOp (w := 160) mod.toNat ((getV o a.toNat).setWidth 160) ((getV o b.toNat).setWidth 160)).toNat
        (expOf (getV o a.toNat)) (tagOf (getV o a.toNat))))) ∧
    (mod = 0 → SlotDone (.vsel n d a b p mod) s n.val (fun m o t =>
      let r := aligned (getV o a.toNat) (getV o b.toNat)
      writeTenth t m d.toNat 0xFFFF (.fixed (max (expOf (getV o a.toNat)) (expOf (getV o b.toNat))))
        ((mergeLanes (getP o p.toNat) r.1 r.2.1).map (fun v => (v, 1))) r.2.2 (tagOf (getV o a.toNat))))

/-- VBCAST, VROT, VPERM, VZIP, VUZP, VCSWP and BFLY move lanes (R94 to R96). -/
def Obligations.ShuffleCompletes : Prop :=
  ∀ (s : State) (n : Fin 96) (d a b : BitVec 5) (p : BitVec 3) (mod : BitVec 7), Ready s n.val →
    let one (m : Nat) (o t : Tile) (f : Nat → Int) : Tile :=
      writeTenth t m d.toNat (getP o p.toNat) (.fixed (expOf (getV o a.toNat))) (lanes.map (fun i => (f i, 1)))
        (expOf (getV o a.toNat) - 9) (tagOf (getV o a.toNat))
    let two (m r : Nat) (o t : Tile) (e : Int) (f : List Int → List Int → List Int) : Tile :=
      let q := aligned (getV o a.toNat) (getV o b.toNat)
      writeTenth t m r (getP o p.toNat) (.fixed e) ((f q.1 q.2.1).map (fun v => (v, 1))) q.2.2 (tagOf (getV o a.toNat))
    let va (o : Tile) (i : Nat) : Int := (mants (getV o a.toNat)).getD i 0
    let top (o : Tile) : Int := max (expOf (getV o a.toNat)) (expOf (getV o b.toNat))
    (mod.toNat < 16 → SlotDone (.vbcast n d a b p mod) s n.val (fun m o t => one m o t (fun _ => va o (mod.toNat % 16)))) ∧
    (mod.toNat < 16 → SlotDone (.vrot n d a b p mod) s n.val (fun m o t => one m o t (fun i => va o ((i + mod.toNat) % 16)))) ∧
    (mod = 0 → SlotDone (.vperm n d a b p mod) s n.val (fun m o t =>
      one m o t (fun i => va o ((getV o b.toNat).toNat >>> (10 * i) % 16)))) ∧
    (mod.toNat < 2 → SlotDone (.vzip n d a b p mod) s n.val (fun m o t => two m d.toNat o t (top o) (fun x y =>
      lanes.map (fun i => (if i % 2 = 0 then x else y).getD (i / 2 + 8 * mod.toNat) 0)))) ∧
    (mod.toNat < 2 → SlotDone (.vuzp n d a b p mod) s n.val (fun m o t => two m d.toNat o t (top o) (fun x y =>
      lanes.map (fun i => (if i < 8 then x else y).getD (2 * (i % 8) + mod.toNat) 0)))) ∧
    (mod.toNat < 2 → SlotDone (.vcswp n d a b p mod) s n.val (fun m o t => one m o t (fun i =>
      if i % 2 = 0 then (if mod = 1 then va o (i + 1) else -va o (i + 1))
      else (if mod = 1 then -va o (i - 1) else va o (i - 1))))) ∧
    (d.toNat % 2 = 0 → mod = 0 → SlotDone (.bfly n d a b p mod) s n.val (fun m o t =>
      two m (d.toNat + 1) o (two m d.toNat o t (clampInt (-32) 31 (top o + 1)) (List.zipWith (· + ·)))
        (clampInt (-32) 31 (top o + 1)) (List.zipWith (· - ·))))

/-- CVTI expands G.711 or 16-bit samples of the byte view into lanes; CVTO compresses lanes into bytes, clamping with SATF (R97 to R99). -/
def Obligations.ConvertCompletes : Prop :=
  ∀ (s : State) (n : Fin 96) (d a b : BitVec 5) (p : BitVec 3) (mod : BitVec 7), Ready s n.val →
    mod.toNat < 8 → mod.toNat % 4 < 3 → (mod.toNat % 4 = 2 → b.toNat % 2 = 0 ∧ b.toNat ≤ 8) → b.toNat ≤ 24 →
    let x : AArgs := ⟨d, a, b, p, mod⟩
    (a.toNat % 2 = 0 → mod.getLsbD 2 = false → SlotDone (.cvti n d a b p mod) s n.val (fun m o t =>
      writeTenth t m d.toNat (getP o p.toNat) .norm
        (lanes.map (fun i => (cvtSample x (viewBytes (getV o a.toNat) (getV o (a.toNat + 1))) i, 1))) (-15) 0)) ∧
    (a.toNat % 2 = 0 → d.toNat % 2 = 0 → mod.getLsbD 2 = true → SlotDone (.cvti n d a b p mod) s n.val (fun m o t =>
      writePair t m d.toNat (getP o p.toNat) (.fixed 0)
        (lanes.map (fun i => (cvtSample x (viewBytes (getV o a.toNat) (getV o (a.toNat + 1))) i, 1))) (-15) 0)) ∧
    (d.toNat % 2 = 0 → (mod.getLsbD 2 = true → a.toNat % 2 = 0) → SlotDone (.cvto n d a b p mod) s n.val (fun m o t =>
      let hi := getV t d.toNat
      let lo := getV t (d.toNat + 1)
      let rs := lanes.map (cvtLinear m x o)
      let bs := foldS (fun bs i => if (getP o p.toNat).getLsbD i then cvtPut x bs i (rs.getD i (0, false)).1 else bs) lanes
        (viewBytes hi lo)
      setSat (putV (putV t d.toNat (mkWord (leNat (bs.take 20)) (expOf hi) (tagOf hi))) (d.toNat + 1)
        (mkWord (leNat (bs.drop 20)) (expOf lo) (tagOf lo))) (satMask (getP o p.toNat) rs)))

/-- SALU, SADDI, SANDI, SMOVI, SMOVH, VEXT, VINS, VGETE, SATCLR and SATGET; SATCLR leaves the bits that an older bundle still in flight sets in its cycle or later (R28, R101). -/
def Obligations.ScalarCompletes : Prop :=
  ∀ (s : State) (n : Fin 96) (d a b : BitVec 5) (p : BitVec 3) (mod : BitVec 7) (imm : BitVec 15), Ready s n.val →
    (d.toNat < 16 → a.toNat < 16 → b.toNat < 16 → mod.toNat < 12 → p = 0 → SlotDone (.salu n d a b p mod) s n.val (fun _ o t =>
      putS t d.toNat (saluOp mod.toNat (getS o a.toNat) (getS o b.toNat)))) ∧
    (d.toNat < 16 → a.toNat < 16 → SlotDone (.saddi n d a imm) s n.val (fun _ o t =>
      putS t d.toNat (getS o a.toNat + imm.signExtend 32))) ∧
    (d.toNat < 16 → a.toNat < 16 → SlotDone (.sandi n d a imm) s n.val (fun _ o t =>
      putS t d.toNat (getS o a.toNat &&& imm.setWidth 32))) ∧
    (d.toNat < 16 → SlotDone (.smovi n d a imm) s n.val (fun _ _ t => putS t d.toNat (BitVec.signExtend 32 (a ++ imm)))) ∧
    (d.toNat < 16 → SlotDone (.smovh n d a imm) s n.val (fun _ o t =>
      putS t d.toNat (setFld (getS o d.toNat) 31 16 (imm.toNat + (a.toNat % 2) * 2 ^ 15)))) ∧
    (d.toNat < 16 → mod.toNat < 16 → p = 0 → SlotDone (.vext n d a b p mod) s n.val (fun _ o t =>
      putS t d.toNat (ofSint 32 (laneM (getV o a.toNat) mod.toNat)))) ∧
    (a.toNat < 16 → mod.toNat < 16 → p = 0 → SlotDone (.vins n d a b p mod) s n.val (fun _ o t =>
      putV t d.toNat (setFld (getV t d.toNat) (10 * mod.toNat + 9) (10 * mod.toNat) (getS o a.toNat).toNat))) ∧
    (d.toNat < 16 → mod = 0 → p = 0 → SlotDone (.vgete n d a b p mod) s n.val (fun _ o t =>
      putS t d.toNat (ofSint 32 (expOf (getV o a.toNat))))) ∧
    (d = 0 → a.toNat < 8 → b = 0 → mod = 0 → p = 0 → 
      SlotDone (.satclr n d a b p mod) s n.val (fun _ o t => { t with satf := t.satf &&& ~~~ getP o a.toNat |||
        (o.satf &&& landing (pipeEnter (demandOf o [opSatclr ⟨d, a, b, p, mod⟩] false) (pipeAt s n.val))) }) ∧
      ((pipeAt s n.val).flights = [] →
        SlotDone (.satclr n d a b p mod) s n.val (fun _ o t => { t with satf := t.satf &&& ~~~ getP o a.toNat }))) ∧
    (d.toNat < 16 → a = 0 → b = 0 → mod = 0 → p = 0 → SlotDone (.satget n d a b p mod) s n.val (fun _ o t =>
      putS t d.toNat (o.satf.setWidth 32)))

/-! ### Loads, stores and address registers (R33, R103 to R108) -/

/-- VLD, VLDO, VLDX and VLDD load words without an error (and not trapped by their tag); VLD and VLDD then update the address register by ring (R33, R54, R103, R105, R107). -/
def Obligations.LoadCompletes : Prop :=
  ∀ (s : State) (n : Fin 96) (v r : BitVec 5) (a p : BitVec 3) (inc : BitVec 6) (imm : BitVec 13) (x : BitVec 4) (w u : BitVec 167),
    Ready s n.val → (rdb s (Reg.TILE_CTRL n.val) 15 = true → tagOf w = 0 ∧ tagOf u = 0) →
    let o := tileAt s n.val
    let ea := (getA o a.toNat).toNat
    (Holds s n.val ea w → SlotDone (.vld n v a inc) s n.val (fun _ o t => putA (putV t v.toNat w) a.toNat (ring o a.toNat inc.toInt))) ∧
    (Holds s n.val (ring o a.toNat inc.toInt) w → SlotDone (.vldo n v a inc) s n.val (fun _ _ t => putV t v.toNat w)) ∧
    (p = 0 → imm = 0 → Holds s n.val (ring o a.toNat (getS o x.toNat).toInt) w →
      SlotDone (.vldx n r a p imm x) s n.val (fun _ _ t => putV t r.toNat w)) ∧
    (r.toNat % 2 = 0 → p = 0 → x = 0 → ea % 2 = 0 → Holds s n.val ea w → Holds s n.val (ea + 1) u →
      SlotDone (.vldd n r a p imm x) s n.val (fun _ o t =>
        putA (putV (putV t r.toNat w) (r.toNat + 1) u) a.toNat (ring o a.toNat imm.toInt)))

/-- VST, VSTO, VSTP, VSTX and VSTD store whole words, the lanes of a predicate merged into the old word, or nothing, and VST, VSTP and VSTD update the address register; no other word of the tile's memories changes (R47, R56, R103, R105, R107). -/
def Obligations.StoreCompletes : Prop :=
  ∀ (s : State) (n : Fin 96) (v r : BitVec 5) (a p : BitVec 3) (inc : BitVec 6) (imm : BitVec 13) (x : BitVec 4) (w u : BitVec 167),
    Ready s n.val →
    let o := tileAt s n.val
    let ea := (getA o a.toNat).toNat
    let ex := ring o a.toNat (getS o x.toNat).toInt
    let m := getP o p.toNat
    let put (t : Tile) (a : Nat) (y old : BitVec 167) : Tile :=
      if m = 0xFFFF then stored167 t a y else if m = 0 then t else stored167 t a (laneMerge m y old)
    SlotDone (.vst n v a inc) s n.val (fun _ o t => putA (stored167 t ea (getV o v.toNat)) a.toNat (ring o a.toNat inc.toInt)) ∧
    SlotDone (.vsto n v a inc) s n.val (fun _ o t => stored167 t (ring o a.toNat inc.toInt) (getV o v.toNat)) ∧
    (x = 0 → (m = 0xFFFF ∨ m = 0 ∨ Holds s n.val ea w) → SlotDone (.vstp n r a p imm x) s n.val (fun _ o t =>
      putA (put t ea (getV o r.toNat) w) a.toNat (ring o a.toNat imm.toInt))) ∧
    (imm = 0 → (m = 0xFFFF ∨ m = 0 ∨ Holds s n.val ex w) → SlotDone (.vstx n r a p imm x) s n.val (fun _ o t =>
      put t ex (getV o r.toNat) w)) ∧
    (r.toNat % 2 = 0 → x = 0 → ea % 2 = 0 → (m = 0xFFFF ∨ m = 0 ∨ (Holds s n.val ea w ∧ Holds s n.val (ea + 1) u)) →
      SlotDone (.vstd n r a p imm x) s n.val (fun _ o t =>
        putA (put (put t ea (getV o r.toNat) w) (ea + 1) (getV o (r.toNat + 1)) u) a.toNat (ring o a.toNat imm.toInt)))

/-- SLD reads and SST stores one 32-bit field of a word; AINC, AMOV, AGET and ASET work on the address registers (R106, R108). -/
def Obligations.ScalarMemoryCompletes : Prop :=
  ∀ (s : State) (n : Fin 96) (r : BitVec 5) (a p : BitVec 3) (imm : BitVec 13) (x : BitVec 4) (w : BitVec 167), Ready s n.val →
    let o := tileAt s n.val
    let ea := ring o a.toNat imm.toInt
    let kind (t : Tile) (y : Nat) : Tile :=
      if r = 0 then putA t a.toNat y else if r = 1 then putABase t a.toNat y else putALen t a.toNat (min (y % 2 ^ 14) 8192)
    (r.toNat < 5 → p = 0 → Holds s n.val ea w → SlotDone (.sld n r a p imm x) s n.val (fun _ _ t =>
      putS t x.toNat ((w >>> (32 * r.toNat)).setWidth 32))) ∧
    (r.toNat < 5 → p = 0 → Holds s n.val ea w → SlotDone (.sst n r a p imm x) s n.val (fun _ o t =>
      stored167 t ea (setFld w (32 * r.toNat + 31) (32 * r.toNat) (getS o x.toNat).toNat))) ∧
    (r = 0 → p = 0 → x = 0 → SlotDone (.ainc n r a p imm x) s n.val (fun _ o t => putA t a.toNat (ring o a.toNat imm.toInt))) ∧
    (r.toNat < 3 → p = 0 → imm = 0 → SlotDone (.amov n r a p imm x) s n.val (fun _ o t => kind t (getS o x.toNat).toNat)) ∧
    (r.toNat < 3 → p = 0 → imm = 0 → SlotDone (.aget n r a p imm x) s n.val (fun _ o t =>
      putS t x.toNat (BitVec.ofNat 32 (if r = 0 then (getA o a.toNat).toNat else if r = 1 then (getABase o a.toNat).toNat
        else (getALen o a.toNat).toNat)))) ∧
    (r.toNat < 3 → p = 0 → x = 0 → SlotDone (.aset n r a p imm x) s n.val (fun _ _ t => kind t imm.toNat))

/-- A word with an uncorrectable error, a trapped tag or an odd address of a pair stops the tile at the load's bundle with the fault that Table 4.9 names, and the load writes no register; the two bundles that issue before the fault is found, here NOPs, issue first; a word with a single-bit error is loaded corrected, counted and located, and its write-back queued (R52 to R54, R58, R107, R131, R132). -/
def Obligations.LoadErrorsHandled : Prop :=
  (∀ (s : State) (n : Fin 96) (v r : BitVec 5) (a p : BitVec 3) (inc : BitVec 6) (imm : BitVec 13) (x : BitVec 4) (w : BitVec 167),
      Ready s n.val →
      let o := tileAt s n.val
      let ea := (getA o a.toNat).toNat
      (∀ k, SMap.get 0 o.imem k = 0) →
      let stop (code info : Nat) (t : State) : Prop :=
        Faulted s n.val code 8 info t ∧ (tileAt t n.val).v = o.v ∧ (tileAt t n.val).dmem = o.dmem
      (eccDecode 167 8 (SMap.get 0 o.dmem ea).toNat = .bad → Does (.vld n v a inc) s (stop 4 0)) ∧
      (Holds s n.val ea w → tagOf w = 1 → rdb s (Reg.TILE_CTRL n.val) 15 = true → Does (.vld n v a inc) s (stop 3 ea)) ∧
      (r.toNat % 2 = 0 → p = 0 → x = 0 → ea % 2 = 1 → Does (.vldd n r a p imm x) s (stop 6 ea)) ∧
      (r.toNat % 2 = 0 → x = 0 → ea % 2 = 1 → Does (.vstd n r a p imm x) s (stop 6 ea))) ∧
  (∀ (s : State) (n : Fin 96) (v : BitVec 5) (a : BitVec 3) (inc : BitVec 6) (d word bit : Nat), Ready s n.val →
      let ea := (getA (tileAt s n.val) a.toNat).toNat
      eccDecode 167 8 (SMap.get 0 (tileAt s n.val).dmem ea).toNat = .fixed d word bit →
      (rdb s (Reg.TILE_CTRL n.val) 15 = true → tagOf (BitVec.ofNat 167 d) = 0) →
      Does (.vld n v a inc) s (fun t =>
        tileAt t n.val = slotTile s n.val (fun _ o t => putA (putV { t with writeBacks := t.writeBacks ++ [⟨false, ea, word⟩] }
          v.toNat (BitVec.ofNat 167 d)) a.toNat (ring o a.toNat inc.toInt)) ∧
        (∃ f fs, (pipeAt t n.val).flights = f :: fs ∧ f.fixed = true) ∧
        rd t (Reg.TILE_ECC_CORR n.val) = rd s (Reg.TILE_ECC_CORR n.val) + 1 ∧
        rd t (Reg.TILE_ECC_LAST n.val) = BitVec.ofNat 32 (2 ^ 16 * ea + bit) ∧
        RegsBut s t [Reg.TILE_ECC_CORR n.val, Reg.TILE_ECC_LAST n.val] ∧
        (∀ m, m ≠ n.val → tileAt t m = tileAt s m)))
/-! ### DMA instructions, control flow, requests, whole bundles (R35 to R40, R60, R70, R109 to R128) -/

/-- DMA.GO and the write of go submit a descriptor to a channel: the first refusal of R60 that applies leaves the channel and sets err with its code; otherwise the descriptor becomes the active or the pending one. DMA.GO returns the code. DMA.STAT returns a channel's status and, asked to, clears done and err; DMA.WAIT holds its bundle until the channel, or both, are idle (R110). -/
def Obligations.DmaCompletes : Prop :=
  (∀ (s : State) (n : Fin 96) (r : BitVec 5) (a p : BitVec 3) (imm : BitVec 13) (x : BitVec 4) (who : Who) (c : Fin 2) (v : Word),
      Ready s n.val →
      let chan (s : State) (c : Nat) : DmaChan := SMap.get DmaChan.reset (tileAt s n.val).dma c
      let code (s : State) (c : Nat) (d : DmaDesc) : Nat :=
        if ¬ (d.len = 0 ∨ inDram s d.ext d.len = true ∨ inGeneral d.ext d.len = true) then 1
        else if d.data20 = false ∧ d.ext % 32 ≠ 0 then 3
        else if d.len = 0 ∨ (d.data20 = false ∧ d.len % 32 ≠ 0) ∨ 8192 < d.addr + dmaWords d then 2
        else if (chan s c).active.isSome ∧ (chan s c).waiting.isSome then 4 else 0
      let after (s t : State) (c : Nat) (d : DmaDesc) : Prop :=
        (code s c d = 0 → chan t c = if (chan s c).active = none then ⟨some d, (chan s c).waiting, 0⟩ else { chan s c with waiting := some d }) ∧
        (code s c d ≠ 0 → chan t c = chan s c ∧ rdb t (Reg.TILE_DMA_STAT n.val c) 3 = true ∧
          rdf t (Reg.TILE_DMA_STAT n.val c) 6 4 = code s c d) ∧
        (∀ m, m ≠ n.val → tileAt t m = tileAt s m)
      (r.toNat < 16 → a = 0 → p = 0 → imm.toNat < 2 → x.toNat % 4 = 0 → Does (.dmaGo n r a p imm x) s (fun t =>
        let d := dmaScalars (tileAt s n.val) x.toNat
        getS (tileAt t n.val) r.toNat = BitVec.ofNat 32 (code s imm.toNat d) ∧ after s t imm.toNat d ∧
        RegsBut s t [Reg.TILE_DMA_STAT n.val imm.toNat])) ∧
      (passes s who (Reg.TILE_DMA_CTRL n.val c.val) true = true → Does (.tileDmaGo who n c v) s (fun t =>
        let u := plainWrite s (Reg.TILE_DMA_CTRL n.val c.val) (v ||| 1)
        after u t c.val (dmaRegs u n.val c.val) ∧
        RegsBut s t [Reg.TILE_DMA_CTRL n.val c.val, Reg.TILE_DMA_STAT n.val c.val]))) ∧
  (∀ (s : State) (n : Fin 96) (r : BitVec 5) (a p : BitVec 3) (imm : BitVec 13) (x : BitVec 4), Ready s n.val → a = 0 → p = 0 → x = 0 →
      imm.toNat < 4 →
      let st := Reg.TILE_DMA_STAT n.val (imm.toNat % 2)
      let chan (c : Nat) : DmaChan := SMap.get DmaChan.reset (tileAt s n.val).dma c
      let busy (c : Nat) : Prop := ¬ ((chan c).active = none ∧ (chan c).waiting = none)
      (r.toNat < 16 → Does (.dmaStat n r a p imm x) s (fun t =>
        tileAt t n.val = slotTile s n.val (fun _ _ t => putS t r.toNat (rd s st)) ∧
        rd t st = (if imm.toNat < 2 then rd s st else setFld (setFld (rd s st) 2 2 0) 3 3 0) ∧ RegsBut s t [st])) ∧
      (r = 0 → ¬ busy (imm.toNat % 2) → (2 ≤ imm.toNat → ¬ busy 0 ∧ ¬ busy 1) →
        SlotDone (.dmaWait n r a p imm x) s n.val (fun _ _ t => t)) ∧
      (r = 0 → (busy (imm.toNat % 2) ∨ (2 ≤ imm.toNat ∧ (busy 0 ∨ busy 1))) → Does (.dmaWait n r a p imm x) s (fun t =>
        OnlyTile s t n.val ∧ tileAt t n.val = { tileAt s n.val with
          wait := some ⟨BitVec.ofNat 128 (2 ^ 124 + 2 ^ 88 * (2 ^ 34 + 2 ^ 28 * 0x22 + 16 * imm.toNat)), false, false, .run⟩ })))

/-- BR, CALL, RET and LOOP outside the end bundle of an active repeat: the next bundle, the link register, the repeat levels (R35, R36, R38, R115 to R117). -/
def Obligations.FlowCompletes : Prop :=
  ∀ (s : State) (n : Fin 96) (f : BitVec 18), Ready s n.val →
    let o := tileAt s n.val
    let k := fld f 17 14
    let target := fld f 10 0
    let holds : Bool :=
      match fld f 13 11 with
      | 0 => true
      | 1 => getS o k == 0
      | 2 => getS o k != 0
      | 3 => decide ((getS o k).toInt < 0)
      | 4 => decide (0 ≤ (getS o k).toInt)
      | 5 => getP o k != 0
      | 6 => getP o k == 0
      | _ => getP o k == 0xFFFF
    let lv := fld f 17 16
    let c := fld (getS o (fld f 15 12)) 15 0
    let start := (o.pc.toNat + 1) % 2048
    let stop := start + target
    endsLoop o o.pc.toNat = false →
    ((fld f 13 11 = 0 → k = 0) → (5 ≤ fld f 13 11 → k < 8) →
      (holds = true → TileDone (.br n f) s n.val (branched target (fresh o))) ∧
      (holds = false → TileDone (.br n f) s n.val (advanced o (fresh o)))) ∧
    (fld f 13 11 = 0 → TileDone (.call n f) s n.val
      (branched target (putS (fresh o) k (BitVec.ofNat 32 ((o.pc.toNat + 1) % 2048))))) ∧
    (fld f 13 0 = 0 → TileDone (.ret n f) s n.val (branched (fld (getS o k) 10 0) (fresh o))) ∧
    (lv < 3 → f.getLsbD 11 = false → stop < 2048 → (getLp o lv).active = false →
      (∀ h, h < 3 → lv < h → (getLp o h).active = false) →
      (∀ h, h < lv → (getLp o h).active = true → (getLp o h).start ≤ start ∧ stop ≤ (getLp o h).stop) →
      (c ≠ 0 → TileDone (.loop n f) s n.val { putLp (fresh o) lv ⟨true, start, stop, c⟩ with pc := BitVec.ofNat 11 start }) ∧
      (c = 0 → TileDone (.loop n f) s n.val { fresh o with pc := BitVec.ofNat 11 ((stop + 1) % 2048) }))

/-- HALT stops the tile and sets its stop bit; BKPT does so only where bkpt_en is set, and sets bkpt_hit (R118). -/
def Obligations.StopCompletes : Prop :=
  ∀ (s : State) (n : Fin 96), Ready s n.val →
    let bit := BitVec.ofNat 32 (2 ^ (n.val % 32))
    let ts := Reg.TRV_TSTOP (n.val / 32)
    let moved (t : State) : Prop := tileAt t n.val = slotTile s n.val (fun _ _ t => t) ∧ ∀ m, m ≠ n.val → tileAt t m = tileAt s m
    Does (.halt n 0) s (fun t => moved t ∧ rdb t (Reg.TILE_CTRL n.val) 0 = false ∧ rd t ts = rd s ts ||| bit ∧
      RegsBut s t [Reg.TILE_CTRL n.val, ts]) ∧
    (rdb s (Reg.TILE_DBG_CTRL n.val) 1 = true → Does (.bkpt n 0) s (fun t => moved t ∧ rdb t (Reg.TILE_CTRL n.val) 0 = false ∧
      rdb t (Reg.TILE_DBG_CTRL n.val) 2 = true ∧ rd t ts = rd s ts ||| bit ∧
      RegsBut s t [Reg.TILE_CTRL n.val, Reg.TILE_DBG_CTRL n.val, ts])) ∧
    (rdb s (Reg.TILE_DBG_CTRL n.val) 1 = false → SlotDone (.bkpt n 0) s n.val (fun _ _ t => t))

/-- TASK.END and DBELL send their message to Traverse and go on; TASK.ASK and the five queue instructions send their request with the whole of Sa and wait, an ask also ending the node that the tile holds (R111, R119 to R127). -/
def Obligations.RequestCompletes : Prop :=
  ∀ (s : State) (n : Fin 96) (f : BitVec 18), Ready s n.val →
    let o := tileAt s n.val
    let task := rd s (Reg.TILE_TASK n.val)
    let v := getS o (fld f 15 12)
    let sent (ms : List TrvMsg) (t : State) : Prop := t.trv = { s.trv with inbox := s.trv.inbox ++ ms } ∧ t.jq = s.jq
    let waits (op : Nat) (t : State) : Prop := tileAt t n.val = { o with
      wait := some ⟨BitVec.ofNat 128 (2 ^ 124 + 2 ^ 18 * op + f.toNat), true, false, .run⟩ }
    let asks (op : JqOp) (code : Nat) (t : State) : Prop := waits code t ∧
      t.jq = { s.jq with reqs := s.jq.reqs ++ [⟨n.val, op, (getS o (fld f 13 10)).toNat⟩] } ∧ t.trv = s.trv ∧ t.regs = s.regs
    (fld f 13 0 = 0 → task.getLsbD 31 = true → Does (.taskEnd n f) s (fun t =>
      sent [.nodeEnd n.val (fld task 14 0) (fld (getS o (fld f 17 14)) 7 0)] t ∧ rd t (Reg.TILE_TASK n.val) = setFld task 31 31 0 ∧
      tileAt t n.val = slotTile s n.val (fun _ _ t => t) ∧ RegsBut s t [Reg.TILE_TASK n.val])) ∧
    (fld f 17 16 = 0 → fld f 11 0 = 0 → fld v 31 26 = 0 → fld v 25 18 ≠ 0 → Does (.dbell n f) s (fun t =>
      sent [.tokens n.val (fld v 14 0) (fld v 17 15) (fld v 25 18)] t ∧ t.regs = s.regs ∧
      tileAt t n.val = slotTile s n.val (fun _ _ t => t))) ∧
    (fld f 17 16 = 1 → fld f 11 0 = 0 → v.toNat < 64 → Does (.dbell n f) s (fun t =>
      sent [.hostDb n.val v.toNat] t ∧ t.regs = s.regs ∧ tileAt t n.val = slotTile s n.val (fun _ _ t => t))) ∧
    (endsLoop o o.pc.toNat = false → fld f 13 0 = 0 → fld f 17 14 % 2 = 0 → Does (.taskAsk n f) s (fun t =>
      sent [.ask n.val (if task.getLsbD 31 then some (fld task 14 0) else none)] t ∧ waits 0x10 t ∧
      rdb t (Reg.TILE_TASK n.val) 31 = false ∧ RegsBut s t [Reg.TILE_TASK n.val])) ∧
    (fld f 9 0 = 0 → Does (.qtake n f) s (asks .take 0x18) ∧ Does (.qskip n f) s (asks .skip 0x1A) ∧
      Does (.rewind n f) s (asks .rewind 0x1C) ∧ (fld f 17 14 = 0 → Does (.qmark n f) s (asks .mark 0x1B))) ∧
    (fld f 6 0 = 0 → fld f 9 7 ≠ 0 → Does (.qpeek n f) s (asks .peek 0x19))

/-- The answer that has arrived issues the waiting bundle: the dispatch record, the item, presence and item, or the code reach their registers; a QUEUE fault stops the tile (R111, R119, R122 to R126). -/
def Obligations.AnswerCompletes : Prop :=
  ∀ (s : State) (n : Fin 96) (f : BitVec 18) (a : Answer) (w0 w1 : Word) (b : Bool), Awake s → frozen s = false →
    let o := tileAt s n.val
    let waits (op : Nat) : Prop :=
      o.wait = some ⟨BitVec.ofNat 128 (2 ^ 124 + 2 ^ 18 * op + f.toNat), true, false, .run⟩ ∧ o.answer = some a
    let d := fld f 17 14
    endsLoop o o.pc.toNat = false →
    (waits 0x10 → a = .dispatch w0 w1 → fld f 13 0 = 0 → d % 2 = 0 → Does (.answerArrival n) s (fun t =>
      tileAt t n.val = advanced o (putS (putS (fresh o) d w0) (d + 1) w1) ∧
      rd t (Reg.TILE_TASK n.val) = setBit w0 31 true ∧ rd t (Reg.TILE_TASK_ARG n.val) = w1 ∧
      RegsBut s t [Reg.TILE_TASK n.val, Reg.TILE_TASK_ARG n.val])) ∧
    (waits 0x18 → a = .item w0 → fld f 9 0 = 0 → Does (.answerArrival n) s (fun t =>
      tileAt t n.val = advanced o (putS (fresh o) d w0) ∧
      rd t (Reg.TILE_QLAST n.val) = BitVec.ofNat 32 (2 ^ 31 + fld (getS o (fld f 13 10)) 15 0) ∧
      rd t (Reg.TILE_QLAST_ITEM n.val) = w0 ∧ RegsBut s t [Reg.TILE_QLAST n.val, Reg.TILE_QLAST_ITEM n.val])) ∧
    (waits 0x19 → a = .peek b w0 → fld f 6 0 = 0 → fld f 9 7 ≠ 0 → TileDone (.answerArrival n) s n.val
      (advanced o (putP (putS (fresh o) d w0) (fld f 9 7) (if b then 0xFFFF else 0)))) ∧
    (waits 0x1A → a = .code w0 → fld f 9 0 = 0 → TileDone (.answerArrival n) s n.val (advanced o (putS (fresh o) d w0))) ∧
    (waits 0x1B → a = .ack → fld f 9 0 = 0 → d = 0 → TileDone (.answerArrival n) s n.val (advanced o (fresh o))) ∧
    (waits 0x1C → a = .code w0 → fld f 9 0 = 0 → TileDone (.answerArrival n) s n.val (advanced o (putS (fresh o) d w0))) ∧
    (waits 0x18 → a = .queueFault → fld f 9 0 = 0 → Does (.answerArrival n) s
      (Faulted s n.val 8 1 (getS o (fld f 13 10)).toNat))

/-- Whole bundles: a literal reaches S15, an empty bundle only moves the PC, an illegal bundle and one that cannot be fetched stop the tile with ILLEGAL and MEM_I (R54, R72, R74, R79, R131). -/
def Obligations.BundleCompletes : Prop :=
  ∀ (s : State) (n : Fin 96) (lit : Word) (rest : BitVec 124) (b : Bundle), Ready s n.val →
    SlotDone (.litBundle n lit 0 0 0) s n.val (fun _ _ t => putS t 15 lit) ∧
    SlotDone (.nop n rest) s n.val (fun _ _ t => t) ∧
    (3 ≤ fld b 127 124 → Does (.illegal n b) s (Faulted s n.val 1 0 0)) ∧
    (eccDecode 128 8 (SMap.get 0 (tileAt s n.val).imem (tileAt s n.val).pc.toNat).toNat = .bad →
      Does (.memI n) s (Faulted s n.val 5 0 0))

/-! ### The tile page, the window, background work, DMA transfers (R20, R50 to R70, R113, R133 to R135) -/

/-- TILE_RUN, TILE_STOP, TILE_RESET and MEM_INIT on a tile that waits for nothing: run, the mode fields, the reset of Table 2.1, the fill of both memories; an active fault keeps the tile stopped, a fill defers the run (R20, R68, R113, R133). -/
def Obligations.TileControlCompletes : Prop :=
  ∀ (s : State) (who : Who) (n : Fin 96) (v : Word), Awake s → passes s who (Reg.TILE_CTRL n.val) true = true →
    (tileAt s n.val).wait = none → v.getLsbD 2 = false →
    let c := Reg.TILE_CTRL n.val
    let o := tileAt s n.val
    let fault := rdb s (Reg.TILE_FAULT n.val) 31
    let fields (run : Bool) : Word := setBit ((rd s c &&& ~~~ 0x8C00) ||| (v &&& 0x8C00)) 0 run
    let becomes (x : Tile) (run : Bool) (t : State) : Prop :=
      rd t c = fields run ∧ tileAt t n.val = x ∧ (∀ m, m ≠ n.val → tileAt t m = tileAt s m) ∧ RegsBut s t [c]
    (fault = false → o.fill = false → Does (.tileRun who n v) s (becomes o true)) ∧
    (fault = true → rdb s c 0 = false → Does (.tileRun who n v) s (becomes o false)) ∧
    (fault = false → o.fill = true → rdb s c 0 = false → Does (.tileRun who n v) s (becomes { o with fillRun := true } false)) ∧
    Does (.tileStop who n v) s (becomes { o with fillRun := false } false) ∧
    (v.getLsbD 0 = false ∨ fault = true → Does (.tileReset who n v) s (becomes (Tile.resetArch { o with fillRun := false }) false)) ∧
    (v.getLsbD 0 = true → fault = false → o.fill = false →
      Does (.tileReset who n v) s (becomes (Tile.resetArch { o with fillRun := false }) true)) ∧
    (v.getLsbD 0 = false → v.getLsbD 1 = false → Does (.memInit who n v) s
      (becomes { o with
        dmem := [], imem := [], writeBacks := [], fill := true, fillRun := false
        heldAcc := if o.fill then o.heldAcc
          else o.heldAcc ++ ([0, 1].filter (fun c => (SMap.get DmaChan.reset o.dma c).active.isSome)).map HeldAccess.dma } false))

/-- MEM_FILL_DONE ends the fill, serves the access that waited for it and lets a deferred run begin; FAULT_CLEAR clears the fault; SINGLE_STEP issues one bundle of a stopped tile; SCRUB_CTRL_WRITE keeps its interval within 10 to 20 and restarts its count (R57, R68, R133, R135). -/
def Obligations.TileUpkeepCompletes : Prop :=
  ∀ (s : State) (who : Who) (n : Fin 96) (v : Word) (b : Bundle) (a : Fin 8192), Awake s →
    let c := Reg.TILE_CTRL n.val
    let o := tileAt s n.val
    (o.fill = true → rdb s (Reg.PWR_PGATE_STAT (n.val / 64)) (n.val / 2 % 32) = false → o.dmem = [] →
      o.heldAcc = [.window who (.data a 0) none] → Does (.memFillDone n) s (fun t => t.resp = .word 0 ∧ (tileAt t n.val).fill = false)) ∧
    (o.fill = true → o.heldAcc = [] → rdb s (Reg.PWR_PGATE_STAT (n.val / 64)) (n.val / 2 % 32) = false → Does (.memFillDone n) s (fun t =>
      tileAt t n.val = { o with fill := false, fillRun := false, heldAcc := [], scrubSince := o.scrubSince + 768 } ∧
      rd t c = (if o.fillRun = true ∧ rdb s (Reg.TILE_FAULT n.val) 31 = false then setBit (rd s c) 0 true else rd s c) ∧
      RegsBut s t [c])) ∧
    (passes s who (Reg.TILE_FAULT n.val) true = true → Does (.faultClear who n v) s (fun t =>
      tileAt t n.val = { o with faulted := false } ∧ rd t (Reg.TILE_FAULT n.val) = setBit (rd s (Reg.TILE_FAULT n.val)) 31 false ∧
      RegsBut s t [Reg.TILE_FAULT n.val])) ∧
    (passes s who (Reg.TILE_DBG_CTRL n.val) true = true → rdb s c 0 = false → rdb s (Reg.TILE_FAULT n.val) 31 = false →
      o.wait = none → o.fill = false → frozen s = false → fld b 127 124 = 0 →
      eccDecode 128 8 (SMap.get 0 o.imem o.pc.toNat).toNat = .good b.toNat →
      Does (.singleStep who n v) s (fun t => tileAt t n.val = advanced o (fresh o) ∧ rdb t c 0 = false ∧
        RegsBut s t [Reg.TILE_DBG_CTRL n.val])) ∧
    (passes s who (Reg.TILE_SCRUB_CTRL n.val) true = true → Does (.scrubCtrlWrite who n v) s (fun t =>
      rd t (Reg.TILE_SCRUB_CTRL n.val) = BitVec.ofNat 32 ((v.getLsbD 8).toNat * 256 + max 10 (min 20 (fld v 4 0))) ∧
      tileAt t n.val = { o with scrubSince := s.mono.toNat } ∧ RegsBut s t [Reg.TILE_SCRUB_CTRL n.val]))

/-- The window: word 0 of a data word or bundle returns its value and latches the rest, a latched word is returned as latched; lower words written wait for the highest one, which stores the whole; an access during a fill is held, and a running tile's instruction window takes no write (R65, R66, R68). -/
def Obligations.TileWindowCompletes : Prop :=
  ∀ (s : State) (who : Who) (n : Fin 96) (a : Fin 8192) (k : Fin 8) (b : Fin 2048) (j : Fin 4) (x : BitVec 167) (y : Bundle) (v : Word)
    (ws : List Word), Awake s →
    let o := tileAt s n.val
    let img (i : Nat) : Word := if i < 5 then (x >>> (32 * i)).setWidth 32
      else BitVec.ofNat 32 ((expOf x % 64).toNat + 64 * tagOf x)
    let word (i : Nat) : Word := (y >>> (32 * i)).setWidth 32
    let st (i : Nat) : Nat := (SMap.get 0 o.staged i).toNat
    let read (w : TileWord) (r : Word) (l : Tile) : Prop := passes s who (windowAddr n.val w) false = true →
      Does (.tileWindowRead who n w) s (fun t => t.resp = .word r ∧ tileAt t n.val = l ∧ t.regs = s.regs)
    let write (w : TileWord) (l : Tile) : Prop := passes s who (windowAddr n.val w) true = true →
      Does (.tileWindowWrite who n w v) s (fun t => OnlyTile s t n.val ∧ tileAt t n.val = l)
    (o.fill = false →
      (Holds s n.val a.val x → read (.data a 0) (img 0) { o with latchD := some (a.val, [img 1, img 2, img 3, img 4, img 5]) }) ∧
      (k.val ≠ 0 → k.val < 6 → o.latchD = some (a.val, ws) → read (.data a k) (ws.getD (k.val - 1) 0) o) ∧
      (6 ≤ k.val → read (.data a k) 0 o) ∧
      (eccDecode 128 8 (SMap.get 0 o.imem b.val).toNat = .good y.toNat →
        read (.code b 0) (word 0) { o with latchI := some (b.val, [word 1, word 2, word 3]) }) ∧
      (j.val ≠ 0 → o.latchI = some (b.val, ws) → read (.code b j) (ws.getD (j.val - 1) 0) o) ∧
      (k.val < 5 → write (.data a k) { o with staged := SMap.put 0 o.staged k.val v }) ∧
      write (.data a 5) (stored167 o a.val
        (mkWord (st 0 + 2 ^ 32 * st 1 + 2 ^ 64 * st 2 + 2 ^ 96 * st 3 + 2 ^ 128 * st 4) (sext 6 v.toNat) (v.getLsbD 6).toNat)) ∧
      (6 ≤ k.val → write (.data a k) o) ∧
      (rdb s (Reg.TILE_CTRL n.val) 0 = false → j.val < 3 → write (.code b j) { o with staged := SMap.put 0 o.staged (8 + j.val) v }) ∧
      (rdb s (Reg.TILE_CTRL n.val) 0 = false → write (.code b 3) { o with
        imem := SMap.put 0 o.imem b.val (BitVec.ofNat 137 (eccEncode 128 8 (st 8 + 2 ^ 32 * st 9 + 2 ^ 64 * st 10 + 2 ^ 96 * v.toNat))),
        writeBacks := o.writeBacks.filter (fun w => !w.imem || w.addr != b.val) })) ∧
    (o.fill = true → passes s who (windowAddr n.val (.data a k)) false = true → Does (.tileWindowRead who n (.data a k)) s (fun t =>
      t.resp = .held ∧ tileAt t n.val = { o with heldAcc := o.heldAcc ++ [.window who (.data a k) none] })) ∧
    (o.fill = false → rdb s (Reg.TILE_CTRL n.val) 0 = true → passes s who (windowAddr n.val (.code b j)) true = true →
      Does (.tileWindowWrite who n (.code b j) v) s (fun t => t.tiles = s.tiles ∧ t.resp = s.resp))

/-- ECC_WRITEBACK puts the corrected word back; BACKGROUND_AGED grants the request that waits at the bank, a write-back, the next word of a transfer or the scrubber's read, and counts the stall it causes; TILE_SCRUB_READ reads the next word and bundle when its interval ends and counts a pass over the data memory; an instruction whose source an earlier one of class Lk is still to write issues k cycles after it, each cycle beyond the first counted as an interlock stall (R42, R45, R50, R53, R57, R61). -/
def Obligations.TileBackgroundCompletes : Prop :=
  ∀ (s u : State) (n : Fin 96) (w : WriteBack) (rest : List WriteBack) (bank : Fin 8) (dn : Bool) (x : BitVec 167) (y : Bundle)
    (c : Fin 2) (d : DmaDesc) (q : Option DmaDesc) (k l : Nat) (bs : List Byte), Awake s →
    tileOff s n.val = false →
    let o := tileAt s n.val
    let p := pipeAt s n.val
    let back : Tile := { o with
      writeBacks := o.writeBacks.filter (· != w)
      imem := if w.imem then SMap.put 0 o.imem w.addr (BitVec.ofNat 137 w.word) else o.imem
      dmem := if w.imem then o.dmem else SMap.put 0 o.dmem w.addr (BitVec.ofNat 176 w.word) }
    let counted (t : State) : Prop := pipeAt t n.val = { p with bankStalls := if dn then p.bankStalls + 1 else p.bankStalls }
    let due := o.scrubSince + 3 * 2 ^ (rdf s (Reg.TILE_SCRUB_CTRL n.val) 4 0 - 1)
    let scrubbed (t : State) : Prop :=
      tileAt t n.val = { o with
        scrubD := (o.scrubD + 1) % 8192, scrubI := (o.scrubI + 1) % 2048, scrubSince := max s.mono.toNat due } ∧
      t.mono.toNat = max s.mono.toNat due ∧
      rd t (Reg.TILE_SCRUB_PASS n.val) = rd s (Reg.TILE_SCRUB_PASS n.val) + (if o.scrubD = 8191 then 1 else 0) ∧
      RegsBut s t [Reg.TILE_SCRUB_PASS n.val]
    let ready : Prop := rdb s (Reg.TILE_SCRUB_CTRL n.val) 8 = true ∧ o.fill = false ∧ Holds s n.val o.scrubD x ∧ due < 2 ^ 64 ∧
      eccDecode 128 8 (SMap.get 0 o.imem o.scrubI).toNat = .good y.toNat
    let st := Reg.TILE_DMA_STAT n.val c.val
    (o.writeBacks = w :: rest → TileDone (.eccWriteback n) s n.val back) ∧
    (o.writeBacks = w :: rest → w.imem = false → w.addr % 8 = bank.val → Does (.backgroundAged n .writeBack bank dn) s (fun t =>
      tileAt t n.val = back ∧ counted t ∧ t.regs = s.regs)) ∧
    (o.fill = false → frozen s = false → SMap.get DmaChan.reset o.dma c.val = ⟨some d, q, k⟩ → d.out = false → k < dmaWords d →
      d.len = dmaWords d * dmaUnit d → (d.addr + k) % 8 = bank.val → dmaWords d ≤ 8192 →
      memRead s (dmaPort n.val c.val d.cls) (d.ext + k * dmaUnit d) (dmaUnit d) = (some bs, u) → u.tiles = s.tiles → u.pipes = s.pipes →
      Does (.backgroundAged n (.dma c) bank dn) s (fun t =>
        tileAt t n.val = { stored167 o (d.addr + k) (dmaInWord d bs) with
          dma := SMap.put DmaChan.reset o.dma c.val ⟨some d, q, k + 1⟩ } ∧
        rd t st = setFld (rd u st) 29 16 (k + 1) ∧ RegsBut u t [st] ∧ counted t)) ∧
    (ready → o.scrubD % 8 = bank.val → Does (.backgroundAged n .scrub bank dn) s (fun t => scrubbed t ∧ counted t)) ∧
    (o.writeBacks = [] → Does (.backgroundAged n .window bank dn) s (· = s) ∧ Does (.backgroundAged n .writeBack bank dn) s (· = s)) ∧
    (ready → Does (.tileScrubRead n) s scrubbed) ∧
    (∀ (r a b : BitVec 5) (mod : BitVec 7), canIssue s n.val = true → r.toNat < 16 → a.toNat < 16 → b.toNat < 16 → mod.toNat < 12 →
      l ≤ 4 → p.flights = [⟨0, [(rS a.toNat, l)], none, [], [], [], false, false⟩] → p.gap = 1 →
      Does (.salu n r a b 0 mod) s (fun t => (pipeAt t n.val).ilStalls = p.ilStalls + BitVec.ofNat 32 (l - 1)))

/-- REQUEST_WITHDRAWAL cancels the waiting bundle whose withdrawal reaches Traverse or the queue engine, its request with it, unless an answer has been committed, which wins (R113). -/
def Obligations.WithdrawalCompletes : Prop :=
  ∀ (s : State) (n : Fin 96) (b : Bundle), Awake s → frozen s = false →
    let o := tileAt s n.val
    o.wait = some ⟨b, true, true, .stop⟩ →
    (s.trv.inbox = [.ask n.val none, .withdraw n.val] → o.answer = none → Does (.requestWithdrawal n) s (fun t =>
      t.trv.inbox = [] ∧ tileAt t n.val = { o with wait := none } ∧ t.regs = s.regs)) ∧
    (s.trv.inbox = [.withdraw n.val] → o.answer ≠ none → Does (.requestWithdrawal n) s (fun t =>
      t.trv.inbox = [] ∧ t.tiles = s.tiles ∧ t.regs = s.regs)) ∧
    (s.trv.inbox = [] → n.val ∈ s.jq.withdraws → o.answer = none → Does (.requestWithdrawal n) s (fun t =>
      n.val ∉ t.jq.withdraws ∧ (∀ r ∈ t.jq.reqs, r.tile ≠ n.val) ∧ (∀ p ∈ t.jq.parked, p.1 ≠ n.val) ∧
      tileAt t n.val = { o with wait := none } ∧ t.regs = s.regs))

/-- A transfer of one word: inbound, the bytes read become the tile word of its format; outbound, the word's bytes are written; then done is set, the pending descriptor starts, and the words moved are reported. An access that fails stops the channel with err and code 5 (R59, R63). -/
def Obligations.TransferCompletes : Prop :=
  ∀ (s u : State) (n : Fin 96) (c : Fin 2) (d : DmaDesc) (q : Option DmaDesc) (bs : List Byte) (x : BitVec 167), Awake s →
    let o := tileAt s n.val
    let st := Reg.TILE_DMA_STAT n.val c.val
    let size := dmaUnit d
    let put (t : Tile) (z : DmaChan) : Tile := { t with dma := SMap.put DmaChan.reset t.dma c.val z }
    let done (t : State) : Prop := rdb t st 2 = true ∧ rdb t st 0 = q.isSome ∧ rdb t st 1 = false ∧
      rdf t st 29 16 = (if q.isSome then 0 else 1) ∧ RegsBut u t [st]
    o.fill = false → o.wait = none → d.len = size → SMap.get DmaChan.reset o.dma c.val = ⟨some d, q, 0⟩ →
    (d.out = false → memRead s (dmaPort n.val c.val d.cls) d.ext size = (some bs, u) → u.tiles = s.tiles → Does (.dmaTransferDone n c) s (fun t =>
      tileAt t n.val = put (stored167 o d.addr
        (if d.data20 then mkWord (leNat bs) (sext 6 d.exp) 0
         else mkWord (leNat (bs.take 20)) (sext 6 (bs.getD 20 0).toNat) ((bs.getD 20 0).toNat / 64 % 2))) ⟨q, none, 0⟩ ∧ done t)) ∧
    (d.out = true → Holds s n.val d.addr x →
      memWrite s (dmaPort n.val c.val d.cls) d.ext (leBytes 20 (x.toNat % 2 ^ 160) ++
        (if d.data20 then [] else BitVec.ofNat 8 (x.toNat / 2 ^ 160) :: List.replicate 11 0)) = (true, u) → u.tiles = s.tiles →
      Does (.dmaTransferDone n c) s (fun t => tileAt t n.val = put o ⟨q, none, 0⟩ ∧ done t)) ∧
    (d.out = false → memRead s (dmaPort n.val c.val d.cls) d.ext size = (none, u) → u.tiles = s.tiles → Does (.dmaErrorStop n c) s (fun t =>
      tileAt t n.val = put o ⟨none, none, 0⟩ ∧ rdb t st 3 = true ∧ rdf t st 6 4 = 5 ∧ rdf t st 29 16 = 0 ∧ rdb t st 0 = false ∧
      rdb t st 1 = false ∧ RegsBut u t [st]))

/-! ### Traverse (R136 to R167) -/

/-- TOKEN_ADDITION, alone in its cycle: a refused addition is counted and raises its flag; an accepted one moves tokens from the graph's free pool to the port, and makes an idle node ready once every port in use has its threshold (R137, R138, R140, R164). -/
def Obligations.TokenCompletes : Prop :=
  ∀ (s : State) (x : Fin 97) (e p k : Nat) (rest : List TrvMsg) (n : NodeE) (g : GraphE), Awake s → frozen s = false →
    s.trv.inbox = .tokens x.val e p k :: rest → s.trv.cycle = none →
    let c := n.counts.getD p 0
    let cs := n.counts.set p (c + k)
    let total := n.thr.sum
    let full : Prop := n.state = .idle ∧ ∀ q ∈ List.zip cs n.thr, q.2 = 0 ∨ q.2 ≤ q.1
    let key := 64 * n.cluster + n.prio
    let refused (t : State) : Prop := rd t Reg.TRV_TOK_REFUSED = rd s Reg.TRV_TOK_REFUSED + 1 ∧
      rd t Reg.TRV_INT_STAT = rd s Reg.TRV_INT_STAT ||| 8 ∧ t.trv.entries = s.trv.entries ∧ t.trv.ready = s.trv.ready ∧
      t.trv.inbox = rest ∧ RegsBut s t [Reg.TRV_TOK_REFUSED, Reg.TRV_INT_STAT]
    ((∀ m, getE s e ≠ .node m) → Does (.tokenAddition x) s refused) ∧
    (getE s e = .node n → n.ext = false → n.counts.length = 4 → n.thr.length = 4 → p < 4 → getE s n.graph = .graph g →
      (n.state = .cancelPending ∨ n.state = .cancelled ∨ n.thr.getD p 0 = 0 ∨ 255 < c + k ∨ g.free < k →
        (n.state = .idle → ∃ q ∈ List.zip n.counts n.thr, q.2 ≠ 0 ∧ q.1 < q.2) → Does (.tokenAddition x) s refused) ∧
      (n.state ≠ .cancelPending → n.state ≠ .cancelled → n.thr.getD p 0 ≠ 0 → c + k ≤ 255 → k ≤ g.free →
        (¬ full → Does (.tokenAddition x) s (fun t => getE t e = .node { n with counts := cs } ∧
          getE t n.graph = .graph { g with free := g.free - k, ported := g.ported + k } ∧ t.trv.ready = s.trv.ready ∧
          t.trv.inbox = rest ∧ RegsBut s t [] ∧ ∀ i, i ≠ e → i ≠ n.graph → getE t i = getE s i)) ∧
        (full → Does (.tokenAddition x) s (fun t =>
          getE t e = .node { n with counts := List.zipWith (· - ·) cs n.thr, state := .ready, readyAt := s.mono.toNat / 2 + 1 } ∧
          getE t n.graph = .graph { g with free := g.free - k, ported := g.ported + k - total, inFlight := g.inFlight + total, busy := g.busy + 1 } ∧
          readyAtKey t key = readyAtKey s key ++ [e] ∧ t.trv.inbox = rest ∧ RegsBut s t [] ∧
          (∀ i, i ≠ e → i ≠ n.graph → getE t i = getE s i) ∧ ∀ j, j ≠ key → readyAtKey t j = readyAtKey s j))))

/-- ASK_ARRIVAL puts the asking tile behind those that asked in earlier cycles, and by index among those of its cycle; DISPATCH gives the oldest asking tile the head node of the lowest level, in the cycle after its link and the ask at the earliest; HOST_DOORBELL_ARRIVAL sets the doorbell's bit (R121, R128, R148, R149). -/
def Obligations.DispatchCompletes : Prop :=
  ∀ (s : State) (tile : Fin 96) (cl : Fin 12) (d w p i : Nat) (us vs ws q : List Nat) (rest : List TrvMsg) (n : NodeE), Awake s →
    let asking (s : State) (c : Nat) : List Nat := SMap.get [] s.trv.asking c
    let asked (u : Nat) : Nat := SMap.get 0 s.trv.askedAt u
    let now := s.mono.toNat / 2 + 1
    let before (u : Nat) : Prop := asked u < now ∨ u < tile.val
    let record : Answer := .dispatch (BitVec.ofNat 32 (2 ^ 16 * p + 2 ^ 15 * n.late.toNat + i)) n.arg
    let given (t : State) : Prop :=
      (tileAt t w).answer = some record ∧ getE t i = .node { n with state := .running, late := false } ∧
      readyAtKey t (64 * cl.val + p) = q ∧ asking t cl.val = ws ∧ t.regs = s.regs ∧ (∀ m, m ≠ w → tileAt t m = tileAt s m) ∧
      ∀ j, j ≠ i → getE t j = getE s j
    (frozen s = false → s.trv.inbox = .ask tile.val none :: rest → asking s (tile.val / 8) = us ++ vs → (∀ u ∈ us, before u) →
      (∀ v ∈ vs.head?, ¬ before v) → Does (.askArrival tile) s (fun t =>
        asking t (tile.val / 8) = us ++ tile.val :: vs ∧ SMap.get 0 t.trv.askedAt tile.val = now ∧ t.trv.inbox = rest ∧
        t.regs = s.regs ∧ t.tiles = s.tiles ∧ ∀ c, c ≠ tile.val / 8 → asking t c = asking s c)) ∧
    (frozen s = false → rdb s Reg.TRV_CTRL 0 = true → asking s cl.val = w :: ws → p < 64 → (∀ j, j < p → readyAtKey s (64 * cl.val + j) = []) →
      readyAtKey s (64 * cl.val + p) = i :: q → i ∉ q → getE s i = .node n → n.cluster = cl.val → n.prio = p →
      (n.readyAt + 2 ≤ now → asked w < now → (∀ x ∈ s.trv.picks, x.cluster = cl.val → x.cycle < now) →
        Does (.dispatch cl) s (fun t => given t ∧ t.mono = s.mono)) ∧
      (q = [] → (∀ j, j < 64 → j ≠ p → readyAtKey s (64 * cl.val + j) = []) → (∀ x ∈ s.trv.picks, x.cluster ≠ cl.val) →
        n.readyAt < 2 ^ 62 → asked w < 2 ^ 62 → Does (.dispatch cl) s (fun t => given t ∧
          t.mono.toNat = max s.mono.toNat (2 * (max (n.readyAt + 2) (asked w + 1) - 1))))) ∧
    (s.trv.inbox = .hostDb tile.val d :: rest → Does (.hostDoorbellArrival tile) s (fun t =>
      rd t (Reg.TRV_HDB_STAT (d / 32)) = rd s (Reg.TRV_HDB_STAT (d / 32)) ||| BitVec.ofNat 32 (2 ^ (d % 32)) ∧
      t.trv = { s.trv with inbox := rest } ∧ RegsBut s t [Reg.TRV_HDB_STAT (d / 32)]))

/-- NODE_END, alone in its cycle: status 0 returns the node's tokens and leaves it idle, 1 makes it ready again with its tokens, 2 and above halt it and report it; a node whose cancellation waited is cancelled (R151, R161). -/
def Obligations.NodeEndCompletes : Prop :=
  ∀ (s : State) (tile : Fin 96) (i st : Nat) (rest : List TrvMsg) (n : NodeE) (g : GraphE), Awake s → frozen s = false →
    s.trv.inbox = .nodeEnd tile.val i st :: rest → s.trv.cycle = none → getE s i = .node n → n.ext = false → n.counts.length = 4 →
    n.thr.length = 4 → getE s n.graph = .graph g →
    let total := n.thr.sum
    let key := 64 * n.cluster + n.prio
    let back : Entry := .graph { g with inFlight := g.inFlight - total, free := g.free + total, busy := g.busy - 1 }
    let into (z : NodeState) (t : State) : Prop := getE t i = .node { n with state := z } ∧ getE t n.graph = back ∧
      t.trv.inbox = rest ∧ t.trv.ready = s.trv.ready ∧ ∀ j, j ≠ i → j ≠ n.graph → getE t j = getE s j
    (n.state = .running → st = 0 → (∃ q ∈ List.zip n.counts n.thr, q.2 ≠ 0 ∧ q.1 < q.2) → Does (.nodeEnd tile) s (fun t =>
      into .idle t ∧ RegsBut s t [])) ∧
    (n.state = .running → st = 1 → Does (.nodeEnd tile) s (fun t =>
      getE t i = .node { n with state := .ready, readyAt := s.mono.toNat / 2 + 1 } ∧
      getE t n.graph = .graph g ∧ readyAtKey t key = readyAtKey s key ++ [i] ∧ t.trv.inbox = rest ∧ RegsBut s t [])) ∧
    (n.state = .running → 2 ≤ st → Does (.nodeEnd tile) s (fun t => into .halted t ∧ rd t Reg.TRV_ERR_NODE = BitVec.ofNat 32 i ∧
      rd t Reg.TRV_INT_STAT = rd s Reg.TRV_INT_STAT ||| 4 ∧
      rd t Reg.TRV_BAD_STATUS = (if st = 2 then rd s Reg.TRV_BAD_STATUS else rd s Reg.TRV_BAD_STATUS + 1) ∧
      RegsBut s t [Reg.TRV_ERR_NODE, Reg.TRV_INT_STAT, Reg.TRV_BAD_STATUS])) ∧
    (n.state = .cancelPending → Does (.nodeEnd tile) s (fun t => into .cancelled t ∧ RegsBut s t []))

/-- TICK_BOUNDARY takes time to the first count of the next tick and begins the firings of the lists whose head is due, a list whose earlier firings are not done or whose placement is under way waiting; TIMER_PLACEMENT arms a timer in its place on its list; TIMER_FIRING fires the next due timer: its tokens are added, it leaves the list, and a periodic one is placed again when its list's firings are done (R153 to R160). -/
def Obligations.TimerCompletes : Prop :=
  ∀ (s : State) (cl : Fin 12) (i f : Nat) (is js ks held : List Nat) (x : TimerE) (n : NodeE) (g : GraphE), Awake s → frozen s = false →
    let mult := rdf s Reg.TRV_TICK_CFG 8 0
    let now := 2 * s.mono.toNat / (78125 * mult)
    let start (k : Nat) : Nat := (k * mult * 78125 + 1) / 2
    let k := if s.trv.tick ≠ now ∧ s.mono.toNat = start now then now else now + 1
    let on := rdb s Reg.TRV_CTRL 0
    let due : List Nat := (delayList s cl.val).takeWhile (fun i => !inFuture (wakeOf s i) k)
    let late (j : Nat) : Bool := !inFuture (wakeOf s j) now
    let dist (j : Nat) : Nat := (wakeOf s j + 2 ^ 32 - now % 2 ^ 32) % 2 ^ 32
    let before (j : Nat) : Prop := if late i = true then ∃ y, getE s j = .timer y ∧ y.late = true else late j = true ∨ dist j ≤ dist i
    let gone (x : TimerE) : Entry :=
      .timer { x with armed := false, late := false, wake := if x.period = 0 then x.wake else (x.wake + x.period) % 2 ^ 32 }
    let again : List Nat := if x.period = 0 then held else held ++ [i]
    (0 < mult → start k < 2 ^ 64 → Does .tickBoundary s (fun t => t.trv.tick = k ∧ t.mono.toNat = start k ∧ t.trv.delay = s.trv.delay ∧
      t.trv.entries = s.trv.entries ∧ t.tiles = s.tiles ∧
      (on = true → firings s cl.val = [] → placings s cl.val = [] → firings t cl.val = if due = [] then [] else [⟨k, some due, []⟩]) ∧
      (on = true → firings s cl.val = [] → placings s cl.val ≠ [] → firings t cl.val = [⟨k, none, []⟩]) ∧
      (on = true → firings s cl.val ≠ [] → firings t cl.val = firings s cl.val ++ [⟨k, none, []⟩] ∧ rdb t Reg.TRV_INT_STAT 4 = true) ∧
      (on = false → firings t cl.val = firings s cl.val ∧ t.regs = s.regs))) ∧
    (placings s cl.val = i :: is → getE s i = .timer x → firings s cl.val = [] → delayList s cl.val = js ++ ks → i ∉ js ++ ks →
      (∀ j ∈ js, before j) → (∀ j ∈ ks.head?, ¬ before j) → Does (.timerPlacement cl) s (fun t =>
        getE t i = .timer { x with armed := true, late := late i } ∧ delayList t cl.val = js ++ i :: ks ∧ placings t cl.val = is ∧
        t.regs = s.regs ∧ ∀ j, j ≠ i → getE t j = getE s j)) ∧
    (on = true → firings s cl.val = [⟨f, some (i :: is), held⟩] → getE s i = .timer x → s.trv.cycle = none → placings s cl.val = [] →
      getE s x.target = .node n → n.ext = false → n.counts.length = 4 → n.thr.length = 4 → getE s n.graph = .graph g →
      let c := n.counts.getD x.port 0
      x.port < 4 → n.state = .running → n.thr.getD x.port 0 ≠ 0 → c + x.count ≤ 255 → x.count ≤ g.free →
      Does (.timerFiring cl) s (fun t =>
        getE t i = gone x ∧ getE t x.target = .node { n with counts := n.counts.set x.port (c + x.count), late := n.late || x.late } ∧
        getE t n.graph = .graph { g with free := g.free - x.count, ported := g.ported + x.count } ∧
        delayList t cl.val = (delayList s cl.val).filter (· != i) ∧
        firings t cl.val = (if is = [] then [] else [⟨f, some is, again⟩]) ∧ placings t cl.val = (if is = [] then again else []) ∧
        rd t Reg.TRV_LATE_FIRE = (if x.late then rd s Reg.TRV_LATE_FIRE + 1 else rd s Reg.TRV_LATE_FIRE) ∧ t.mono = s.mono)) ∧
    (on = true → firings s cl.val = [⟨f, some [i], []⟩] → getE s i = .timer x → s.trv.cycle = none → placings s cl.val = [] →
      x.late = false → (∀ m, getE s x.target ≠ .node m) → Does (.timerFiring cl) s (fun t =>
        getE t i = gone x ∧ firings t cl.val = [] ∧ rd t Reg.TRV_TOK_REFUSED = rd s Reg.TRV_TOK_REFUSED + 1))

/-- The commands of TRV_CMD where none is under way: each acts on an entry of its kind in a state that allows it, and reports done; the refusals stated here report the code of Table 5.15 and change no entry. A write while a load is under way reports BUSY alone. A cancellation wins over the node's ready event and its dispatch selection of the same cycle, DISARM over its timer's firing (R145 to R147, R152, R159, R161 to R163, R165). -/
def Obligations.TraverseCommandCompletes : Prop :=
  ∀ (s u : State) (who : Who) (i : BitVec 15) (o : Fin 6) (n : NodeE) (g : GraphE) (x : TimerE) (img : List Byte) (code w : Nat)
    (oc : TrvCycle) (rec arg : Word), Awake s → frozen s = false → passes s who Reg.TRV_CMD true = true →
    let e := getE s i.toNat
    let stat := Reg.TRV_CMD_STAT
    let ended (t : Trv) : Trv := { t with cycle := none, picks := [] }
    let done (t : State) : Prop := rdf t stat 4 0 = 0 ∧ rdb t stat 30 = true ∧ rdb t Reg.TRV_INT_STAT 0 = true
    let fails (code : Nat) (t : State) : Prop := rdf t stat 4 0 = code ∧ rdb t stat 29 = true ∧ rdb t Reg.TRV_INT_STAT 1 = true ∧
      t.trv = ended s.trv
    let addr := (rd s Reg.TRV_CMD_ARG0).toNat + 2 ^ 32 * rdf s Reg.TRV_CMD_ARG1 15 0
    let rest (t : State) : Prop := ∀ j, j ≠ i.toNat → getE t j = getE s j
    let plain (n : NodeE) : Prop := n.ext = false ∧ n.counts.length = 4 ∧ n.thr.length = 4
    let counts := n.counts.sum
    let total := n.thr.sum
    let now := s.mono.toNat / 2 + 1
    let key := 64 * n.cluster + n.prio
    let alone : Prop := s.trv.cycle = none ∧ s.trv.picks = []
    (s.trv.loading ≠ none → Does (.unload who i) s (fun t => rdf t stat 4 0 = 1 ∧ rdb t stat 29 = true ∧ t.trv = s.trv ∧ RegsBut s t [stat])) ∧
    (s.trv.loading = none →
    (loadCheck s i.toNat addr = (0, img, u) → Does (.load who i) s (fun t => t.trv.loading = some ⟨i.toNat, img⟩ ∧ rdb t stat 31 = true ∧
      t.trv.entries = u.trv.entries)) ∧
    (loadCheck s i.toNat addr = (code, img, u) → code ≠ 0 → code < 32 → Does (.load who i) s (fun t =>
      rdf t stat 4 0 = code ∧ rdb t stat 29 = true ∧ t.trv = ended u.trv)) ∧
    (addr % 64 ≠ 0 → Does (.load who i) s (fails 2)) ∧
    (e = .graph g → (g.cancelled = true ∧ g.busy = 0 ∧ g.free = g.total) → Does (.unload who i) s (fun t => done t ∧
      (∀ j, j < g.length → getE t (i.toNat + j) = .free) ∧ ∀ j, j < i.toNat ∨ i.toNat + g.length ≤ j → getE t j = getE s j)) ∧
    (e = .graph g → ¬ (g.cancelled = true ∧ g.busy = 0 ∧ g.free = g.total) → Does (.unload who i) s (fails 12)) ∧
    (e = .node n → plain n → getE s n.graph = .graph g →
      let gone (g : GraphE) : Entry := .graph { g with ported := g.ported - counts, free := g.free + counts }
      let ungone : Entry := .graph { g with
        ported := g.ported - counts, inFlight := g.inFlight - total, free := g.free + counts + total, busy := g.busy - 1 }
      let none4 : List Nat := [0, 0, 0, 0]
      (n.state = .idle ∨ n.state = .halted → Does (.cancelNode who i) s (fun t => done t ∧
        getE t i.toNat = .node { n with state := .cancelled, counts := none4 } ∧ getE t n.graph = gone g)) ∧
      (n.state = .running → s.trv.picks = [] → Does (.cancelNode who i) s (fun t => done t ∧
        getE t i.toNat = .node { n with state := .cancelPending, counts := none4 } ∧ getE t n.graph = gone g)) ∧
      (n.state = .cancelPending ∨ n.state = .cancelled → Does (.cancelNode who i) s (fun t => done t ∧ rest t ∧ getE t i.toNat = e)) ∧
      (n.state = .ready → s.trv.cycle = none → Does (.cancelNode who i) s (fun t => done t ∧
        getE t i.toNat = .node { n with state := .cancelled, counts := none4 } ∧ getE t n.graph = ungone ∧
        readyAtKey t key = (readyAtKey s key).filter (· != i.toNat) ∧ rd t Reg.TRV_RDY_DISCARD = rd s Reg.TRV_RDY_DISCARD)) ∧
      (n.state = .ready → s.trv.cycle = some oc → oc.number = now → oc.after = books s → n.readyAt = now → .ends i.toNat 1 ∉ oc.evs →
        Does (.cancelNode who i) s (fun t => done t ∧ getE t i.toNat = .node { n with state := .cancelled, counts := none4 } ∧
          rd t Reg.TRV_RDY_DISCARD = rd s Reg.TRV_RDY_DISCARD + 1)) ∧
      (n.state = .running → s.trv.picks = [⟨n.cluster, w, i.toNat, now⟩] → (tileAt s w).answer = some (.dispatch rec arg) →
        Does (.cancelNode who i) s (fun t => done t ∧ getE t i.toNat = .node { n with state := .cancelled, counts := none4 } ∧
          (tileAt t w).answer = none ∧ SMap.get [] t.trv.asking n.cluster = w :: SMap.get [] s.trv.asking n.cluster))) ∧
    (e = .graph { g with length := 1 } → Does (.cancelGraph who i) s (fun t => done t ∧ rest t ∧
      getE t i.toNat = .graph { g with length := 1, cancelled := true })) ∧
    (e = .graph { g with length := 2 } → getE s (i.toNat + 1) = .node n → plain n → n.graph = i.toNat → n.state = .idle →
      Does (.cancelGraph who i) s (fun t => done t ∧
        getE t i.toNat = .graph { g with length := 2, cancelled := true, ported := g.ported - counts, free := g.free + counts } ∧
        getE t (i.toNat + 1) = .node { n with state := .cancelled, counts := [0, 0, 0, 0] })) ∧
    (e = .node n → plain n → alone → n.thr.getD (rdf s Reg.TRV_CMD_ARG0 2 0) 0 = 0 → n.state = .running → Does (.addTok who i) s (fun t =>
      rdf t stat 4 0 = 14 ∧ rdb t stat 29 = true ∧ rd t Reg.TRV_TOK_REFUSED = rd s Reg.TRV_TOK_REFUSED + 1 ∧ rest t ∧ getE t i.toNat = e)) ∧
    (e = .node n → plain n → alone → getE s n.graph = .graph g → n.state = .running →
      let p := rdf s Reg.TRV_CMD_ARG0 2 0
      let k := rdf s Reg.TRV_CMD_ARG0 15 8
      p < 4 → n.thr.getD p 0 ≠ 0 → n.counts.getD p 0 + k ≤ 255 → k ≤ g.free → Does (.addTok who i) s (fun t => done t ∧
        getE t i.toNat = .node { n with counts := n.counts.set p (n.counts.getD p 0 + k) } ∧
        getE t n.graph = .graph { g with free := g.free - k, ported := g.ported + k })) ∧
    (e = .timer x → getE s x.target = .node n → firings s n.cluster = [] → Does (.arm who i) s (fun t => done t ∧ rest t ∧
      let w := (rd s Reg.TRV_CMD_ARG0).toNat
      let w := (if rdb s Reg.TRV_CMD_ARG1 0 then tickNow s + w else w) % 2 ^ 32
      getE t i.toNat = .timer { x with armed := false, late := false, wake := w } ∧
      placings t n.cluster = (placings s n.cluster).filter (· != i.toNat) ++ [i.toNat] ∧
      delayList t n.cluster = (delayList s n.cluster).filter (· != i.toNat))) ∧
    (e = .timer x → getE s x.target = .node n → firings s n.cluster = [] → s.trv.cycle = none → Does (.disarm who i) s (fun t =>
      done t ∧ rest t ∧ getE t i.toNat = .timer { x with armed := false, late := false } ∧
      placings t n.cluster = (placings s n.cluster).filter (· != i.toNat) ∧
      delayList t n.cluster = (delayList s n.cluster).filter (· != i.toNat))) ∧
    ((∃ y, e = .timer y) → s.trv.cycle = some oc → oc.number = now → oc.after = books s → oc.evs = [.fire i.toNat] → oc.before.regs.length = 5 →
      SMap.get .free oc.before.entries i.toNat = .timer x → SMap.get .free oc.before.entries x.target = .node n → firings s n.cluster = [] →
      Does (.disarm who i) s (fun t => done t ∧ getE t i.toNat = .timer { x with armed := false, late := false } ∧
        ∀ j, j ≠ i.toNat → getE t j = SMap.get .free oc.before.entries j)) ∧
    (e = .node n → plain n → n.state = .halted → (∃ q ∈ List.zip n.counts n.thr, q.2 ≠ 0 ∧ q.1 < q.2) → Does (.resume who i) s (fun t =>
      done t ∧ rest t ∧ getE t i.toNat = .node { n with state := .idle })) ∧
    (e = .node n → n.state ≠ .halted → Does (.resume who i) s (fails 12)) ∧
    (96 ≤ i.toNat → Does (.release who i) s (fails 15)) ∧
    (i.toNat < 96 → rdb s (Reg.TILE_CTRL i.toNat) 0 = false → (tileAt s i.toNat).wait = none → rdb s (Reg.TILE_TASK i.toNat) 31 = true →
      let j := rdf s (Reg.TILE_TASK i.toNat) 14 0
      s.trv.cycle = none → getE s j = .node n → plain n → getE s n.graph = .graph g →
      (n.state = .cancelPending → Does (.release who i) s (fun t => done t ∧
        rdb t (Reg.TILE_TASK i.toNat) 31 = false ∧ getE t j = .node { n with state := .cancelled })) ∧
      (n.state = .running → rdf s Reg.TRV_CMD_ARG0 7 0 = 2 → Does (.release who i) s (fun t => done t ∧
        rdb t (Reg.TILE_TASK i.toNat) 31 = false ∧ getE t j = .node { n with state := .halted } ∧
        rd t Reg.TRV_ERR_NODE = BitVec.ofNat 32 j))) ∧
    (e = .free → Does (.readEntry who i) s (fun t => done t ∧ t.trv = ended s.trv ∧ ∀ k, k < 4 → rd t (Reg.TRV_CMD_DATA k) = 0)) ∧
    (e = .graph g → Does (.readEntry who i) s (fun t => done t ∧ t.trv = ended s.trv ∧
      rd t (Reg.TRV_CMD_DATA 0) = BitVec.ofNat 32 (2 ^ 29 + 2 ^ 26 * g.cancelled.toNat + g.length) ∧
      rd t (Reg.TRV_CMD_DATA 1) = BitVec.ofNat 32 (2 ^ 16 * g.total + g.free) ∧
      rd t (Reg.TRV_CMD_DATA 2) = BitVec.ofNat 32 (2 ^ 16 * g.inFlight + g.ported) ∧
      rd t (Reg.TRV_CMD_DATA 3) = BitVec.ofNat 32 (2 ^ 24 * g.version + g.busy))) ∧
    Does (.trvReservedOp who o i) s (fails 17))

/-- LOAD_COMPLETE makes a checked descriptor resident: the graph's pool and the entries of its image; TRV_ENABLE and TICK_MULT_WRITE write their fields; the snapshot latches the four token sums (R146, R153, R167). -/
def Obligations.TraverseControlCompletes : Prop :=
  ∀ (s : State) (who : Who) (v : Word) (base : Nat) (img : List Byte), Awake s →
    let c := Reg.TRV_CTRL
    let held : Prop := effMode s ∈ [0, 1, 2, 3, 11]
    let sum (f : GraphE → Nat) : Word := BitVec.ofNat 32 ((s.trv.entries.map (fun e => match e.2 with
      | .graph g => f g
      | _ => 0)).sum)
    let cnt := imgCounts img 2
    let total := slice (imgW img 0 1) 31 16
    (frozen s = false → s.trv.loading = some ⟨base, img⟩ → slice (imgW img 0 0) 15 0 = 2 → imgKind img 0 = 1 → imgKind img 1 = 2 →
      (imgW img 1 0).testBit 15 = false → (∃ q ∈ imgPorts img 1, q.2 ≠ 0 ∧ q.1 < q.2) → Does .loadComplete s (fun t =>
        t.trv.loading = none ∧ rdb t Reg.TRV_CMD_STAT 31 = false ∧ rdb t Reg.TRV_CMD_STAT 30 = true ∧ rdf t Reg.TRV_CMD_STAT 4 0 = 0 ∧
        getE t base = .graph ⟨false, 2, total, total - cnt, 0, cnt, slice (imgW img 0 3) 31 24, 0⟩ ∧
        getE t (base + 1) = imgEntry img base (tickNow s) 1 ∧ ∀ j, j ≠ base → j ≠ base + 1 → getE t j = getE s j)) ∧
    (passes s who c true = true → v.getLsbD 0 = true → ¬ held → Does (.trvEnable who v) s (fun t =>
      rd t c = setBit (rd s c) 0 true ∧ t.trv = s.trv ∧ RegsBut s t [c])) ∧
    (passes s who c true = true → v.getLsbD 0 = true → held → Does (.trvEnable who v) s (fun t => t = s)) ∧
    (passes s who c true = true → v.getLsbD 0 = false → Does (.trvEnable who v) s (fun t =>
      rd t c = setBit (rd s c) 0 false ∧ t.trv.entries = s.trv.entries ∧ RegsBut s t [c] ∧
      ∀ k, k < 12 → firings t k = [] ∧ placings t k = placings s k ++ (firings s k).flatMap (·.held))) ∧
    (passes s who Reg.TRV_TICK_CFG true = true → rdb s c 0 = false → Does (.tickMultWrite who v) s (fun t =>
      rd t Reg.TRV_TICK_CFG = BitVec.ofNat 32 (max 1 (min 320 (fld v 8 0))) ∧ t.trv.tick = tickNow t ∧ RegsBut s t [Reg.TRV_TICK_CFG])) ∧
    (passes s who Reg.TRV_TICK_CFG true = true → rdb s c 0 = true → Does (.tickMultWrite who v) s (fun t => t = s)) ∧
    (passes s who Reg.TRV_AUD_SNAP true = true → Does (.trvAuditSnapshot who) s (fun t =>
      rd t Reg.TRV_AUD_TOTAL = sum (·.total) ∧ rd t Reg.TRV_AUD_FREE = sum (·.free) ∧ rd t Reg.TRV_AUD_PORTED = sum (·.ported) ∧
      rd t Reg.TRV_AUD_INFLIGHT = sum (·.inFlight) ∧ t.trv = s.trv ∧
      RegsBut s t [Reg.TRV_AUD_TOTAL, Reg.TRV_AUD_FREE, Reg.TRV_AUD_PORTED, Reg.TRV_AUD_INFLIGHT]))

/-! ### The queue engine (R169 to R193) -/

/-- QUEUE_PUSH: an append-mode push goes behind the newest item, a full queue first losing its oldest one; a placement-mode push goes to the place of its sequence number, unless it comes late or twice; the item that a tile waits for is delivered to it; a bound queue's node gets its token; a push to a queue that is not enabled is refused and counted (R174 to R176, R180, R187). -/
def Obligations.QueuePushCompletes : Prop :=
  ∀ (s : State) (p : JqPush) (rest : List JqPush) (t0 : Nat), Awake s → frozen s = false → s.jq.disposal.length ≤ 768 →
    s.jq.inbox = p :: rest → p.frame = none → (rest ≠ [] ∨ s.pkt.inq = []) →
    let q := p.queue
    let x := queueAt s q
    (x.en = false → Does .queuePush s (fun t => t.jq = { s.jq with inbox := rest } ∧
      rd t Reg.PKT_RX_QREFUSED = rd s Reg.PKT_RX_QREFUSED + 1 ∧ t.trv = s.trv ∧ t.tiles = s.tiles)) ∧
    (x.en = true → x.fpend = false → x.hi = 0 → x.above = false → x.mstate = .none → x.rp ≤ x.wp → x.rseq < 65536 →
    let y : Queue := { x with bnd := p.item.getLsbD 31, member := groupOf x }
    let d := (p.seq + 65536 - x.rseq) % 65536
    let token (t : State) : Prop := t.trv.inbox = s.trv.inbox ++
      (if x.bind = true ∧ (x.perPkt = false ∨ p.item.getLsbD 31 = true) then [.tokens 96 x.entry x.port 1] else [])
    let took (x' : Queue) (at' : Nat) (t : State) : Prop := queueAt t q = x' ∧ SMap.get 0 t.jq.slots (x.base + at' % depthOf x) = p.item ∧
      SMap.get false t.jq.present (x.base + at' % depthOf x) = true ∧ t.jq.inbox = rest ∧ t.jq.pushes = s.jq.pushes + 1 ∧ token t ∧
      (∀ r, r ≠ q → queueAt t r = queueAt s r)
    let dropped (item : Word) (reason : Nat) (t : State) : Prop :=
      t.jq.disposal = s.jq.disposal ++ [⟨item, reason, q, x.disc⟩] ∧ t.jq.discs = s.jq.discs + 1
    (x.place = false → x.wp = x.rp → s.jq.parked = [(t0, q)] → Does .queuePush s (fun t =>
      tileAt t t0 = { tileAt s t0 with answer := some (.item p.item) } ∧ t.jq.parked = [] ∧ t.jq.takes = s.jq.takes + 1 ∧
      queueAt t q = { y with wp := x.wp + 1, rp := x.rp + 1 } ∧ t.regs = s.regs)) ∧
    (s.jq.parked = [] →
      (x.place = false → x.wp - x.rp < depthOf x → Does .queuePush s (fun t => took { y with wp := x.wp + 1 } x.wp t ∧ t.regs = s.regs ∧
        t.jq.disposal = s.jq.disposal)) ∧
      (x.place = false → x.wp - x.rp = depthOf x → Does .queuePush s (fun t =>
        took { y with wp := x.wp + 1, rp := x.rp + 1, lost := x.lost + 1 } x.wp t ∧
        (presentAt s x x.rp = true → dropped (slotAt s x x.rp) 1 t ∧ rd t Reg.JQ_LOST_TOTAL_LO = rd s Reg.JQ_LOST_TOTAL_LO + 1) ∧
        RegsBut s t [Reg.JQ_LOST_TOTAL_LO, Reg.JQ_LOST_TOTAL_HI, Reg.JQ_INT_STAT])) ∧
      (x.place = true → x.sync = true → d < 32768 → d < depthOf x → x.rp + d < x.wp → presentAt s x (x.rp + d) = false →
        Does .queuePush s (fun t => took y (x.rp + d) t ∧ t.regs = s.regs)) ∧
      (x.place = true → x.sync = true → d < 32768 → d < depthOf x → x.wp ≤ x.rp + d → Does .queuePush s (fun t =>
        took { y with wp := x.rp + d + 1 } (x.rp + d) t ∧ t.regs = s.regs)) ∧
      (x.place = true → x.sync = true → d < 32768 → d < depthOf x → x.rp + d < x.wp → presentAt s x (x.rp + d) = true →
        Does .queuePush s (fun t => queueAt t q = { y with dup := x.dup + 1 } ∧ dropped p.item 3 t)) ∧
      (x.place = true → x.sync = true → 32768 ≤ d → Does .queuePush s (fun t =>
        queueAt t q = { y with late := x.late + 1 } ∧ dropped p.item 2 t))))

/-- QUEUE_REQUEST and PARKED_DELIVERY: the five operations of a tile on an enabled queue and their answers, a take of an absent item being parked until the item is there; a request that names no enabled queue gets a QUEUE fault (R126, R179 to R182). -/
def Obligations.QueueRequestCompletes : Prop :=
  ∀ (s : State) (t0 : Nat) (op : JqOp) (sa : Nat) (rest : List JqReq), Awake s → frozen s = false → s.jq.reqs = ⟨t0, op, sa⟩ :: rest →
    let x := queueAt s sa
    let here := itemAtRp s x
    let told (a : Answer) (t : State) : Prop := tileAt t t0 = { tileAt s t0 with answer := some a } ∧ (∀ m, m ≠ t0 → tileAt t m = tileAt s m) ∧
      t.jq.reqs = rest ∧ t.regs = s.regs
    let held : Queue := { x with member := groupOf x }
    let step : Queue := { held with rp := x.rp + 1, rseq := if x.place then (x.rseq + 1) % 65536 else x.rseq }
    let lone (y : Queue) (t : State) : Prop := queueAt t sa = y ∧ ∀ r, r ≠ sa → queueAt t r = queueAt s r
    (s.jq.parked = [] → (65536 ≤ sa ∨ (queueAt s (sa % 65536)).en = false) → Does .queueRequest s (fun t => told .queueFault t ∧
      t.jq = { s.jq with reqs := rest })) ∧
    (s.jq.parked = [] → sa < 65536 → x.en = true → x.hi = 0 → x.above = false →
      (op = .take → here = true → Does .queueRequest s (fun t => told (.item (slotAt s x x.rp)) t ∧ lone step t ∧
        t.jq.takes = s.jq.takes + 1)) ∧
      (op = .take → here = false → Does .queueRequest s (fun t => t.jq = { s.jq with reqs := rest, parked := [(t0, sa)] } ∧
        t.tiles = s.tiles ∧ t.regs = s.regs)) ∧
      (op = .peek → Does .queueRequest s (fun t => told (if here then .peek true (slotAt s x x.rp) else .peek false 0) t ∧ lone x t)) ∧
      (op = .skip → x.rp = x.wp → Does .queueRequest s (fun t => told (.code 2) t ∧ lone x t)) ∧
      (op = .skip → x.rp < x.wp → presentAt s x x.rp = true → Does .queueRequest s (fun t => told (.code 1) t ∧ lone x t)) ∧
      (op = .skip → x.rp < x.wp → presentAt s x x.rp = false → Does .queueRequest s (fun t => told (.code 0) t ∧ lone step t)) ∧
      (op = .mark → Does .queueRequest s (fun t => told .ack t ∧ lone { held with mark := x.rp, mstate := .valid } t)) ∧
      (op = .rewind → x.mstate = .none → Does .queueRequest s (fun t => told (.code 2) t ∧ lone x t)) ∧
      (op = .rewind → x.mstate = .lost → Does .queueRequest s (fun t => told (.code 1) t ∧ lone x t)) ∧
      (op = .rewind → x.mstate = .valid → x.place = false → Does .queueRequest s (fun t => told (.code 0) t ∧ lone { held with rp := x.mark } t ∧
        t.jq.rewound = s.jq.rewound + BitVec.ofNat 32 ((positions x.mark x.rp).filter (presentAt s x)).length))) ∧
    (s.jq.parked = [(t0, sa)] → x.hi = 0 → x.above = false → here = true → Does .parkedDelivery s (fun t =>
      tileAt t t0 = { tileAt s t0 with answer := some (.item (slotAt s x x.rp)) } ∧ lone step t ∧ t.jq.parked = [] ∧ t.jq.reqs = s.jq.reqs ∧
      t.jq.takes = s.jq.takes + 1 ∧ t.regs = s.regs))

/-- The commands of JQ_CMD on a queue, with done, or with the code of the check that failed, a write that finds the engine busy ending with BUSY alone: ENABLE empties and opens, DISABLE closes, FLUSH and FLUSH_NOW empty, PUSH appends, SYNC places an empty window, CLRCNT clears the counters; a PUSH is held while the disposal buffer is nearly full (R178, R186, R188, R189). -/
def Obligations.QueueCommandCompletes : Prop :=
  ∀ (s : State) (who : Who) (q : BitVec 16) (o : Fin 9), Awake s → frozen s = false → passes s who Reg.JQ_CMD true = true →
    let x := queueAt s q.toNat
    let stat := Reg.JQ_CMD_STAT
    let done (t : State) : Prop := rdf t stat 2 0 = 0 ∧ rdb t stat 30 = true ∧ rdb t Reg.JQ_INT_STAT 0 = true ∧
      RegsBut s t [stat, Reg.JQ_INT_STAT]
    let fails (code : Nat) (t : State) : Prop := rdf t stat 2 0 = code ∧ rdb t stat 29 = true ∧ rdb t Reg.JQ_INT_STAT 1 = true ∧
      t.jq = s.jq ∧ RegsBut s t [stat, Reg.JQ_INT_STAT]
    let good : Prop := x.dcode ≤ 5 ∧ x.disc ≠ 3 ∧ x.hi ≤ depthOf x ∧ (x.hi = 0 ∨ x.lo < x.hi)
    let apart : Prop := ∀ e ∈ s.jq.queues, e.2.en = true → x.base + depthOf x ≤ e.2.base ∨ e.2.base + depthOf e.2 ≤ x.base
    let held : Queue := { x with member := groupOf x }
    let empty : Queue := { held with rp := x.wp, sync := false, mstate := .none, fpend := false, bnd := true }
    (s.jq.heldPush ≠ none → Does (.clrcnt who q) s (fun t => rdf t stat 2 0 = 1 ∧ rdb t stat 29 = true ∧ t.jq = s.jq ∧ RegsBut s t [stat])) ∧
    (s.jq.heldPush = none → 768 < s.jq.disposal.length → Does (.push who q) s (fun t => rdb t stat 31 = true ∧ RegsBut s t [stat] ∧
      t.jq = { s.jq with heldPush := some ⟨q.toNat, rd s Reg.JQ_CMD_ARG0, rdf s Reg.JQ_CMD_ARG1 15 0, none⟩ })) ∧
    (s.jq.heldPush = none → s.jq.disposal.length ≤ 768 → s.jq.parked = [] → (x.hi = 0 → x.above = false) →
    (x.en = false → good → x.base % depthOf x = 0 → apart → Does (.enable who q) s (fun t => done t ∧
      (let y := queueAt t q.toNat
       y.en = true ∧ y.wp = 0 ∧ y.rp = 0 ∧ y.rseq = 0 ∧ y.lost = 0 ∧ y.late = 0 ∧ y.dup = 0 ∧ y.markLost = 0 ∧ y.mstate = .none ∧
         y.sync = false ∧ y.fpend = false ∧ y.above = false ∧ y.bnd = true ∧ y.base = x.base ∧ y.dcode = x.dcode) ∧
      ∀ k, k < depthOf x → presentAt t x k = false)) ∧
    (x.en = true → Does (.enable who q) s (fails 2)) ∧
    (x.en = false → ¬ good → Does (.enable who q) s (fails 5)) ∧
    (x.en = false → good → x.base % depthOf x ≠ 0 → Does (.enable who q) s (fails 3)) ∧
    (x.en = false → good → x.base % depthOf x = 0 → ¬ apart → Does (.enable who q) s (fails 4)) ∧
    (x.en = true → x.wp = x.rp → x.above = false → Does (.disable who q) s (fun t => done t ∧
      queueAt t q.toNat = { x with en := false, member := none, mstate := .none })) ∧
    (x.en = true → x.fpend = false → x.bnd = false → Does (.flush who q) s (fun t => done t ∧ queueAt t q.toNat = { held with fpend := true })) ∧
    (x.en = true → x.fpend = false → x.bnd = true → x.wp = x.rp → x.hi = 0 → Does (.flush who q) s (fun t => done t ∧ queueAt t q.toNat = empty)) ∧
    (x.en = true → x.wp = x.rp → x.hi = 0 → Does (.flushNow who q) s (fun t => done t ∧ queueAt t q.toNat = empty)) ∧
    (x.en = true → x.place = false → x.wp - x.rp < depthOf x → x.bind = false → x.fpend = false → x.hi = 0 → x.mstate = .none →
      Does (.push who q) s (fun t => done t ∧
        queueAt t q.toNat = { held with bnd := (rd s Reg.JQ_CMD_ARG0).getLsbD 31, wp := x.wp + 1 } ∧ slotAt t x x.wp = rd s Reg.JQ_CMD_ARG0 ∧
        presentAt t x x.wp = true ∧ t.jq.pushes = s.jq.pushes + 1)) ∧
    (x.en = true → x.place = true → x.wp = x.rp → Does (.sync who q) s (fun t => done t ∧
      (let y := queueAt t q.toNat
       let sq := rdf s Reg.JQ_CMD_ARG0 15 0
       y.sync = true ∧ y.rseq = sq ∧ y.rp = y.wp ∧ x.wp ≤ y.wp ∧ y.wp < x.wp + depthOf x ∧ y.wp % depthOf x = sq % depthOf x ∧ y.mstate = .none))) ∧
    (x.en = true → Does (.clrcnt who q) s (fun t => done t ∧ queueAt t q.toNat = { held with lost := 0, markLost := 0, late := 0, dup := 0 })) ∧
    (x.en = false → Does (.disable who q) s (fails 2) ∧ Does (.flush who q) s (fails 2) ∧ Does (.flushNow who q) s (fails 2) ∧
      Does (.push who q) s (fails 2) ∧ Does (.sync who q) s (fails 2) ∧ Does (.clrcnt who q) s (fails 2)) ∧
    Does (.jqReservedOp who o q) s (fails 6))

/-- DISPOSAL drains one item, into the discard ring where its queue told so; EVENT_POP removes the oldest event; the audit sums and a queue's record are latched (R177, R178, R184, R190, R193). -/
def Obligations.QueueUpkeepCompletes : Prop :=
  ∀ (s : State) (who : Who) (q : BitVec 16) (d : Discard) (rest : List Discard) (e : Nat × Bool) (es : List (Nat × Bool)), Awake s →
    let x := queueAt s q.toNat
    let k := rdf s Reg.JQ_DRING_CFG 3 0
    let head := (rd s Reg.JQ_DRING_HEAD).toNat
    let total (f : Queue → Nat) : Nat := (s.jq.queues.map (fun e => if e.2.en then f e.2 else 0)).sum
    let alloc := total depthOf
    let w0 := 2 ^ 31 * x.en.toNat + 2 ^ 30 * x.place.toNat + 2 ^ 27 * x.dcode + 2 ^ 25 * x.disc + x.base
    (frozen s = false → s.jq.disposal = d :: rest → s.jq.heldPush = none → 2 ≤ d.disc → Does .disposal s (fun t =>
      t.jq = { s.jq with disposal := rest } ∧ t.regs = s.regs)) ∧
    (frozen s = false → s.jq.disposal = d :: rest → s.jq.heldPush = none → d.disc = 1 →
      (rdb s Reg.JQ_DRING_CFG 8 = false ∨ (head + 2 * 2 ^ k - (rd s Reg.JQ_DRING_TAIL).toNat % (2 * 2 ^ k)) % (2 * 2 ^ k) = 2 ^ k) →
      Does .disposal s (fun t => t.jq = { s.jq with disposal := rest } ∧ rd t Reg.JQ_DRING_OVF = rd s Reg.JQ_DRING_OVF + 1 ∧
        rd t Reg.JQ_INT_STAT = rd s Reg.JQ_INT_STAT ||| 16 ∧ t.sram = s.sram)) ∧
    (frozen s = false → s.jq.disposal = d :: rest → s.jq.heldPush = none → d.disc = 1 → rdb s Reg.JQ_DRING_CFG 8 = true →
      (head + 2 * 2 ^ k - (rd s Reg.JQ_DRING_TAIL).toNat % (2 * 2 ^ k)) % (2 * 2 ^ k) ≠ 2 ^ k →
      (∀ r ∈ allRings, touches s (8 * rdf s Reg.JQ_DRING_BASE 22 3 + 8 * (head % 2 ^ k)) 8 r = false) →
      Does .disposal s (fun t => t.jq = { s.jq with disposal := rest } ∧
        rd t Reg.JQ_DRING_HEAD = BitVec.ofNat 32 ((head + 1) % (2 * 2 ^ k)) ∧
        sramGet t (8 * rdf s Reg.JQ_DRING_BASE 22 3 + 8 * (head % 2 ^ k)) 8 = leBytes 4 d.item.toNat ++ leBytes 4 (2 ^ 28 * d.reason + d.queue))) ∧
    (passes s who Reg.JQ_EV_POP false = true →
      (s.jq.events = e :: es → Does (.eventPop who) s (fun t => t.resp = .word (BitVec.ofNat 32 (2 ^ 31 + 2 ^ 30 * e.2.toNat + e.1)) ∧
        t.jq = { s.jq with events := es } ∧ t.regs = s.regs)) ∧
      (s.jq.events = [] → Does (.eventPop who) s (fun t => t.resp = .word 0 ∧ t.jq = s.jq ∧ t.regs = s.regs))) ∧
    (passes s who Reg.JQ_AUD_SNAP true = true → Does (.jqAuditSnapshot who) s (fun t =>
      rd t Reg.JQ_AUD_PUSH = s.jq.pushes ∧ rd t Reg.JQ_AUD_TAKE = s.jq.takes ∧ rd t Reg.JQ_AUD_REWOUND = s.jq.rewound ∧
      rd t Reg.JQ_AUD_DISC = s.jq.discs ∧ rd t Reg.JQ_AUD_HELD = BitVec.ofNat 32 (total (heldOf s)) ∧
      rd t Reg.JQ_AUD_ALLOC = BitVec.ofNat 32 alloc ∧ rd t Reg.JQ_AUD_UNALLOC = BitVec.ofNat 32 (1048576 - alloc) ∧ t.jq = s.jq)) ∧
    (passes s who (Reg.JQ_QREC_W0 q.toNat) false = true → Does (.queueRecordRead who q) s (fun t => t.resp = .word (BitVec.ofNat 32 w0) ∧
      t.jq = s.jq ∧ t.regs = s.regs ∧ ∀ j, 1 ≤ j → j ≤ 7 → (recordRead t q.toNat j).2 = recordWord s q.toNat j))

/-! ### Rings and the sample-rate engines (R194 to R217) -/

/-- RING_ENABLE opens a ring whose extent lies in the general region with its consumer word, CONS and PROD zeroed, and refuses another; PRODUCER_WORD_WRITE is noticed by the engine of an enabled ring, and an overfilled ring stops; a producer word outside the general region takes no software write (R16, R209, R210). -/
def Obligations.RingCompletes : Prop :=
  ∀ (s : State) (who : Who) (r : RingRef) (v : Word), Awake s →
    let d := ringDesc r
    let k := max 4 (min 10 (fld v 3 0))
    (passes s who d.cfg true = true → v.getLsbD 12 = true → ringOn s r = false → ringFits (ringBase s r) d.esize k = true →
      Does (.ringEnable who r v) s (fun t => ringOn t r = true ∧ rdf t d.cfg 3 0 = k ∧ rd t d.cons = 0 ∧ rd t d.prod = 0 ∧ ringNext t r = 0 ∧
        sramGet t (ringBase s r + 4) 4 = [0, 0, 0, 0] ∧ RegsBut s t [d.cfg, d.cons, d.prod])) ∧
    (passes s who d.cfg true = true → v.getLsbD 12 = true → ringOn s r = false → ringFits (ringBase s r) d.esize k = false →
      Does (.ringEnable who r v) s (fun t => t.regs = s.regs ∧ t.sram = s.sram ∧
        t.err.arrivals = s.err.arrivals ++ [accessRec (pageSrc d.cfg) true false (match who with
          | .core _ => 12
          | .bmk => 15) d.cfg])) ∧
    (passes s who (sramBase + ringBase s r) true = true → inGeneral (sramBase + ringBase s r) 4 = false → Does (.producerWordWrite who r v) s
      (fun t => t.sram = s.sram ∧ t.regs = s.regs ∧ t.err.arrivals.length = s.err.arrivals.length + 1)) ∧
    (passes s who (sramBase + ringBase s r) true = true → inGeneral (sramBase + ringBase s r) 4 = true → ringOn s r = true → Does (.producerWordWrite who r v) s (fun t =>
      rd t d.prod = v ∧ sramGet t (ringBase s r) 4 = leBytes 4 v.toNat ∧ rd t d.cons = rd s d.cons ∧
      (ringSize s r < (v - rd s d.cons).toNat → ringErr t r = true ∧ rdb t d.int d.bit = true)))

/-- SRE_JOB_FETCH takes the job at the chosen ring's next entry, reads its descriptor once and checks it, or lets it wait for an earlier job of its stream; SRE_JOB_START computes: a job without stages passes its sample through, and input that cannot be read ends it with MEM; SRE_JOB_COMPLETE writes the status, frees the entry and reports any code but OK (R198, R205, R206, R211 to R213). -/
def Obligations.SampleRateJobCompletes : Prop :=
  ∀ (s u : State) (e : Fin 4) (r : Fin 16) (stage : SreStage) (code sat used out : Nat) (job : SreJob) (js : List SreJob)
    (h : List Byte) (sec : List (List Byte)) (b0 b1 : Byte) (ws : List MemOut), Awake s → frozen s = false →
    let ring : RingRef := .sre r
    let i := ringNext s ring
    let off := ringEntry s ring i
    let entry := sramGet s off 64
    let j := job.entry
    let rq := srePort s job.engine job.ring
    (sreCanFetch s e.val = true → bestRing s (sreRings s e.val) = some ring → s.sre.load = none → sreOpen s (srePort s e.val r) entry = (stage, u) →
      u.sre = s.sre → Does (.sreJobFetch e) s (fun t =>
        t.sre.jobs = s.sre.jobs ++ [⟨e.val, r, i % ringSize s ring, off, entry, stage⟩] ∧
        ringNext t ring = (i + 1) % 2 ^ 32 ∧ t.regs = u.regs)) ∧
    (s.sre.jobs = job :: js → job ∉ js → job.engine = e.val → job.stage = .ready h sec → wdf j 3 31 16 = 1 → wdf j 5 31 16 = 1 → wd j 6 = 0 →
      wd h 0 = 0x01005000 → memRead s rq (wdAddr j 2) 2 = (some [b0, b1], u) → u.sre = s.sre →
      Does (.sreJobStart e) s (fun t => ∃ hdr : List Byte, hdr.length = 64 ∧
        t.sre.jobs = { job with stage := .ended 0 0 1 1 [(wdAddr j 4, [b0, b1]), (wdAddr j 0, hdr)] } :: js ∧
        rd t (Reg.SRE_ENG_CYC e.val) = rd u (Reg.SRE_ENG_CYC e.val) + 5 ∧ RegsBut u t [Reg.SRE_ENG_CYC e.val])) ∧
    (s.sre.jobs = job :: js → job ∉ js → job.engine = e.val → job.stage = .ready h sec →
      memRead s rq (wdAddr j 2) (sreBufLen (wdf h 0 15 14) (wdf j 3 31 16)) = (none, u) → u.sre = s.sre →
      Does (.sreJobStart e) s (fun t => t.sre.jobs = { job with stage := .ended 5 0 0 0 [] } :: js ∧ t.regs = u.regs)) ∧
    (s.sre.jobs = job :: js → job.engine = e.val → job.stage = .ended code sat used out ws → memWrites rq ws s = (true, u) → u.sre = s.sre →
      Does (.sreJobComplete e) s (fun t => t.sre.jobs = js ∧
        rd t (Reg.SRE_RING_CONS job.ring) = rd u (Reg.SRE_RING_CONS job.ring) + 1 ∧ rd t Reg.SRE_JOBS = rd u Reg.SRE_JOBS + 1 ∧
        rd t Reg.SRE_SAT = rd u Reg.SRE_SAT + BitVec.ofNat 32 sat ∧
        rd t Reg.SRE_LAST_ERR = (if code = 0 then rd u Reg.SRE_LAST_ERR else BitVec.ofNat 32 (2 ^ 20 * job.ring + 2 ^ 16 * code + job.index % 1024)) ∧
        rd t Reg.SRE_JOB_ERRS = (if code ≤ 1 then rd u Reg.SRE_JOB_ERRS else rd u Reg.SRE_JOB_ERRS + 1) ∧
        (ringBase u (.sre job.ring) + 8 ≤ job.off + 56 → sramGet t (job.off + 56) 8 = wordBytes [sat + 2 ^ 28 * code + 2 ^ 31, out + 2 ^ 16 * used])))

/-- LOAD_COEF starts a load that R215's checks allow, or reports their code; LOAD_COEF_COMPLETE fills the bank, each coefficient with its parity (R215, R216). -/
def Obligations.CoefficientLoadCompletes : Prop :=
  ∀ (s u : State) (who : Who) (b a : Nat) (img : List Byte), Awake s →
    let stat := Reg.SRE_CMD_STAT
    let from' := 64 * rdf s Reg.SRE_CMD_ARG0 31 6 + 2 ^ 32 * rdf s Reg.SRE_CMD_ARG1 15 0
    let ended (code : Nat) (t : State) : Prop := rdf t stat 2 0 = code ∧ (if code = 0 then rdb t stat 30 else rdb t stat 29) = true ∧
      rdb t Reg.SRE_INT_STAT (if code = 0 then 0 else 1) = true
    (passes s who Reg.SRE_CMD true = true →
      (s.sre.load = none → rdf s Reg.SRE_CMD_ARG0 5 4 = 0 → inDram s from' 8192 = true → Does (.loadCoef who) s (fun t =>
        t.sre = { s.sre with load := some (rdf s Reg.SRE_CMD_ARG0 3 0, from') } ∧ rdb t stat 31 = true ∧ RegsBut s t [stat])) ∧
      (s.sre.load = none → (rdf s Reg.SRE_CMD_ARG0 5 4 ≠ 0 ∨ inDram s from' 8192 = false) → Does (.loadCoef who) s (fun t =>
        t.sre = s.sre ∧ ended 2 t)) ∧
      (s.sre.load ≠ none → Does (.loadCoef who) s (fun t => t.sre = s.sre ∧ rdf t stat 2 0 = 1 ∧ rdb t stat 29 = true ∧ RegsBut s t [stat]))) ∧
    (s.sre.load = some (b, a) → (∀ j ∈ s.sre.jobs, b ∉ j.banks ∧ j.stage ≠ .waiting) →
      (memRead s ⟨13, 1, none⟩ a 8192 = (some img, u) → u.sre = s.sre → Does .loadCoefComplete s (fun t => t.sre.load = none ∧ ended 0 t ∧
        ∀ i, i < 2048 → SMap.get 0 t.sre.coef (2048 * b + i) = coefWord (leNat ((img.drop (4 * i)).take 4)))) ∧
      (memRead s ⟨13, 1, none⟩ a 8192 = (none, u) → u.sre = s.sre → Does .loadCoefComplete s (fun t => t.sre = { s.sre with load := none } ∧ ended 3 t)))


/-! ### Billets and deflate (R222 to R239) -/

/-- BIL_JOB_FETCH takes a job and checks it; ENCODE writes the billet of a block of four tile words; DECODE writes the four words of a billet, unless its header fails or a wrong CRC stops the job; a tile in a memory fill makes the job wait; BIL_JOB_COMPLETE writes the status and frees the entry (R222 to R229). -/
def Obligations.BilletJobCompletes : Prop :=
  ∀ (s u : State) (ring : Fin 16) (code : Nat) (good : Bool) (job : BilJob) (js : List BilJob) (w : Nat → BitVec 167) (bs : List Byte),
    Awake s → frozen s = false →
    let rr : RingRef := .bil ring
    let i := ringNext s rr
    let off := ringEntry s rr i
    let entry := sramGet s off 32
    let j := job.entry
    let tile := bilTile j
    let wa := bilWa j + 4 * job.done
    let size := bilBytes (bilRatio j)
    let at' := bilAddr j + job.done * size
    let lone : Prop := s.bil.jobs = job :: js ∧ job.ring = ring ∧ ∀ x ∈ js, x.ring ≠ ring
    let ready : Prop := lone ∧ job.ended = none ∧ (tileAt s tile).fill = false ∧ job.done + 1 = bilCount j
    (rdb s Reg.BIL_CTRL 0 = true → gateAsked s 83 = false → s.bil.jobs.length < 4 → bestRing s (bilRings s) = some rr →
      Does .bilJobFetch s (fun t => ringNext t rr = (i + 1) % 2 ^ 32 ∧ t.regs = s.regs ∧ t.bil = ⟨s.bil.jobs ++
        [⟨ring, i % ringSize s rr, off, entry, 0, 0, 0, if bilCheck s entry = 0 then none else some (bilCheck s entry)⟩], ring⟩)) ∧
    (ready → wdf j 3 31 31 = 0 → gated s (tile / 2) = false → (∀ k, k < 4 → Holds s tile (wa + k) (w k)) →
      memWrite s (bilPort j) at' (bilEncode (bilRatio j) (bilRnd j) (wdf j 3 9 0) [w 0, w 1, w 2, w 3]).1 = (true, u) → u.bil = s.bil →
      let over' := (bilEncode (bilRatio j) (bilRnd j) (wdf j 3 9 0) [w 0, w 1, w 2, w 3]).2
      Does (.encode ring) s (fun t =>
        t.bil.jobs = { job with done := job.done + 1, ovf := job.ovf + over'.toNat, ended := some 0 } :: js ∧
        rd t Reg.BIL_BLOCKS = rd u Reg.BIL_BLOCKS + 1 ∧ rd t Reg.BIL_OVER = rd u Reg.BIL_OVER + BitVec.ofNat 32 over'.toNat ∧
        (over' = true → rdb t Reg.BIL_INT_STAT 3 = true) ∧ t.tiles = u.tiles ∧ t.dram = u.dram ∧ t.sram = u.sram ∧
        RegsBut u t [Reg.BIL_BLOCKS, Reg.BIL_OVER, Reg.BIL_INT_STAT])) ∧
    (ready → wdf j 3 31 31 = 1 → gated s (tile / 2) = false → memRead s (bilPort j) at' size = (some bs, u) → u.bil = s.bil →
      (bilDecode (bilRatio j) bs = some ([w 0, w 1, w 2, w 3], good) → (good = true ∨ wdf j 3 26 26 = 0) → Does (.decode ring) s (fun t =>
        t.bil.jobs = { job with done := job.done + 1, inexact := job.inexact + (!good).toNat, ended := some 0 } :: js ∧
        tileAt t tile = stored167 (stored167 (stored167 (stored167 (tileAt u tile) wa (w 0)) (wa + 1) (w 1)) (wa + 2) (w 2)) (wa + 3) (w 3) ∧
        rd t Reg.BIL_BLOCKS = rd u Reg.BIL_BLOCKS + 1 ∧
        rd t Reg.BIL_INEXACT = rd u Reg.BIL_INEXACT + BitVec.ofNat 32 (!good).toNat ∧ RegsBut u t [Reg.BIL_BLOCKS, Reg.BIL_INEXACT] ∧
        ∀ m, m ≠ tile → tileAt t m = tileAt u m)) ∧
      (bilDecode (bilRatio j) bs = some ([w 0, w 1, w 2, w 3], false) → wdf j 3 26 26 = 1 → Does (.decode ring) s (fun t =>
        t.bil.jobs = { job with inexact := job.inexact + 1, ended := some 5 } :: js ∧ t.tiles = u.tiles ∧
        rd t Reg.BIL_INEXACT = rd u Reg.BIL_INEXACT + 1)) ∧
      (bilDecode (bilRatio j) bs = none → Does (.decode ring) s (fun t => t.bil.jobs = { job with ended := some 4 } :: js ∧
        t.tiles = u.tiles ∧ t.regs = u.regs))) ∧
    (lone → job.ended = none → (tileAt s tile).fill = true → .billet ring ∉ (tileAt s tile).heldAcc → wdf j 3 31 31 = 0 →
      Does (.encode ring) s (fun t => t.bil = s.bil ∧ t.regs = s.regs ∧
        tileAt t tile = { tileAt s tile with heldAcc := (tileAt s tile).heldAcc ++ [.billet ring] })) ∧
    (ready → gated s (tile / 2) = true →
      (wdf j 3 31 31 = 0 → Does (.encode ring) s (fun t => t.bil.jobs = { job with ended := some 3 } :: js ∧ t.regs = s.regs)) ∧
      (wdf j 3 31 31 = 1 → Does (.decode ring) s (fun t => t.bil.jobs = { job with ended := some 3 } :: js ∧ t.regs = s.regs))) ∧
    (lone → job.ended = some code → Does (.bilJobComplete ring) s (fun t => t.bil.jobs = js ∧
      rd t (Reg.BIL_RING_CONS ring) = rd s (Reg.BIL_RING_CONS ring) + 1 ∧
      (ringBase s rr + 8 ≤ job.off + 24 →
        sramGet t (job.off + 24) 8 = wordBytes [job.done + 2 ^ 12 * job.ovf + 2 ^ 28 * code + 2 ^ 31, job.inexact]) ∧
      (code = 0 → wdf j 3 25 25 = 1 → rdb t Reg.BIL_INT_STAT 0 = true) ∧
      (code = 0 → rd t Reg.BIL_JOB_ERRS = rd s Reg.BIL_JOB_ERRS ∧ rd t Reg.BIL_LAST_ERR = rd s Reg.BIL_LAST_ERR) ∧
      (code ≠ 0 → rd t Reg.BIL_JOB_ERRS = rd s Reg.BIL_JOB_ERRS + 1 ∧ rdb t Reg.BIL_INT_STAT 1 = true ∧
        rd t Reg.BIL_LAST_ERR = BitVec.ofNat 32 (2 ^ 20 * ring + 2 ^ 16 * code + job.index % 1024))))

/-- DFL_JOB_FETCH takes a job and checks it; COMPRESS and DECOMPRESS write the job's output and keep its context; a job whose input cannot be read ends with MEM; a stored block is decompressed to its bytes; DFL_JOB_COMPLETE writes the status and frees the entry (R234 to R238). -/
def Obligations.DeflateJobCompletes : Prop :=
  ∀ (s v u : State) (ring : Fin 4) (code used out : Nat) (job : DflJob) (inp : List Byte), Awake s → frozen s = false →
    let rr : RingRef := .dfl ring
    let i := ringNext s rr
    let off := ringEntry s rr i
    let entry := sramGet s off 64
    let j := job.entry
    let r := dflResult s j inp
    let after' : DflJob := { job with ended := some (r.2.1, r.2.2.1, r.1.length) }
    let ran (t : State) : Prop := t.regs = u.regs ∧ t.dram = u.dram ∧ t.sram = u.sram ∧
      t.dfl = ⟨some after', s.dfl.last, SMap.put .none s.dfl.ctx (wdAddr j 0) r.2.2.2⟩
    let rq := accelPort 6 (wdf j 8 21 20)
    let read : Prop := s.dfl.job = some job ∧ job.ended = none ∧ memRead s rq (wdAddr j 2) (wdf j 4 23 0) = (some inp, v) ∧ v.dfl = s.dfl ∧
      memWrite v rq (wdAddr j 5) r.1 = (true, u) ∧ u.dfl = s.dfl
    let lost : Prop := s.dfl.job = some job ∧ job.ended = none ∧ memRead s rq (wdAddr j 2) (wdf j 4 23 0) = (none, v) ∧ v.dfl = s.dfl
    (rdb s Reg.DFL_CTRL 0 = true → gateAsked s 84 = false → s.dfl.job = none →
      bestRing s ((after 4 s.dfl.last.val).map (fun r => .dfl (Fin.ofNat 4 r))) = some rr →
      Does .dflJobFetch s (fun t => ringNext t rr = (i + 1) % 2 ^ 32 ∧ t.regs = s.regs ∧
        t.dfl = ⟨some ⟨ring, i % ringSize s rr, off, entry, if dflCheck s entry = 0 then none else some (dflCheck s entry, 0, 0)⟩, ring, s.dfl.ctx⟩)) ∧
    (read → wdf j 8 31 30 = 0 → Does .compress s ran) ∧
    (read → wdf j 8 31 30 = 1 → Does .decompress s ran) ∧
    (∀ (bs : List Byte) (limit room : Nat), bs.length < 65536 → bs.length ≤ limit → bs.length ≤ room →
      let x := inflateJob (Inflate.start limit) ([1] ++ leBytes 2 bs.length ++ leBytes 2 (65535 - bs.length) ++ bs) room
      x.1 = bs ∧ x.2.1 = 0 ∧ x.2.2.1 = bs.length + 5) ∧
    (lost → (wdf j 8 31 30 = 0 → Does .compress s (fun t => t.dfl = { s.dfl with job := some { job with ended := some (10, 0, 0) } })) ∧
      (wdf j 8 31 30 = 1 → Does .decompress s (fun t => t.dfl = { s.dfl with job := some { job with ended := some (10, 0, 0) } }))) ∧
    (s.dfl.job = some job → job.ring = ring → job.ended = some (code, used, out) → Does .dflJobComplete s (fun t =>
      t.dfl = { s.dfl with job := none } ∧ rd t (Reg.DFL_RING_CONS ring) = rd s (Reg.DFL_RING_CONS ring) + 1 ∧
      rd t Reg.DFL_JOBS = rd s Reg.DFL_JOBS + 1 ∧
      (ringBase s rr + 8 ≤ job.off + 56 → sramGet t (job.off + 56) 8 = wordBytes [used + 2 ^ 27 * code + 2 ^ 31, out]) ∧
      (code < 3 → wdf j 8 25 25 = 1 → rdb t Reg.DFL_INT_STAT 0 = true) ∧
      (code < 3 → rd t Reg.DFL_JOB_ERRS = rd s Reg.DFL_JOB_ERRS ∧ rd t Reg.DFL_LAST_ERR = rd s Reg.DFL_LAST_ERR) ∧
      (3 ≤ code → rd t Reg.DFL_JOB_ERRS = rd s Reg.DFL_JOB_ERRS + 1 ∧ rdb t Reg.DFL_INT_STAT 1 = true ∧
        rd t Reg.DFL_LAST_ERR = BitVec.ofNat 32 (2 ^ 20 * ring + 2 ^ 16 * code + job.index % 1024))))
/-! ### The DRAM controller (R241 to R275, R490, R491) -/

/-- A read or write that the controller serves enters its channel queue: a write is acknowledged then, a read keeps its block for the answer it gets when it completes, an uncorrectable codeword gives an error and a freeze; one that finds no entry is held, one outside installed DRAM or while disabled is refused and logged, one of another port than 15 while frozen is refused (R247, R251, R253, R255 to R257, R272, R274). The order of data and queue is the model's choice: data moves when the request enters its queue. -/
def Obligations.DramRequestCompletes : Prop :=
  ∀ (s : State) (port : Fin 16) (src : Nat) (cls : Option (BitVec 2)) (addr : Addr) (data : List Byte), Awake s →
    let a := addr.toNat
    let p := port.val
    let rq : Requester := ⟨p, src, cls.map (·.toNat)⟩
    let d := data.take (64 - a % 64)
    let ch := chanOf s a
    let blk := localOf s a / 64 * 64
    let class' := match cls with
      | some x => x.toNat
      | none => rdf s (Reg.DMC_PORT_CFG p) 25 24
    let cell := cellOf s ch blk
    let block := getBytes s.dram cell 64
    let word (k : Nat) : Nat := leNat (getBytes s.dram (cell + 8 * k) 8) + 2 ^ 64 * (chkByte s rq ch (blk + 8 * k)).1.toNat
    let good (k : Nat) : Prop := ∃ x, eccDecode 64 7 (word k) = .good x
    let seeded' : Prop := blk < SMap.get 0 s.dmc.seedPos ch
    let cached : Prop := ∃ e ∈ chkCache s ch, e.blk = chkAddr s blk / 64
    let inside : Prop := a / 64 * 64 + 64 ≤ installed s
    let enabled := rdb s Reg.DMC_CTRL 0
    let on : Prop := (dmcFrozen s = false ∨ p = 15) ∧ enabled = true ∧ inside
    let free : Prop := dmcHeld s p = [] ∧ entryFree (dmcQueue s ch) p = true ∧ ∀ f, s.dmc.freq ≠ .changing f
    let queued (r : DmcReq) (t : State) : Prop := dmcQueue t ch = dmcQueue s ch ++ [r] ∧ (∀ x, x ≠ ch → dmcQueue t x = dmcQueue s x) ∧
      t.regs = s.regs
    let put (t : State) : Prop := getBytes t.dram cell 64 = patch block (a % 64) d ∧
      ∀ x, x < cell ∨ cell + 64 ≤ x → SMap.get 0 t.dram x = SMap.get 0 s.dram x
    let held (r : PortReq) (t : State) : Prop := t.resp = .held ∧ dmcHeld t p = dmcHeld s p ++ [r] ∧ t.dmc.queue = s.dmc.queue ∧
      t.dram = s.dram ∧ t.regs = s.regs
    let answered (x : Resp) : Dmc := { s.dmc with answers := [⟨p, src, x⟩] }
    let refused (write : Bool) (x : Nat) (t : State) : Prop := t.resp = .error ∧ t.dmc = answered .error ∧ t.dram = s.dram ∧ t.regs = s.regs ∧
      t.err.arrivals = s.err.arrivals ++ [accessRec srcDmc write false p x]
    (on → free → (¬ seeded' ∨ (cached ∧ ∀ k, k < 8 → good k)) → Does (.dramRead port src cls addr) s (fun t =>
      queued ⟨false, p, src, class', ch, blk, some (.bytes block), s.mono.toNat⟩ t ∧ t.resp = .held ∧ t.dmc.answers = [] ∧ t.dram = s.dram)) ∧
    (on → free → seeded' → cached → dmcFrozen s = false → ∀ j, j < 8 → eccDecode 64 7 (word j) = .bad → (∀ k, k < 8 → k ≠ j → good k) →
      Does (.dramRead port src cls addr) s (fun t => t.resp = .error ∧ ⟨p, src, .error⟩ ∈ t.dmc.answers ∧
        rd t Reg.DMC_ECC_UNC = rd s Reg.DMC_ECC_UNC + 1 ∧ rdb t Reg.DMC_INT_STAT 3 = true ∧ dmcFrozen t = true ∧ rdb t Reg.DMC_STAT 0 = false ∧
        rd t Reg.DMC_ERR_INFO = BitVec.ofNat 32 (2 ^ 31 + ch * 16 + p) ∧
        t.err.arrivals = s.err.arrivals ++ [uncRec srcDmc (portReader p) (dramLoc s ch (blk + 8 * j) j 255)])) ∧
    (on → free → 0 < data.length → cached → a % 8 = 0 → d.length % 8 = 0 → Does (.dramWrite port src cls addr data) s (fun t =>
      queued ⟨true, p, src, class', ch, blk, none, s.mono.toNat⟩ t ∧ t.resp = .ack ∧ t.dmc.answers = [⟨p, src, .ack⟩] ∧ put t)) ∧
    (on → free → 0 < data.length → cached → ¬ seeded' → Does (.dramWrite port src cls addr data) s (fun t => t.resp = .ack ∧ put t)) ∧
    (on → ¬ free → Does (.dramRead port src cls addr) s (held ⟨false, rq, a / 64 * 64, []⟩) ∧
      Does (.dramWrite port src cls addr data) s (held ⟨true, rq, a, d⟩)) ∧
    ((dmcFrozen s = false ∨ p = 15) → (enabled = false ∨ ¬ inside) → Does (.dramRead port src cls addr) s (refused false (a / 64 * 64)) ∧
      Does (.dramWrite port src cls addr data) s (refused true a)) ∧
    (dmcFrozen s = true → p ≠ 15 → Does (.dramRead port src cls addr) s (fun t => t = { s with resp := .error, dmc := answered .error }) ∧
      Does (.dramWrite port src cls addr data) s (fun t => t = { s with resp := .error, dmc := answered .error }))

/-- DRAM_COMMAND_ISSUE takes the ready request of smallest key and issues its bank's command: activate, with the neighbours of a drawn event left to do, column access, which answers the request and leaves the row open or closes it, or precharge; COMMAND_PATH_ERROR counts, records, answers the requests it names and those held at the ports with errors, and freezes (R258 to R261, R263, R271, R272). -/
def Obligations.DramSchedulingCompletes : Prop :=
  ∀ (s : State) (ch : Fin 4) (kind : Fin 5) (port : Fin 16) (ready : List Nat) (i : Nat) (r : DmcReq), Awake s →
    let q := dmcQueue s ch.val
    let c : Instr := .dramCommandIssue ch ready
    let bi := bankIx s ch.val r.loc
    let b := bank s bi
    let chosen : Prop := i ∈ ready ∧ q[i]? = some r ∧
      ∀ (j : Nat) (r' : DmcReq), j ∈ ready → q[j]? = some r' → j ≠ i → reqKey s ch.val i r < reqKey s ch.val j r'
    let worn : Bool := decide (rdf s Reg.DMC_SCHED 7 0 ≤ b.hits) && otherRowWaits s ch.val i r
    let closed (row : Nat) : Bank := { b with openRow := none, prevRow := some row, hits := 0, kept := none }
    let others (t : State) : Prop := ∀ k, k ≠ bi → bank t k = bank s k
    let waited : Bool := (q.eraseIdx i).any (fun x => bankIx s ch.val x.loc == bi)
    let same : Bool := b.prevRow == some (reqRow s r)
    let code := kind.val * 256 + ch.val * 16
    (s.dmc.held = [] →
      ((∀ j ∈ ready, q.length ≤ j) → Does c s (fun t => t = { s with dmc := { s.dmc with answers := [] } })) ∧
      (chosen → b.openRow = none → Does c s (fun t => others t ∧ t.dmc.queue = s.dmc.queue ∧ t.regs = s.regs ∧
        ∃ hit : Bool, (rdb s Reg.DMC_NREF 8 = false → hit = false) ∧ t.dmc.nrefs = s.dmc.nrefs + hit.toNat ∧
          bank t bi = { b with
            openRow := some (reqRow s r), hits := 0, kept := none
            neigh := (if same then b.neigh else []) ++ (if hit then neighbours s (reqRow s r) else [])
            swept := if same then b.swept else b.neigh })) ∧
      (chosen → r.ch = ch.val → r.port < 16 → b.openRow = some (reqRow s r) → worn = false → Does c s (fun t =>
        dmcQueue t ch.val = q.eraseIdx i ∧ others t ∧
        bank t bi = (if waited then { b with hits := b.hits + 1 }
          else if 2 ≤ b.h ∧ rdf s Reg.DMC_SCHED 23 16 ≠ 0 then { b with hits := b.hits + 1, kept := some s.mono.toNat }
          else closed (reqRow s r)) ∧
        (match r.answer with
          | some x => t.resp = x ∧ t.dmc.answers = [⟨r.port, r.src, x⟩]
          | none => t.resp = s.resp ∧ t.dmc.answers = []) ∧
        (let late := rdf s (Reg.DMC_PORT_CFG r.port) 9 0 * 25 < (s.mono.toNat - r.arrival) * 2
         if late then rd t (Reg.DMC_PORT_LATE r.port) = rd s (Reg.DMC_PORT_LATE r.port) + 1 ∧ rdb t Reg.DMC_INT_STAT 1 = true
         else t.regs = s.regs))) ∧
      (∀ row, chosen → b.openRow = some row → (row ≠ reqRow s r ∨ worn = true) → Does c s (fun t => bank t bi = closed row ∧ others t ∧
        t.dmc.queue = s.dmc.queue ∧ t.regs = s.regs))) ∧
    (kind.val = 0 → Does (.commandPathError kind ch port) s (fun t => t = s)) ∧
    (kind.val ≠ 0 → dmcFrozen s = false → Does (.commandPathError kind ch port) s (fun t =>
      rd t Reg.DMC_CMD_ERRS = rd s Reg.DMC_CMD_ERRS + 1 ∧ rdb t Reg.DMC_INT_STAT 4 = true ∧ dmcFrozen t = true ∧
      rdb t Reg.DMC_STAT 0 = false ∧ rd t Reg.DMC_ERR_INFO = BitVec.ofNat 32 (2 ^ 31 + 2 ^ 30 + code + port.val) ∧
      (∀ k, k < 4 → dmcQueue t k = []) ∧
      (∀ k, k < 15 → dmcHeld t k = [] ∧ ∀ x ∈ dmcHeld s k, ⟨x.rq.port, x.rq.src, .error⟩ ∈ t.dmc.answers) ∧
      t.err.arrivals = s.err.arrivals ++ [⟨srcDmc, 3, 0x30, BitVec.ofNat 32 code, 0, true⟩] ∧
      (kind.val = 1 → ∀ x ∈ q, x.port < 16 → ⟨x.port, x.src, .error⟩ ∈ t.dmc.answers) ∧
      (kind.val = 3 → ∀ x, q.find? (fun y => y.port == port.val && !y.write) = some x → ⟨x.port, x.src, .error⟩ ∈ t.dmc.answers)))

/-- Refresh, the MR4 readout, retraining and its readback, the frequency change, scrubbing, seeding and enabling the controller (R242, R254, R262, R264, R266 to R270, R274, R490). -/
def Obligations.DramUpkeepCompletes : Prop :=
  ∀ (s : State) (ch : Fin 4) (rank : Fin 2) (bk : Fin 16) (postpone : Bool) (value : BitVec 8) (who : Who) (v : Word) (t0 d tg : Nat), Awake s →
    let rk := ch.val * 2 + rank.val
    let i := rk * 16 + bk.val
    let b := bank s i
    let raw (s : State) (k : Nat) : Bank := SMap.get Bank.reset s.dmc.banks k
    let fresh' := max b.due s.dmc.allRefreshed + refreshInterval s rk
    let awake' : Prop := rankExists s ch.val rank.val = true ∧ s.dmc.selfRefresh = false ∧ rdb s Reg.DMC_CTRL 0 = true
    let r := retrain s ch.val
    let due := r.last + retrainInterval s
    let u := notBefore s due
    let u2 := notBefore u (r.last + 2 * retrainInterval s)
    let stat := Reg.DMC_STAT
    let int := Reg.DMC_INT_STAT
    let opened (t : State) : Prop := retrain t ch.val = { r with last := t.mono.toNat, gather := some t.mono.toNat } ∧ rdb t stat 2 = true ∧
      t.dmc.queue = s.dmc.queue
    let refuses (code : Nat) (t : State) : Prop := rdb t Reg.DMC_FREQ 9 = true ∧ rdf t Reg.DMC_FREQ 11 10 = code ∧ t.dmc = s.dmc ∧
      rdf t Reg.DMC_FREQ 5 4 = fld v 5 4 ∧ RegsBut s t [Reg.DMC_FREQ]
    let asked : Prop := passes s who Reg.DMC_FREQ true = true ∧ v.getLsbD 8 = true
    let fits : Prop := rdf s (Reg.DMC_TSET_W (shadowSet s) 3) 11 10 = fld v 5 4
    let p := SMap.get 0 s.dmc.scrubPos ch.val
    let next := if p + 64 < dmcCap s then p + 64 else 0
    let l := SMap.get 0 s.dmc.seedPos ch.val
    let chk := cellOf s ch.val (chkAddr s l)
    (¬ awake' → Does (.perBankRefresh ch rank bk postpone) s (fun t => t = s)) ∧
    (awake' → postpone = false → 0 < b.owed → Does (.perBankRefresh ch rank bk postpone) s (fun t =>
      bank t i = { closedBank b with owed := b.owed - 1 } ∧ t.mono = s.mono ∧ t.regs = s.regs ∧ ∀ k, k ≠ i → raw t k = raw s k)) ∧
    (awake' → fresh' < 2 ^ 64 → postpone = true → dmcQueue s ch.val ≠ [] → b.owed < 8 → Does (.perBankRefresh ch rank bk postpone) s (fun t =>
      raw t i = { b with owed := b.owed + 1, due := fresh' } ∧ t.mono.toNat = max s.mono.toNat fresh' ∧ t.regs = s.regs ∧
      ∀ k, k ≠ i → raw t k = raw s k)) ∧
    (awake' → fresh' < 2 ^ 64 → (postpone = false ∨ dmcQueue s ch.val = [] ∨ 8 ≤ b.owed) → (postpone = true ∨ b.owed = 0) →
      Does (.perBankRefresh ch rank bk postpone) s (fun t =>
        bank t i = { closedBank b with due := fresh' } ∧ t.mono.toNat = max s.mono.toNat fresh' ∧ t.regs = s.regs ∧
        ∀ k, k ≠ i → raw t k = raw s k)) ∧
    (rankExists s ch.val rank.val = true → SMap.get 0 s.dmc.mr4Last rk + 40000000 < 2 ^ 64 → Does (.mr4Readout ch rank value) s (fun t =>
      SMap.get 0 t.dmc.mr4 rk = value.toNat ∧ SMap.get 0 t.dmc.mr4Last rk = t.mono.toNat ∧
      t.mono.toNat = max s.mono.toNat (SMap.get 0 s.dmc.mr4Last rk + 40000000) ∧ t.regs = s.regs)) ∧
    (rdb s Reg.DMC_RETRAIN 31 = true → rdb s Reg.DMC_CTRL 0 = true → r.gather = none → s.dmc.freq = .idle → ch.val < dmcChans s →
      (foreground u ch.val = false → Does (.retrainStart ch) s (fun t => opened t ∧ t.mono = u.mono ∧ RegsBut s t [stat])) ∧
      (foreground u ch.val = true → Does (.retrainStart ch) s (fun t => opened t ∧ t.mono = u2.mono ∧
        rd t Reg.DMC_RETRAIN_FORCED = rd s Reg.DMC_RETRAIN_FORCED + 1 ∧ rdb t int 5 = true ∧ RegsBut s t [stat, int, Reg.DMC_RETRAIN_FORCED]))) ∧
    (s.dmc.freq ≠ .idle → Does (.retrainStart ch) s (fun t => t = s)) ∧
    (r.gather = some t0 →
      Does (.retrainReadback ch (some d)) s (fun t => retrain t ch.val = { r with gather := none, delay := some d } ∧
        rd t Reg.DMC_RETRAIN_COUNT = rd s Reg.DMC_RETRAIN_COUNT + 1 ∧ t.mono = (notBefore s (t0 + 1250)).mono) ∧
      Does (.retrainReadback ch none) s (fun t => retrain t ch.val = { r with gather := none } ∧
        rd t Reg.DMC_RETRAIN_COUNT = rd s Reg.DMC_RETRAIN_COUNT + 1 ∧ rd t Reg.DMC_CMD_ERRS = rd s Reg.DMC_CMD_ERRS + 1 ∧
        rdb t int 4 = true ∧ dmcFrozen t = true)) ∧
    (asked → freqBusy s = true → Does (.freqRequest who v) s (refuses 1)) ∧
    (asked → freqBusy s = false → ¬ fits → Does (.freqRequest who v) s (refuses 2)) ∧
    (asked → freqBusy s = false → fits → dmcFrozen s = true → Does (.freqRequest who v) s (refuses 3)) ∧
    (asked → freqBusy s = false → fits → dmcFrozen s = false → fld v 5 4 = rdf s Reg.DMC_FREQ 1 0 → Does (.freqRequest who v) s (fun t =>
      t.dmc = s.dmc ∧ rd t Reg.DMC_FREQ_COUNT = rd s Reg.DMC_FREQ_COUNT + 1 ∧ rdb t int 6 = true ∧
      RegsBut s t [Reg.DMC_FREQ, Reg.DMC_FREQ_COUNT, int])) ∧
    (asked → freqBusy s = false → fits → dmcFrozen s = false → fld v 5 4 ≠ rdf s Reg.DMC_FREQ 1 0 → Does (.freqRequest who v) s (fun t =>
      t.dmc = { s.dmc with freq := .deferred (fld v 5 4) } ∧ rdb t stat 3 = true ∧ RegsBut s t [Reg.DMC_FREQ, stat])) ∧
    (s.dmc.freq = .deferred tg → Does .freqChangeBegin s (fun t => t.dmc.freq = .changing tg ∧ t.dmc.selfRefresh = true ∧
      t.dmc.allRefreshed = t.mono.toNat ∧ (∀ k, (bank t k).openRow = none ∧ (bank t k).owed = 0) ∧
      ∀ k, k < 4 → dmcQueue t k = [] ∧ (retrain t k).gather = none)) ∧
    (s.dmc.freq = .changing tg → tg < 4 → s.dmc.held = [] → Does .freqChangeComplete s (fun t => rdf t Reg.DMC_FREQ 1 0 = tg ∧
      rdb t Reg.DMC_FREQ 2 = !rdb s Reg.DMC_FREQ 2 ∧ t.dmc.freq = .idle ∧ t.dmc.selfRefresh = false ∧ rdb t stat 3 = false ∧
      rd t Reg.DMC_FREQ_COUNT = rd s Reg.DMC_FREQ_COUNT + 1 ∧ rdb t int 6 = true ∧
      rd t Reg.DMC_RETRAIN_COUNT = rd s Reg.DMC_RETRAIN_COUNT + BitVec.ofNat 32 (dmcChans s) ∧
      ∀ k, k < dmcChans s → (retrain t k).delay = (Config.readback s.freeCtr k).or (retrain s k).delay)) ∧
    (ch.val < dmcChans s → rdb s Reg.DMC_SCRUB_CTRL 16 = true → rdb s Reg.DMC_CTRL 0 = true → dmcFrozen s = false → dmcData s ≤ l →
      (∀ f, s.dmc.freq ≠ .changing f) →
      (p < dmcData s → Does (.dmcScrubRead ch) s (fun t => SMap.get 0 t.dmc.scrubPos ch.val = p + 64)) ∧
      (dmcData s ≤ p → Does (.dmcScrubRead ch) s (fun t => SMap.get 0 t.dmc.scrubPos ch.val = next ∧ t.dram = s.dram ∧
        (if next = 0 ∧ ch.val = 0 then rd t Reg.DMC_SCRUB_PASS = rd s Reg.DMC_SCRUB_PASS + 1 ∧ rdb t int 0 = true
          else rd t Reg.DMC_SCRUB_PASS = rd s Reg.DMC_SCRUB_PASS)))) ∧
    (rdb s stat 5 = true → ch.val < dmcChans s → l < dmcData s → (∀ f, s.dmc.freq ≠ .changing f) → Does (.seedGroup ch) s (fun t =>
      SMap.get 0 t.dmc.seedPos ch.val = l + 512 ∧ rdb t stat 5 = !allSeeded t ∧
      (l % 512 = 0 → (∀ x, x < chk ∨ chk + 64 ≤ x → SMap.get 0 t.dram x = SMap.get 0 s.dram x) ∧ ∀ k, k < 64 →
        SMap.get 0 t.dram (chk + k) = BitVec.ofNat 8 (eccEncode 64 7 (leNat (getBytes s.dram (cellOf s ch.val (l + 8 * k)) 8)) >>> 64)))) ∧
    (passes s who Reg.DMC_CTRL true = true → rdb s Reg.DMC_CTRL 31 = false → rdb s Reg.DMC_CTRL 0 = false → v.getLsbD 0 = true → Does (.dmcEnable who v) s (fun t =>
      rdb t Reg.DMC_CTRL 0 = true ∧ rdf t Reg.DMC_INSTALLED 15 0 = installed s / 2 ^ 20 ∧ rdb t stat 0 = !dmcFrozen s ∧ t.dmc.fresh = false ∧
      (s.dmc.fresh = true → rdb t stat 5 = true ∧ t.dmc.seedPos = []))) ∧
    (passes s who Reg.DMC_CTRL true = true → rdb s Reg.DMC_CTRL 31 = true → Does (.dmcEnable who v) s (fun t => RegsBut s t [] ∧ t.dmc = s.dmc)) ∧
    (passes s who Reg.DMC_CTRL true = true → rdb s Reg.DMC_CTRL 31 = false → rdb s Reg.DMC_CTRL 0 = true → v.getLsbD 0 = false → Does (.dmcEnable who v) s (fun t =>
      rdb t Reg.DMC_CTRL 0 = false ∧ rdb t stat 0 = false ∧ t.dmc = s.dmc)) ∧
    (passes s .bmk (Reg.DMC_RNG_SEED 1) true = true → Does (.dmcRngSeed .bmk v) s (fun t =>
      t.dmc = { s.dmc with seed := some (stagedOr s (Reg.DMC_RNG_SEED 0) 0, v) } ∧ rdb t stat 1 = true ∧ RegsBut s t [stat])) ∧
    (∀ k : Fin 4, passes s (.core k) (Reg.DMC_RNG_SEED 1) true = true → Does (.dmcRngSeed (.core k) v) s (fun t => t.regs = s.regs ∧
      t.dmc = s.dmc ∧ t.err.arrivals = s.err.arrivals ++ [accessRec srcDmc true false 12 (Reg.DMC_RNG_SEED 1)]))


/-! ### The cipher engine (R276 to R297) -/

/-- The commands of a cipher page: UNWRAP installs the keys of a blob, ERASE zeroes a slot or pair, EXPORT writes a slot's keys as a blob, each or the code of the check that fails, an ERASE whatever the cores do; a command waits for a core; a busy page, a reserved op and a frozen engine refuse, and an engine not yet seeded takes none (log entry 115); a write of a page's slot range and the seeding of the random source (R279 to R284, R293, R294, R296, R297). -/
def Obligations.CipherCommandCompletes : Prop :=
  ∀ (s u : State) (who : Who) (page : Fin 64) (kek : Fin 16) (slot : BitVec 12) (op : Fin 13) (v : Word) (b p : List Byte) (k : Keys) (rtcp : Bool),
    Awake s →
    let p' := page.val
    let n := slot.toNat
    let st := Reg.CIP_U_CMD_STAT p'
    let int := Reg.CIP_U_INT_STAT p'
    let addr := rd2 s (Reg.CIP_U_ARG0 p') (Reg.CIP_U_ARG1 p')
    let len := rdf s (Reg.CIP_U_ARG2 p') 7 0
    let ended (code : Nat) (t : State) : Prop := rdf t st 3 0 = code ∧ rdb t int (if code = 0 then 0 else 1) = true ∧
      rdb t st (if code = 0 then 30 else 29) = true
    let turned (code : Nat) (t : State) : Prop := ended code t ∧ t.cip = s.cip ∧ t.sram = s.sram ∧ RegsBut s t [st, int]
    let fails (code : Nat) (t : State) : Prop := turned code t ∧ rdb t st 31 = false
    let left (code : Nat) (t : State) : Prop := ended code t ∧ rdb t st 31 = false ∧ t.cip = u.cip ∧ t.dram = u.dram ∧ RegsBut u t [st, int]
    let busy (t : State) : Prop := rdf t st 3 0 = 1 ∧ rdb t st 29 = true ∧ rdb t st 31 = true ∧ t.cip = s.cip ∧ t.sram = s.sram ∧ RegsBut s t [st]
    let may : Prop := passes s who (Reg.CIP_U_CMD p') true = true ∧ frozen s = false
    let heard : Prop := may ∧ rdb s st 31 = false ∧ s.cip.cmds = []
    let alone : Prop := heard ∧ cipRunning s = true
    let ready : Prop := alone ∧ ∃ c, c < 8 ∧ coreOpen s c = true
    let waits : Prop := heard ∧ s.cip.seeded = true ∧ ∀ c, c < 8 → (if cipRunning s then coreOpen s c else coreFree s c) = false
    let s1 := wrb s st 31 true
    let key := SMap.get [] s.cip.keks kek.val
    let un : Instr := .unwrap who page kek slot
    let placed (m : Nat) : Prop := addr % 8 = 0 ∧ inMem s addr m = true
    let sized : Prop := len = 40 ∨ len = 48 ∨ len = 56 ∨ len = 64 ∨ len = 80
    let fetched : Prop := ready ∧ inRange s p' n = true ∧ placed len ∧ sized ∧ kekValid s kek.val = true
    let got : Prop := fetched ∧ memRead s1 cipPort addr len = (some b, u)
    let mine := slotBytes s n
    let x := slotSuite mine
    let pair : Prop := (x = 3 ∨ x = 4) ∧ slotSecond mine = false
    let own : Prop := ownsSlot s p' n x = true
    let full : Prop := 1 ≤ x ∧ x ≤ 6 ∧ slotSecond mine = false
    let size := blobLen (plainLen x true)
    let w := memWrite_ s1 cipPort addr (keyWrap key (sessionPlain mine (slotBytes s (n + 1))))
    let ex : Instr := .exportKeys who page kek slot
    let base := fld v 11 0
    let count := fld v 28 16
    (ready → inRange s p' n = false → Does un s (fails 2)) ∧
    (ready → inRange s p' n = true → ¬ placed len → Does un s (fails 3)) ∧
    (ready → inRange s p' n = true → placed len → ¬ sized → Does un s (fails 4)) ∧
    (ready → inRange s p' n = true → placed len → sized → kekValid s kek.val = false → Does un s (fails 5)) ∧
    (fetched → memRead s1 cipPort addr len = (none, u) → Does un s (left 9)) ∧
    (got → keyUnwrap key b = none → Does un s (fun t => left 6 t ∧ t.sram = u.sram)) ∧
    (got → keyUnwrap key b = some p → blobKeys p len = none → Does un s (fun t => left 7 t ∧ t.sram = u.sram)) ∧
    (got → keyUnwrap key b = some p → blobKeys p len = some (k, rtcp) → ownsSlot u p' n k.suite = false → Does un s (fun t => left 2 t ∧ t.sram = u.sram)) ∧
    (got → keyUnwrap key b = some p → blobKeys p len = some (k, rtcp) → ownsSlot u p' n k.suite = true → Does un s (fun t => left 0 t ∧
      t.sram = (installKeys u p' n rtcp k).sram)) ∧
    (alone → inRange s p' n = true → (pair → inRange s p' (n + 1) = true) → Does (.erase who page slot) s (fun t => ended 0 t ∧
      rdb t st 31 = false ∧ slotBytes t n = List.replicate 64 0 ∧ (pair → slotBytes t (n + 1) = List.replicate 64 0) ∧
      (∀ o, (o < slotOff n ∨ slotOff n + (if x = 3 ∨ x = 4 then 128 else 64) ≤ o) → SMap.get 0 t.sram o = SMap.get 0 s.sram o) ∧
      RegsBut s t [st, int])) ∧
    (alone → (inRange s p' n = false ∨ (pair ∧ inRange s p' (n + 1) = false)) → Does (.erase who page slot) s (fails 2)) ∧
    (ready → inRange s p' n = true → full → own → placed size → kek.val ≠ 0 → kekValid s kek.val = true → Does ex s (fun t => ended 0 t ∧
      rdb t st 31 = false ∧ rdf t st 15 8 = size ∧ t.dram = w.dram ∧ t.sram = w.sram ∧ RegsBut w t [st, int])) ∧
    (ready → (inRange s p' n = false ∨ (full ∧ ¬ own)) → Does ex s (fails 2)) ∧
    (ready → inRange s p' n = true → full → own → ¬ placed size → Does ex s (fails 3)) ∧
    (ready → inRange s p' n = true → full → own → placed size → (kek.val = 0 ∨ kekValid s kek.val = false) → Does ex s (fails 5)) ∧
    (ready → inRange s p' n = true → (x = 0 ∨ slotSecond mine = true) → placed 0 → kek.val ≠ 0 → kekValid s kek.val = true → Does ex s (fails 8)) ∧
    (waits → Does un s (fun t => t.cip = { s.cip with cmds := [⟨p', 1, kek.val, if kekValid s kek.val then some key else none, n, addr, len, cipRunning s⟩] } ∧ t.sram = s.sram ∧ rdb t st 31 = true ∧
      RegsBut s t [st])) ∧
    (may → rdb s st 31 = true → Does un s busy ∧ Does (.erase who page slot) s busy ∧ Does ex s busy ∧ Does (.cipReservedOp who page op slot) s busy) ∧
    (may → rdb s st 31 = false → s.cip.seeded = false → Does un s (fun t => t = s) ∧ Does (.erase who page slot) s (fun t => t = s) ∧
      Does ex s (fun t => t = s)) ∧
    (may → rdb s st 31 = false → Does (.cipReservedOp who page op slot) s (turned 11)) ∧
    (passes s who (Reg.CIP_U_CMD p') true = true → frozen s = true → Does un s (turned 10) ∧ Does (.erase who page slot) s (turned 10) ∧
      Does ex s (turned 10) ∧ Does (.cipReservedOp who page op slot) s (turned 10)) ∧
    (passes s who (Reg.CIP_PAGE_SLOTS p') true = true →
      (slotsRefusal s p' base count = 0 → Does (.pageSlotsWrite who page v) s (fun t => pageBase t p' = base ∧ pageCount t p' = count ∧
        RegsBut s t [Reg.CIP_PAGE_SLOTS p'])) ∧
      (slotsRefusal s p' base count ≠ 0 → Does (.pageSlotsWrite who page v) s (fun t => rdf t Reg.CIP_ADM_STAT 1 0 = slotsRefusal s p' base count ∧
        rdf t Reg.CIP_ADM_STAT 7 2 = p' ∧ rdb t Reg.CIP_ADM_STAT 31 = true ∧ RegsBut s t [Reg.CIP_ADM_STAT]))) ∧
    Does (.cipRngSeed .bmk v) s (fun t => t.cip.seeded = true ∧ t.regs = s.regs ∧
      t.cip.seed = (stagedOr s (Reg.CIP_RNG_SEED 0) 0).toNat + 2 ^ 32 * v.toNat)

/-- CIPHER_SCHEDULE gives a free core the oldest command, else an aged ring's job, else an ingress job, else a ring's job, and the job takes its key slots with it; a core that takes no new work still takes the command or ingress job that the engine holds (log entry 114); PROTECT and UNPROTECT process the job of a core; CIPHER_JOB_COMPLETE writes a ring job's status, or hands an ingress job's result on (R285 to R293). -/
def Obligations.CipherJobCompletes : Prop :=
  ∀ (s u v : State) (core : Fin 8) (pg : Fin 64) (i : Ingress) (rest : List Ingress) (j : CipJob) (js : List CipJob) (e : CipEnd) (x : CipCmd)
    (xs : List CipCmd) (p c : List Byte), Awake s → frozen s = false →
    let ring : RingRef := .cip pg
    let ix := ringNext s ring
    let entry := cipHead s pg
    let r := reqOf entry
    let keys (n : Nat) := slotBytes s n ++ slotBytes s (n + 1)
    let mayRun := (cipOrder s).filter (headStarts s)
    let picks (ps : List (Fin 64)) : Option RingRef := bestRing s (ps.map .cip)
    let ringJob : CipJob := ⟨none, pg, ix % ringSize s ring, ringEntry s ring ix, r, core.val, ringPre s pg.val entry, keys r.slot, none⟩
    let started (t : State) : Prop := t.cip.jobs = s.cip.jobs ++ [ringJob] ∧ ringNext t ring = (ix + 1) % 2 ^ 32 ∧ t.regs = s.regs
    let ctx := rd2 s Reg.PKT_FLOW_BASE_LO Reg.PKT_FLOW_BASE_HI + 64 * i.flow + 32
    let ireq : CipReq := ⟨i.slot, i.addr, i.len, i.addr, 2048, true, false, false, false, 0, ctx, 0⟩
    let ijob : CipJob := ⟨some i, Fin.ofNat 64 i.page, 0, 0, ireq, core.val, slotCheck s i.page ireq, keys i.slot, none⟩
    let sched : Instr := .cipherSchedule core
    let held (unprot : Bool) : Prop := s.cip.jobs = j :: js ∧ j ∉ js ∧ j.core = core.val ∧ j.ended = none ∧ j.req.unprot = unprot
    let ends (e : CipEnd) (t : State) : Prop := t.cip.jobs = { j with ended := some e, keys := [] } :: js
    let k := slotKeys (j.keys.take 64) (j.keys.drop 64)
    let read : Prop := j.pre = 0 ∧ memRead s (jobPort j.req) j.req.inAddr j.req.inLen = (some p, u) ∧ u.cip = s.cip
    let apart : Prop := flowBusy s i.flow = false ∧ ctxBusy s ctx = false
    let none' : Prop := picks (mayRun.filter (aged s)) = none
    (coreFree s core.val = true →
      (s.cip.cmds = x :: xs → Does sched s (fun t => t = runCipCmd { s with cip := { s.cip with cmds := xs } } x)) ∧
      (s.cip.cmds = [] → picks (mayRun.filter (aged s)) = some ring → Does sched s started) ∧
      (s.cip.cmds = [] → none' → s.cip.ingress = i :: rest → apart → Does sched s (fun t =>
        t.cip.jobs = s.cip.jobs ++ [ijob] ∧ t.cip.ingress = rest ∧ t.regs = s.regs)) ∧
      (s.cip.cmds = [] → none' → (s.cip.ingress = [] ∨ (s.cip.ingress = i :: rest ∧ ¬ apart)) → picks mayRun = some ring →
        Does sched s started) ∧
      (s.cip.cmds = [] → (s.cip.ingress = [] ∨ (s.cip.ingress = i :: rest ∧ ¬ apart)) → picks mayRun = none → none' →
        Does sched s (fun t => t = s))) ∧
    (coreFree s core.val = false → coreOpen s core.val = true →
      (s.cip.cmds = x :: xs → x.taken = true → Does sched s (fun t => t = runCipCmd { s with cip := { s.cip with cmds := xs } } x)) ∧
      (s.cip.cmds = [] → s.cip.ingress = i :: rest → apart → Does sched s (fun t =>
        t.cip.jobs = s.cip.jobs ++ [ijob] ∧ t.cip.ingress = rest ∧ t.regs = s.regs))) ∧
    (coreFree s core.val = false → coreOpen s core.val = false → Does sched s (fun t => t = s)) ∧
    (held false → j.pre ≠ 0 → Does (.protect core) s (ends ⟨j.pre, 0, 0, [], []⟩)) ∧
    (held true → j.pre ≠ 0 → Does (.unprotect core) s (ends ⟨j.pre, 0, 0, [], []⟩)) ∧
    (held false → read → Does (.protect core) s (fun t => ends (protectPkt k j.req p) t ∧ t.regs = u.regs)) ∧
    (held true → read → memRead u (jobPort j.req) j.req.ctx 32 = (some c, v) → v.cip = s.cip → Does (.unprotect core) s (fun t =>
      ends (unprotectPkt k j.req p c) t ∧ t.regs = v.regs)) ∧
    (held false → j.pre = 0 → memRead s (jobPort j.req) j.req.inAddr j.req.inLen = (none, u) → u.cip = s.cip → Does (.protect core) s (ends ⟨11, 0, 0, [], []⟩)) ∧
    (s.cip.jobs = j :: js → j.ended = some e → j.ingress = none → memWrites (jobPort j.req) e.writes s = (true, u) → u.cip = s.cip →
      let p' := j.page.val
      Does (.cipherJobComplete (some j.page)) s (fun t => t.cip.jobs = js ∧
        rd t (Reg.CIP_U_RING_CONS p') = rd u (Reg.CIP_U_RING_CONS p') + 1 ∧ rd t (Reg.CIP_U_JOBS p') = rd u (Reg.CIP_U_JOBS p') + 1 ∧
        (ringBase u (.cip j.page) + 8 ≤ j.off + 56 → sramGet t (j.off + 56) 8 = wordBytes [e.outLen + 2 ^ 27 * e.code + 2 ^ 31, e.index]) ∧
        (e.code = 0 → rd t (Reg.CIP_U_JOB_ERRS p') = rd u (Reg.CIP_U_JOB_ERRS p') ∧ (j.req.irq = true → rdb t (Reg.CIP_U_INT_STAT p') 2 = true)) ∧
        (e.code ≠ 0 → rd t (Reg.CIP_U_JOB_ERRS p') = rd u (Reg.CIP_U_JOB_ERRS p') + 1 ∧ rdb t (Reg.CIP_U_INT_STAT p') 3 = true ∧
          rd t (Reg.CIP_U_LAST_ERR p') = BitVec.ofNat 32 (2 ^ 16 * e.code + j.index % 1024)) ∧
        (e.code = 1 → rd t (Reg.CIP_U_AUTH_FAIL p') = rd u (Reg.CIP_U_AUTH_FAIL p') + 1) ∧
        (e.code = 2 → rd t (Reg.CIP_U_REPLAY p') = rd u (Reg.CIP_U_REPLAY p') + 1))) ∧
    (s.cip.jobs = j :: js → j.ended = some e → j.ingress = some i → e.code ≠ 0 →
      let p' := j.page.val
      Does (.cipherJobComplete none) s (fun t => t.cip.jobs = js ∧ t.cip.results = s.cip.results ++ [(i, e)] ∧
        rd t Reg.CIP_INGRESS_JOBS = rd s Reg.CIP_INGRESS_JOBS + 1 ∧ rd t Reg.CIP_INGRESS_ERRS = rd s Reg.CIP_INGRESS_ERRS + 1 ∧
        rd t (Reg.CIP_U_LAST_ERR p') = BitVec.ofNat 32 (2 ^ 31 + 2 ^ 16 * e.code) ∧ rdb t (Reg.CIP_U_INT_STAT p') 3 = true)) ∧
    (let s2 := inc { s with cip := { s.cip with jobs := js, results := s.cip.results ++ [(i, e)] } } Reg.CIP_INGRESS_JOBS
     s.cip.jobs = j :: js → j.ended = some e → j.ingress = some i → e.code = 0 → memWrites (jobPort j.req) (e.writes.take 1) s2 = (true, u) → u.cip = s2.cip →
      Does (.cipherJobComplete none) s (fun t => t.dram = u.dram ∧ t.sram = u.sram ∧ t.cip.jobs = js ∧
        t.cip.results = s.cip.results ++ [(i, e)] ∧ rd t (Reg.CIP_U_JOBS j.page.val) = rd u (Reg.CIP_U_JOBS j.page.val) + 1))

/-! ### Ethernet ports and the packet path (R298 to R325) -/

/-- FRAME_ARRIVAL counts a frame, stores it in cells or drops it, classifies it, and puts a forwarded one in its class queue; RTP_RECEIVE checks a flow's packet and pushes its granules, its cells kept until the last push is taken; INGRESS_UNPROTECT and INGRESS_RESULT pass a bound flow's packet to the cipher engine and back; LIMITER_REFILL gives every port a token (R292, R300 to R304, R309, R310, R324). -/
def Obligations.FrameReceptionCompletes : Prop :=
  ∀ (s u v : State) (port : Fin 16) (frame : List Byte) (good : Bool) (raw : BitVec 80) (plan : Nat × Nat × Nat) (fid f q tc : Nat) (entry : List Byte)
    (udp : Parsed) (i : Ingress) (e : CipEnd) (us : List Ingress) (rs : List (Ingress × CipEnd)) (gs : List Nat), Awake s →
    let n := port.val
    let c : Instr := .frameArrival port frame good raw
    let up : Prop := 3 ≤ mode s ∧ portOn s n = true ∧ linkUp s n = true
    let counted := addc (inc s (Reg.ETH_RX_FRAMES n)) (Reg.ETH_RX_BYTES n) (frame.length + 4)
    let tallies := [Reg.ETH_RX_FRAMES n, Reg.ETH_RX_BYTES n]
    let tally (t : State) : Prop := rd t (Reg.ETH_RX_FRAMES n) = rd s (Reg.ETH_RX_FRAMES n) + 1 ∧
      rd t (Reg.ETH_RX_BYTES n) = rd s (Reg.ETH_RX_BYTES n) + BitVec.ofNat 32 (frame.length + 4)
    let plain : Prop := isFabric frame = false
    let x := corrX raw.toNat (rxCorr s n)
    let id := s.pkt.nextFid
    let kept := (storeFrame counted ⟨n, frame, 0, 0, 0, 1, x, ntAtX counted x⟩ plan).2
    let planned : Prop := cellPlan s (arrivalCells frame) n (frame.length + 4) = some plan
    let idle : Prop := s.pkt.inq = [] ∧ s.jq.inbox = []
    let freed (t : State) (k : Nat) : Prop := SMap.get none t.pkt.frames k = none
    let s1 : State := { s with pkt := { s.pkt with inq := [] } }
    let fr := frameAt s fid
    let p := udpPay fr.data udp
    let rtp : Prop := frozen s = false ∧ s.pkt.inq = [(fid, .rtp f entry)] ∧ rtpWaits s f entry = false
    let bad : Prop := p.length < 12 ∨ be p 0 1 / 64 ≠ 2
    let pt := be p 1 1 % 128
    let good' : Prop := ¬ bad ∧ (pt < 72 ∨ 76 < pt)
    let known : Prop := wdf entry 0 29 29 = 0 ∨ srcOk entry udp = true
    let room := granSize s - 8
    let fits : Prop := (wdf entry 0 30 30 = 0 ∧ (queueAt s (wdf entry 0 15 0)).place = false) ∨ p.length ≤ room
    let need := (p.length + granSize s - 9) / room
    let dropped (a : Nat) (t : State) : Prop := rd t a = rd s a + 1 ∧ rdb t Reg.PKT_INT_STAT 0 = true ∧ freed t fid ∧ t.pkt.inq = [] ∧ t.jq = s.jq
    let take : Prop := granAllocs need s1 = (gs, u) ∧ writeGrans u (monoOf fr.x) gs p = (true, v)
    let mkr := (be p 1 1).testBit 7
    let g := gs.headD 0
    let bound : Ingress := ⟨f, wdf entry 1 31 26, wdf entry 1 11 0, granAddr v g + 8, p.length, g, wdf entry 0 15 0, rtpItem entry mkr true true g, be p 2 2⟩
    let s2 : State := { s with pkt := { s.pkt with unprot := us } }
    let s3 : State := { s with cip := { s.cip with results := rs } }
    let s4 := if e.ctx = [] then s3 else memWrite_ s3 pktPort (flowCtxAddr s3 i.flow) e.ctx
    let s5 := memWrite_ s4 pktPort (i.addr - 2) (leBytes 2 e.outLen)
    let none' : Prop := s.pkt.flowCmd = none ∧ frozen s = false
    (¬ up → Does c s (fun t => t = s)) ∧
    (up → frozen s = true → plain → Does c s (fun t => tally t ∧ rd t (Reg.ETH_RX_FROZEN n) = rd s (Reg.ETH_RX_FROZEN n) + 1 ∧ t.pkt = s.pkt ∧
      RegsBut s t (Reg.ETH_RX_FROZEN n :: tallies))) ∧
    (up → frozen s = false → plain → cellPlan s .port n (frame.length + 4) = none → Does c s (fun t => tally t ∧
      rd t (Reg.ETH_RX_NOCELL n) = rd s (Reg.ETH_RX_NOCELL n) + 1 ∧ t.pkt = s.pkt ∧ RegsBut s t (Reg.ETH_RX_NOCELL n :: tallies))) ∧
    (up → frozen s = false → planned → (good = false ∨ frame.length + 4 < 64 ∨ 9216 < frame.length + 4) → Does c s (fun t => tally t ∧
      rd t (Reg.ETH_RX_ERRS n) = rd s (Reg.ETH_RX_ERRS n) + 1 ∧ freed t id ∧ t.pkt.sh = s.pkt.sh ∧ t.pkt.fab = s.pkt.fab ∧
      ownUsed t n = ownUsed s n ∧ t.pkt.inq = s.pkt.inq ∧ RegsBut s t (Reg.ETH_RX_ERRS n :: tallies))) ∧
    (up → frozen s = false → mode s ≠ 3 → planned → good = true → 60 ≤ frame.length → frame.length ≤ 9212 → isFabric frame = true → idle →
      Does c s (fun t => tally t ∧ t.fab.rx = s.fab.rx ++ [id] ∧ (frameAt t id).data = frame ∧ (frameAt t id).port = n ∧
        t.pkt.nextFid = id + 1 ∧ t.pkt.inq = [] ∧ RegsBut s t tallies)) ∧
    (up → frozen s = false → planned → idle → classify kept n frame good = (some (.forward q tc), u) → u.pkt.inq = [] → u.jq.inbox = [] →
      Does c s (fun t => t.pkt.inq = [] ∧ t.regs = u.regs ∧ ∃ y, egAt t (egKey q tc) = egAt u (egKey q tc) ++ [y] ∧ y.fid = id ∧
        y.kind = .fwd ∧ y.launch = none)) ∧
    (up → frozen s = false → planned → idle → classify kept n frame good = (some (.rtp f entry), u) → u.pkt.inq = [] → Does c s (fun t =>
      t.pkt.inq = [(id, .rtp f entry)] ∧ t.regs = u.regs)) ∧
    (up → frozen s = false → mode s = 3 → planned → good = true → 60 ≤ frame.length → frame.length ≤ 9212 →
      ((isHello frame = false ∧ (isFabric frame = true ∨ isPause frame = true ∨ ptpOff frame = none)) ∨ tokens s n = 0) → Does c s (fun t => tally t ∧
        rd t Reg.PKT_RX_FLOOD_DROP = rd s Reg.PKT_RX_FLOOD_DROP + 1 ∧ freed t id)) ∧
    (rtp → parseUdp fr.data = some udp → bad → Does .rtpReceive s (dropped Reg.PKT_RX_RTP_BAD)) ∧
    (rtp → parseUdp fr.data = some udp → good' → ¬ known → Does .rtpReceive s (dropped Reg.PKT_RX_SRC)) ∧
    (rtp → parseUdp fr.data = some udp → good' → known → ¬ fits → Does .rtpReceive s (dropped Reg.PKT_RX_SIZE)) ∧
    (rtp → parseUdp fr.data = some udp → good' → known → fits → gFree s < need → Does .rtpReceive s (dropped Reg.PKT_RX_NOGRAN)) ∧
    (rtp → parseUdp fr.data = some udp → good' → known → fits → need ≤ gFree s → take →
      (wdf entry 0 30 30 = 0 → Does .rtpReceive s (fun t => t.jq.inbox = s.jq.inbox ++ granPushes entry mkr (be p 2 2) fid gs ∧
        SMap.get none t.pkt.frames fid = SMap.get none s.pkt.frames fid ∧ t.pkt.inq = [] ∧ t.dram = v.dram ∧ t.sram = v.sram)) ∧
      (wdf entry 0 30 30 = 1 → Does .rtpReceive s (fun t => t.pkt.unprot = s.pkt.unprot ++ [bound] ∧ t.jq = s.jq ∧ freed t fid ∧ t.pkt.inq = [] ∧
        t.dram = v.dram ∧ t.sram = v.sram))) ∧
    (s.pkt.inq = [(fid, .rtp f entry)] → (frozen s = true ∨ rtpWaits s f entry = true) → Does .rtpReceive s (fun t => t = s)) ∧
    (none' → s.pkt.unprot = i :: us → ingressAccepted s = true → Does .ingressUnprotect s (fun t => t.pkt = s2.pkt ∧
      t.cip = { s.cip with ingress := s.cip.ingress ++ [i] } ∧ t.regs = s.regs)) ∧
    (none' → s.pkt.unprot = i :: us → ingressAccepted s = false → Does .ingressUnprotect s (fun t => t.cip = s.cip ∧ t.pkt.unprot = us ∧
      t.pkt.gRet = (granReturn s2 i.gran).pkt.gRet ∧
      rd t Reg.PKT_RX_UNPROT = rd (granReturn s2 i.gran) Reg.PKT_RX_UNPROT + 1 ∧ rdb t Reg.PKT_INT_STAT 0 = true)) ∧
    (none' → s.cip.results = (i, e) :: rs → e.code = 0 → Does .ingressResult s (fun t => t.cip.results = rs ∧ t.dram = s5.dram ∧ t.sram = s5.sram ∧
      t.jq.inbox = s.jq.inbox ++ [⟨i.queue, i.item, i.seq, none⟩])) ∧
    (none' → s.cip.results = (i, e) :: rs → e.code ≠ 0 → Does .ingressResult s (fun t => t.cip.results = rs ∧ t.jq = s.jq ∧
      rd t Reg.PKT_RX_UNPROT = rd (granReturn s4 i.gran) Reg.PKT_RX_UNPROT + 1 ∧ t.pkt.gRet = (granReturn s4 i.gran).pkt.gRet)) ∧
    (s.pkt.refillAt + 1250000 < 2 ^ 64 → Does .limiterRefill s (fun t => (∀ k, k < 16 → tokens t k = min 16 (tokens s k + 1)) ∧
      t.pkt.refillAt = t.mono.toNat ∧ s.pkt.refillAt + 1250000 ≤ t.mono.toNat ∧ t.regs = s.regs))

/-- SET, CLEAR and GET copy a flow entry from or to memory or zero it, or end with the code of the check that fails; a write of PKT_FWD_W2 applies a forwarding entry; enabling the packet path fills the free list; a granule return ring gives its granule back; the audit sums are latched (R305, R308, R311 to R313, R325). -/
def Obligations.PacketCommandCompletes : Prop :=
  ∀ (s u : State) (who : Who) (flow : BitVec 16) (v : Word) (ring : Fin 4) (code : Nat) (ok : Bool), Awake s →
    let st := Reg.PKT_FLOW_CMD_STAT
    let int := Reg.PKT_INT_STAT
    let may : Prop := passes s who Reg.PKT_FLOW_CMD true = true
    let n := flow.toNat
    let addr := rd2 s Reg.PKT_FLOW_CMD_ARG0 Reg.PKT_FLOW_CMD_ARG1 % 2 ^ 48
    let entry := flowAddr s n
    let ended (code : Nat) (t : State) : Prop := rdf t st 2 0 = code ∧ rdb t st (if code = 0 then 30 else 29) = true ∧ rdb t st 31 = false ∧
      rdb t int 1 = true ∧ t.pkt = s.pkt
    let fails (code : Nat) (t : State) : Prop := ended code t ∧ t.dram = s.dram ∧ t.sram = s.sram ∧ RegsBut s t [st, int]
    let ready : Prop := may ∧ rdb s st 31 = false ∧ s.pkt.flowCmd = none ∧ flowInFlight s n = false ∧ frozen s = false
    let placed : Prop := addr % 64 = 0 ∧ inMem s addr 64 = true
    let inside : Prop := n < rdf s Reg.PKT_FLOW_CFG 16 0
    let s1 := wrb s st 31 true
    let moved (t : State) : Prop := ended code t ∧ t.dram = u.dram ∧ t.sram = u.sram
    let r : RingRef := .gret ring
    let i := ringNext s r
    let item := leNat (sramGet s (ringEntry s r i) 4)
    let held := (s.pkt.own.map (·.2)).sum + s.pkt.sh + s.pkt.fab
    let fill := memWrite_ (wrb s Reg.PKT_CTRL 0 true) pktPort (gflBase s) ((List.range (granCount s)).map (leBytes 4)).flatten
    (may → rdb s st 31 = true → Does (.set who flow) s (fun t => rdf t st 2 0 = 1 ∧ rdb t st 29 = true ∧ t.pkt = s.pkt ∧ RegsBut s t [st])) ∧
    (may → rdb s st 31 = true → Does (.clear who flow) s (fun t => rdf t st 2 0 = 1 ∧ rdb t st 29 = true ∧ t.pkt = s.pkt ∧ RegsBut s t [st])) ∧
    (may → rdb s st 31 = true → Does (.get who flow) s (fun t => rdf t st 2 0 = 1 ∧ rdb t st 29 = true ∧ t.pkt = s.pkt ∧ RegsBut s t [st])) ∧
    (may → rdb s st 31 = false → (flowInFlight s n = true ∨ frozen s = true) → Does (.set who flow) s (fun t => rdb t st 31 = true ∧
      t.pkt = { s.pkt with flowCmd := some ⟨1, n, addr⟩ } ∧ RegsBut s t [st])) ∧
    (ready → ¬ placed → Does (.set who flow) s (fails 2) ∧ Does (.get who flow) s (fails 2)) ∧
    (ready → placed → ¬ inside → Does (.set who flow) s (fails 3) ∧ Does (.get who flow) s (fails 3)) ∧
    (ready → ¬ inside → Does (.clear who flow) s (fails 3)) ∧
    (ready → placed → inside → copy64 s1 addr entry = (code, u) → Does (.set who flow) s moved) ∧
    (ready → placed → inside → copy64 s1 entry addr = (code, u) → Does (.get who flow) s moved) ∧
    (ready → inside → memWrite s1 pktPort entry (List.replicate 64 0) = (ok, u) → code = (if ok then 0 else 4) → Does (.clear who flow) s moved) ∧
    (passes s who Reg.PKT_FWD_W2 true = true → Does (.fwdEntryWrite who v) s (fun t =>
      SMap.get ⟨false, 0, 0, 0⟩ t.pkt.fwd (rdf s Reg.PKT_FWD_IDX 9 0) =
        ⟨v.getLsbD 31, rdf s Reg.PKT_FWD_W1 27 16, 2 ^ 32 * rdf s Reg.PKT_FWD_W1 15 0 + (rd s Reg.PKT_FWD_W0).toNat, fld v 3 0⟩ ∧
      (∀ k, k ≠ rdf s Reg.PKT_FWD_IDX 9 0 → SMap.get ⟨false, 0, 0, 0⟩ t.pkt.fwd k = SMap.get ⟨false, 0, 0, 0⟩ s.pkt.fwd k) ∧
      RegsBut s t [Reg.PKT_FWD_W2])) ∧
    (passes s who Reg.PKT_CTRL true = true → rdb s Reg.PKT_CTRL 31 = false → rdb s Reg.PKT_CTRL 0 = false → v = 1 → frozen s = false →
      Does (.pktEnable who v) s (fun t => rdb t Reg.PKT_CTRL 0 = true ∧ gFree t = granCount s ∧ t.pkt.gHead = 0 ∧ t.pkt.gAlloc = 0 ∧ t.pkt.gRet = 0 ∧ t.dram = fill.dram ∧
      t.sram = fill.sram)) ∧
    (passes s who Reg.PKT_CTRL true = true → rdb s Reg.PKT_CTRL 31 = false → v = 1 → frozen s = true → Does (.pktEnable who v) s (fun t =>
      rdb t Reg.PKT_CTRL 0 = true ∧ t.pkt = s.pkt ∧ RegsBut s t [Reg.PKT_CTRL])) ∧
    (passes s who Reg.PKT_CTRL true = true → rdb s Reg.PKT_CTRL 31 = false → v.getLsbD 0 = false → Does (.pktEnable who v) s (fun t =>
      rdb t Reg.PKT_CTRL 0 = false ∧ t.pkt = s.pkt ∧ RegsBut s t [Reg.PKT_CTRL])) ∧
    (frozen s = false → ringReady s r = true →
      (2 ^ 24 ≤ item ∨ granCount s ≤ item → Does (.granuleReturn ring) s (fun t => rd t Reg.PKT_GRET_BAD = rd s Reg.PKT_GRET_BAD + 1 ∧
        rd t (Reg.PKT_GRET_CONS ring.val) = rd s (Reg.PKT_GRET_CONS ring.val) + 1 ∧ ringNext t r = (i + 1) % 2 ^ 32 ∧ t.pkt = s.pkt)) ∧
      (item < granCount s → Does (.granuleReturn ring) s (fun t =>
        t.pkt = { s.pkt with gTail := s.pkt.gTail + 1, gRet := s.pkt.gRet + 1 } ∧ ringNext t r = (i + 1) % 2 ^ 32 ∧
        t.dram = (memWrite_ s pktPort (gflAddr s s.pkt.gTail) (leBytes 4 item)).dram))) ∧
    (passes s who Reg.PKT_AUD_SNAP true = true → Does (.pktAuditSnapshot who) s (fun t =>
      rd t Reg.PKT_AUD_CELL_HELD = BitVec.ofNat 32 held ∧ rd t Reg.PKT_AUD_CELL_FREE = BitVec.ofNat 32 (8192 - held) ∧
      rd t Reg.PKT_AUD_GFREE = BitVec.ofNat 32 (s.pkt.gTail - s.pkt.gHead) ∧ rd t Reg.PKT_AUD_GALLOC = s.pkt.gAlloc ∧
      rd t Reg.PKT_AUD_GRET = s.pkt.gRet ∧ t.pkt = s.pkt))

/-- TX_FETCH takes the next entry of a transmit ring and builds its frame, waits for cells, or ends it with the code of the check that fails; GATE_POLL reads the gate again; a port starts the head of the highest class that is ready; a frame that has left frees its cells and ends its entry; a head whose link stays down for 10 ms is dropped; links come up and go down; a pause runs out (R299, R302, R316 to R321, R371). -/
def Obligations.FrameTransmissionCompletes : Prop :=
  ∀ (s u v : State) (ring port : Fin 16) (cls : Fin 8) (frac : BitVec 16) (x : TxFrame) (w : OnWire) (h : TxHold) (plan : Nat × Nat × Nat)
    (hd pl d g : List Byte) (lt : Nat) (ab : BitVec 8), Awake s →
    let r : RingRef := .txr ring
    let i := ringNext s r
    let off := ringEntry s r i
    let entry := sramGet s off 64
    let job : TxJob := ⟨ring.val, i, off, (wd entry 6).testBit 21⟩
    let s1 := setRingNext s r (i + 1)
    let fetched : TxHold := ⟨job, entry, none, s.mono.toNat, 0⟩
    let cons := Reg.PKT_TXR_CONS ring.val
    let fetch : Prop := frozen s = false ∧ holdAt s ring.val = none ∧ ringReady s r = true
    let alone : Prop := s.pkt.done = [] ∧ (rd s cons).toNat = i ∧ ringBase s r + 8 ≤ off + 56
    let fails (b : State) (j : TxJob) (code : Nat) (t : State) : Prop := rd t (Reg.PKT_TXR_ERRS ring.val) = rd b (Reg.PKT_TXR_ERRS ring.val) + 1 ∧
      rd t (Reg.PKT_TXR_LAST_ERR ring.val) = BitVec.ofNat 32 (2 ^ 20 * ring.val + 2 ^ 16 * code + j.index % ringSize b r) ∧
      sramGet t (j.off + 56) 4 = leBytes 4 (2 ^ 31 + 2 ^ 27 * code) ∧ rd t cons = rd b cons + 1 ∧ holdAt t ring.val = none
    let good : Prop := txJobBad s entry = false ∧ txAddrBad s entry (txPayLen entry) = false ∧ txGate entry = false
    let len := txPayLen entry
    let size := txHdrLen entry + len + 4
    let k := egKey (txPort entry) (txClass entry)
    let built : Prop := cellPlan s .shared 16 size = some plan ∧ memRead s1 pktPort (wdAddr entry 0) (txHdrLen entry) = (some hd, u) ∧
      memRead u pktPort (wdAddr entry 3) len = (some pl, v)
    let poll : Prop := frozen s = false ∧ holdAt s ring.val = some h ∧ h.len = none ∧ h.job.ring = ring.val ∧ s.pkt.done = [] ∧
      (rd u cons).toNat = h.job.index ∧ ringBase u r + 8 ≤ h.job.off + 56 ∧
      memRead (notBefore s (h.since + 1250 * (h.polls + 1))) pktPort (wdAddr h.bytes 9) 8 = (some g, u)
    let limit := rdf s Reg.PKT_TX_CFG 9 0
    let p := port.val
    let n := notBefore s (SMap.get 0 s.pkt.idleAt p)
    let heads : Prop := ∀ c, c < 8 → ∀ y ys, egAt s (egKey p c) = y :: ys → y.judged = true
    let can (c : Nat) : Prop := ∃ y ys, egAt n (egKey p c) = y :: ys ∧ offers n p c = true ∧ paused n p c = false ∧
      collides n p c (frameAt n y.fid).data.length = false
    let free : Prop := frozen s = false ∧ 3 ≤ mode s ∧ portOn s p = true ∧ linkUp s p = true ∧ wireAt s p = none
    let q := egKey p cls.val
    let bytes := (frameAt s x.fid).data
    let nt := ntAtX n (corrX (65536 * n.mono.toNat + frac.toNat) (txCorr n p))
    let last (y : TxFrame) : Prop := y.kind = .fwd ∧ (frameAt s y.fid).refs ≤ 1
    let gone (y : TxFrame) (t : State) : Prop := SMap.get none t.pkt.frames y.fid = none ∧ t.pkt.sh = s.pkt.sh - (frameAt s y.fid).sh
    let counted (t : State) : Prop := rd t (Reg.ETH_TX_FRAMES p) = rd s (Reg.ETH_TX_FRAMES p) + 1 ∧
      rd t (Reg.ETH_TX_BYTES p) = rd s (Reg.ETH_TX_BYTES p) + BitVec.ofNat 32 (w.data.length + 4) ∧ wireAt t p = none ∧ w.stop ≤ t.mono.toNat
    (fetch → alone → txJobBad s entry = true → Does (.txFetch ring) s (fun t => fails s job 1 t ∧ ringNext t r = (i + 1) % 2 ^ 32)) ∧
    (fetch → alone → txJobBad s entry = false → txAddrBad s entry len = true → Does (.txFetch ring) s (fails s job 2)) ∧
    (fetch → good → txHdrLen entry + len ≤ 9212 → cellPlan s .shared 16 size = none → Does (.txFetch ring) s (fun t =>
      holdAt t ring.val = some { fetched with len := some len } ∧ t.regs = s.regs)) ∧
    (fetch → good → txHdrLen entry + len ≤ 9212 → built → txSums entry (hd ++ pl) = some d → txLaunch entry = false → egAt s k = [] →
      Does (.txFetch ring) s (fun t => holdAt t ring.val = none ∧ (frameAt t s.pkt.nextFid).data = d ∧
        egAt t k = [⟨s.pkt.nextFid, .job job (txCsum entry), none, false, true, some v.mono.toNat⟩] ∧ t.pkt.sh = s.pkt.sh + plan.2.1 ∧
        t.regs = v.regs)) ∧
    (poll → wdf g 0 31 31 = 0 → h.polls + 1 < limit → Does (.gatePoll ring) s (fun t =>
      holdAt t ring.val = some { h with polls := h.polls + 1 } ∧ t.regs = u.regs)) ∧
    (poll → wdf g 0 31 31 = 0 → limit ≤ h.polls + 1 → Does (.gatePoll ring) s (fails u h.job 3)) ∧
    (poll → wdf g 0 31 31 = 1 → wdf g 0 30 27 ≠ 0 → Does (.gatePoll ring) s (fails u h.job 3)) ∧
    (frozen s = false → heads → egAt s q = x :: [] → rdb s (Reg.ETH_TC_CFG p cls.val) 0 = true → x.launch = some lt →
      Does (.launchTimeReached port cls) s (fun t => t = ntWait s lt)) ∧
    (free → heads → egAt s q = [x] → x.kind = .fwd → can cls.val → (∀ c, cls.val < c → c < 8 → ¬ can c) → Does (.frameTransmit port frac) s (fun t =>
      wireAt t p = some ⟨x, bytes, nt, n.mono.toNat + byteCounts s p (bytes.length + 4)⟩ ∧ egAt t q = [] ∧ t.mono = n.mono ∧
      SMap.get 0 t.pkt.idleAt p = n.mono.toNat + byteCounts s p (bytes.length + 24) ∧ t.regs = s.regs)) ∧
    (free → heads → (∀ c, c < 8 → ¬ can c) → Does (.frameTransmit port frac) s (fun t => t = s)) ∧
    (¬ free → Does (.frameTransmit port frac) s (fun t => t = s)) ∧
    (wireAt s p = some w → w.stop < 2 ^ 64 →
      (frozen s = false → last w.tx → Does (.txComplete port) s (fun t => counted t ∧ gone w.tx t ∧
        RegsBut s t [Reg.ETH_TX_FRAMES p, Reg.ETH_TX_BYTES p])) ∧
      (frozen s = true → Does (.txComplete port) s (fun t => counted t ∧ t.pkt.frames = s.pkt.frames))) ∧
    (frozen s = false → linkUp s p = false → egAt s q = [x] → last x → Does (.txLinkTimeout port cls) s (fun t => egAt t q = [] ∧ gone x t ∧
      t.regs = s.regs)) ∧
    ((frozen s = true ∨ linkUp s p = true) → Does (.txLinkTimeout port cls) s (fun t => t = s)) ∧
    (3 ≤ mode s → linkMode s p ab = 5 → portLinks s (p + 1) = [] → Does (.linkChange port (some ab)) s (fun t =>
      rd t (Reg.ETH_STAT p) = 11 ∧ rd t (Reg.ETH_STAT (p + 1)) = 0 ∧ RegsBut s t [Reg.ETH_STAT p, Reg.ETH_STAT (p + 1)] ∧ t.fab = s.fab)) ∧
    (3 ≤ mode s → linkMode s p ab ≠ 0 → linkMode s p ab ≠ 5 → Does (.linkChange port (some ab)) s (fun t =>
      rd t (Reg.ETH_STAT p) = BitVec.ofNat 32 (2 * linkMode s p ab + 1) ∧ RegsBut s t [Reg.ETH_STAT p] ∧ t.pkt = s.pkt ∧ t.fab = s.fab)) ∧
    (3 ≤ mode s → portLinks s p = [] → Does (.linkChange port none) s (fun t => rd t (Reg.ETH_STAT p) = 0 ∧ RegsBut s t [Reg.ETH_STAT p] ∧
      (linkUp s p = true → SMap.get 0 t.pkt.downAt p = s.mono.toNat) ∧ t.fab = s.fab)) ∧
    (let z := SMap.get 0 s.pkt.pause q
     z < 2 ^ 64 → Does (.pauseExpiry port cls) s (fun t => SMap.get 0 t.pkt.pause q = 0 ∧ z ≤ t.mono.toNat ∧ t.regs = s.regs))

/-! ### Datum and Plumb (R326 to R360) -/

/-- Network time: a read latches it; a frequency offset or a slew begins a segment without moving it; a step moves it by its amount and withdraws what waits; a measurement is discarded, steps, waits for a confirmation or steers the frequency; the servo gives a lost source up (R331 to R341). Acting in the cycle of the write is the model's choice, and an event that R341 puts before one of its cycle moves to the next cycle (log entry 116). -/
def Obligations.NetworkTimeCompletes : Prop :=
  ∀ (s : State) (who : Who) (v lo hi : Word), Awake s →
    let now := ntNow s
    let d := s.dtm
    let own : Prop := srvSrc s = 0
    let step := Reg.DTM_STEP_CTRL
    let may (a : Nat) : Prop := passes s who a true = true
    let still : Prop := ∀ k, k < 5 → (outAt s k).armed = false
    let later := laterThan s d.measAt
    let last := laterThan later d.tuneAt
    let begun (w : State) : Prop := d.m0 ≤ w.mono.toNat
    let moved (w : State) (amount : Int) (t : State) : Prop := (ntNow t : Int) = ((ntNow w : Int) + amount) % (ntWrap : Int) ∧ t.dtm.slew = 0 ∧ t.dtm.pend = false ∧
      rd t Reg.DTM_STEP_COUNT = rd s Reg.DTM_STEP_COUNT + 1 ∧ rdb t Reg.DTM_INT_STAT 3 = true
    let o := sext 64 (lo.toNat + hi.toNat * 2 ^ 32)
    let meas : Prop := may Reg.DTM_SRV_MEAS_HI ∧ (srvSrc s = 1 ∨ srvSrc s = 4)
    let kept : Prop := meas ∧ frozen s = false ∧ d.stepAt ≠ some s.mono.toNat ∧ (d.state = 1 ∨ d.state = 2)
    let met := { d with lastMeas := s.mono.toNat, measAt := some s.mono.toNat }
    let big : Prop := (rd s Reg.DTM_SRV_LIM).toNat * 65536 ≤ o.natAbs
    let back : Prop := 0 < o ∧ (rd s Reg.DTM_STEP_THRESH).toNat * 65536 < o
    let dm := s.mono.toNat - d.mPrev
    let uf : Frac := Frac.red (-5 * o, 262144 * dm)
    let fi := if srvSrc s = 4 then (sint (rd s Reg.DTM_SYNCE_FFO), 2 ^ 40) else Frac.add d.fi (Frac.scale uf 1 (2 ^ rdf s Reg.DTM_SRV_CFG 11 8))
    let aim := Frac.u40 (Frac.add fi (Frac.scale uf 1 (2 ^ rdf s Reg.DTM_SRV_CFG 7 4)))
    let inside : Prop := o.natAbs ≤ rdf s Reg.DTM_SRV_LOCK 15 0 * 65536
    let meter : Instr := .servoMeasurement who lo hi
    (passes s who Reg.DTM_NT_FRAC false = true → Does (.ntReadLatch who) s (fun t => t.resp = .word (BitVec.ofNat 32 (now % 2 ^ 16)) ∧
      rd t Reg.DTM_NT_NS = BitVec.ofNat 32 (now / 2 ^ 16 % 10 ^ 9) ∧ rd t Reg.DTM_NT_SEC_LO = BitVec.ofNat 32 (now / 2 ^ 16 / 10 ^ 9) ∧
      rd t Reg.DTM_NT_SEC_HI = BitVec.ofNat 32 (now / 2 ^ 16 / 10 ^ 9 / 2 ^ 32) ∧ rd2 t Reg.DTM_NT_MONO_LO Reg.DTM_NT_MONO_HI = s.mono.toNat ∧
      t.dtm = s.dtm)) ∧
    (may Reg.DTM_FFO → own → begun later → Does (.ffoWrite who v) s (fun t => rd t Reg.DTM_FFO = v ∧ ntNow t = ntNow later ∧ t.mono = later.mono ∧
      (rd s Reg.DTM_FFO ≠ v → t.dtm.m0 = t.mono.toNat) ∧ RegsBut s t [Reg.DTM_FFO])) ∧
    (may Reg.DTM_FFO → ¬ own → Does (.ffoWrite who v) s (fun t => t = s)) ∧
    (may Reg.DTM_SLEW_OFS → own → begun later → v ≠ 0 → Does (.slewWrite who v) s (fun t => t.dtm.slew = sint v * (5 * 10 ^ 9) ∧
      ntNow t = ntNow later ∧ t.mono = later.mono ∧ t.dtm.m0 = t.mono.toNat ∧ t.regs = s.regs)) ∧
    (may Reg.DTM_SLEW_OFS → ¬ own → Does (.slewWrite who v) s (fun t => t = s)) ∧
    (d.slew ≠ 0 → slewRate s ≠ 0 → slewEnd s < 2 ^ 64 → Does .slewEnd s (fun t => t.dtm.slew = 0 ∧ t.dtm.m0 = slewEnd s ∧
      slewEnd s ≤ t.mono.toNat ∧ t.regs = s.regs)) ∧
    (d.slew = 0 → Does .slewEnd s (fun t => t = s)) ∧
    (may step → still → begun last → Does (.stepGo who) s (fun t => moved last (stepAmount s) t ∧ t.mono = last.mono ∧ t.dtm.stepAt = some t.mono.toNat ∧
      t.dtm.state = (if d.state = 2 then 1 else d.state) ∧ RegsBut s t [Reg.DTM_STEP_COUNT, Reg.DTM_INT_STAT, Reg.PWR_MODE])) ∧
    (may step → still → begun last → d.pend = true → Does (.stepConfirm who) s (fun t => moved last (pendVal s) t ∧
      t.dtm.state = (if d.state = 2 then 1 else d.state) ∧ t.dtm.first = true ∧
      RegsBut s t [Reg.DTM_STEP_COUNT, Reg.DTM_INT_STAT, Reg.PWR_MODE])) ∧
    (may step → d.pend = false → Does (.stepConfirm who) s (fun t => t = s)) ∧
    (may step → Does (.stepCancel who) s (fun t => t.dtm = { d with pend := false } ∧ t.regs = s.regs)) ∧
    (may Reg.DTM_SRV_CFG → Does (.servoSourceWrite who v) s (fun t => srvSrc t = fld v 2 0 ∧ t.dtm.state = 0 ∧ t.dtm.pend = false ∧
      t.dtm.first = true ∧ rdb t Reg.PWR_MODE 17 = false ∧ (fld v 2 0 ≠ srvSrc s → rdf t Reg.DTM_PLUMB_STAT 31 16 = 0 ∧ t.dtm.learnSec = 0) ∧
      RegsBut s t [Reg.DTM_SRV_CFG, Reg.PWR_MODE, Reg.DTM_PLUMB_STAT])) ∧
    (may Reg.DTM_SRV_MEAS_HI → srvSrc s ≠ 1 → srvSrc s ≠ 4 → Does meter s (fun t => t.dtm = d ∧ t.regs = s.regs)) ∧
    (meas → (frozen s = true ∨ d.stepAt = some s.mono.toNat) → Does meter s (fun t => t.dtm = d ∧
      rd t Reg.DTM_SRV_DISCARD = rd s Reg.DTM_SRV_DISCARD + 1 ∧ RegsBut s t [Reg.DTM_SRV_DISCARD])) ∧
    (kept → big → back → d.pend = false → Does meter s (fun t => t.dtm = { met with pend := true } ∧
      pendVal t = -o ∧ rdb t Reg.DTM_INT_STAT 4 = true ∧ ntNow t = now)) ∧
    (kept → big → d.pend = true → o ≠ -(2 ^ 63) → Does meter s (fun t => t.dtm = met ∧ pendVal t = -o ∧ ntNow t = now)) ∧
    (kept → big → ¬ back → d.pend = false → still → begun s → Does meter s (fun t => moved s (-o) t ∧ t.dtm.state = 1 ∧ t.dtm.first = true)) ∧
    (kept → ¬ big → d.pend = false → (d.first = true ∨ dm = 0) → Does meter s (fun t =>
      t.dtm = { met with mPrev := s.mono.toNat, first := false } ∧ rd t Reg.DTM_FFO = rd s Reg.DTM_FFO)) ∧
    (kept → ¬ big → d.pend = false → d.first = false → dm ≠ 0 → Does meter s (fun t => rd t Reg.DTM_FFO = ofSint 32 (clampFfo s aim) ∧
      t.dtm.fi = fi ∧ t.dtm.mPrev = s.mono.toNat ∧ (inside → d.state = 1 → d.inCnt + 1 < 16 → t.dtm.state = 1 ∧ t.dtm.inCnt = d.inCnt + 1) ∧
      (inside → d.state = 1 → 16 ≤ d.inCnt + 1 → t.dtm.state = 2 ∧ rdb t Reg.DTM_INT_STAT 5 = true) ∧
      (¬ inside → d.state = 2 → 16 ≤ d.outCnt + 1 → t.dtm.state = 1))) ∧
    (d.state = 1 → Does .servoLossTimeout s (fun t => t.dtm = { d with state := 0 } ∧ rdb t Reg.PWR_MODE 17 = false ∧ RegsBut s t [Reg.PWR_MODE])) ∧
    (d.state = 2 → srvSrc s ≠ 3 → Does .servoLossTimeout s (fun t => t.dtm.state = 3 ∧ t.dtm.holdSince = t.mono.toNat ∧ rdb t Reg.PWR_MODE 17 = true ∧
      rdb t Reg.DTM_INT_STAT 6 = true ∧ ((mode s = 4 ∨ mode s = 5 ∨ mode s = 6) → mode t = 7 ∧ rdf t Reg.PWR_MODE 11 8 = mode s))) ∧
    (d.state ≠ 1 → (d.state ≠ 2 ∨ srvSrc s = 3) → Does .servoLossTimeout s (fun t => t = s))

/-- The pins and Plumb: an output is armed, pulses and ends its pulse; an edge is captured or lost, and a capture is popped; a SyncE window gives an offset, if its port kept its link; each second Plumb takes the temperature, and learns or steers; the ageing term and the ensemble of peers (R348 to R357). -/
def Obligations.TimePinsAndPlumbComplete : Prop :=
  ∀ (s : State) (who : Who) (out : Fin 4) (k : Fin 5) (rising : Bool) (v : Word) (ys old : Word) (off : Option Word) (n : Nat) (cs : List (Bool × Nat)), Awake s →
    let o := out.val
    let a := Reg.DTM_EVO_START_S_HI o
    let low := Reg.DTM_EVO_START_S_LO o
    let w := plainWrite (takeStaged s low) a v
    let first := evoStart w o
    let runs (k : Nat) : Prop := (outAt s k).armed = true ∧ outPulses s k = true
    let pulsed (k : Nat) (t : State) : Prop :=
      outAt t k = { outAt s k with armed := outRepeats s k, next := ((outAt s k).next + outPeriod s k * 65536) % ntWrap, high := true,
                                     stop := t.mono.toNat + (outWidth s k * 5 + 3) / 4 } ∧
      t.mono = (ntWait s (outAt s k).next).mono ∧ t.regs = s.regs ∧ ∀ j, j ≠ k → outAt t j = outAt s j
    let i := k.val
    let c := inAt s i
    let soon : Prop := ∃ l, c.last = some l ∧ s.mono.toNat < l + 13
    let quiet : Prop := i ≠ 4 ∨ srvSrc s ≠ 2
    let u := notBefore s (s.dtm.synceStart + 2 ^ rdf s Reg.DTM_SYNCE_CFG 11 8 * 1250000000)
    let blind : Prop := off = none ∨ synceKept s = false
    let sec := wr (notBefore s (s.dtm.secStart + 1250000000)) Reg.DTM_PLUMB_TEMP (plumbTemp s)
    let y := plumbY sec
    let mean := meanFfo (notBefore s (s.dtm.secStart + 1250000000))
    let err := Frac.add mean (-y.1, y.2)
    let c0 := sint (rd s (Reg.DTM_PLUMB_C 0))
    let ens := notBefore s (s.dtm.ensStart + ensCounts s)
    let closed := s.dtm.peers.map (peerClose (ntNow ens))
    let has := (closed.filter peerHas).map peerFreq
    let keep := peerKeep (rdf s Reg.DTM_PLUMB_ENS_CFG 15 0) (wMedian has)
    let used := (closed.filter keep).map peerFreq
    let ensOn : Prop := s.dtm.state = 3 ∧ rdb s Reg.DTM_PLUMB_ENS_CFG 31 = true
    let few : Prop := used.length < rdf s Reg.DTM_PLUMB_ENS_CFG 21 16
    (passes s who a true = true → (outPulses s o = false ∨ ntDiff (ntNow s) first ≤ 0) → Does (.eventOutArm who out v) s (fun t =>
      outAt t o = { outAt s o with armed := true, next := first } ∧ rd t a = rd w a ∧ rd t low = rd w low ∧ RegsBut s t [a, low])) ∧
    (passes s who a true = true → outPulses s o = true → 0 < ntDiff (ntNow s) first → Does (.eventOutArm who out v) s (fun t =>
      (outAt t o).high = true ∧ (outAt t o).armed = outRepeats s o ∧ (outAt t o).stop = s.mono.toNat + (outWidth s o * 5 + 3) / 4 ∧
      rdb t (Reg.DTM_EVO_CFG o) 3 = true ∧ rdb t Reg.DTM_INT_STAT 2 = true)) ∧
    (runs o → Does (.eventOutPulse out) s (pulsed o)) ∧
    (¬ runs o → Does (.eventOutPulse out) s (fun t => t = s)) ∧
    (runs 4 → Does .ppsOutPulse s (pulsed 4)) ∧
    (¬ runs 4 → Does .ppsOutPulse s (fun t => t = s)) ∧
    ((outAt s i).high = true → (outAt s i).stop < 2 ^ 64 → Does (.eventOutPulseEnd k) s (fun t =>
      outAt t i = { outAt s i with high := false } ∧ (outAt s i).stop ≤ t.mono.toNat ∧ t.regs = s.regs)) ∧
    ((outAt s i).high = false → Does (.eventOutPulseEnd k) s (fun t => t = s)) ∧
    (edgeWanted s i rising = true → quiet → ¬ soon → c.fifo.length < 4 → Does (.eventInCapture k rising) s (fun t =>
      inAt t i = ⟨c.fifo ++ [(rising, captureTime s i)], some s.mono.toNat⟩ ∧ rdb t Reg.DTM_INT_STAT 1 = true ∧ RegsBut s t [Reg.DTM_INT_STAT])) ∧
    (edgeWanted s i rising = true → (soon ∨ 4 ≤ c.fifo.length) → Does (.eventInCapture k rising) s (fun t => t.dtm = s.dtm ∧
      rd t (Reg.DTM_EVI_OVF i) = rd s (Reg.DTM_EVI_OVF i) + 1 ∧ rdb t Reg.DTM_INT_STAT 0 = true)) ∧
    (edgeWanted s i rising = false → Does (.eventInCapture k rising) s (fun t => t = s)) ∧
    (passes s who (Reg.DTM_EVI_TS0 i) false = true →
      (c.fifo = [] → Does (.capturePop who k) s (fun t => t.resp = .word 0 ∧ t.dtm = s.dtm ∧ t.regs = s.regs)) ∧
      (c.fifo = (rising, n) :: cs → Does (.capturePop who k) s (fun t =>
        t.resp = .word (BitVec.ofNat 32 (2 ^ 31 + rising.toNat * 2 ^ 30 + n % 2 ^ 16)) ∧ inAt t i = { c with fifo := cs } ∧
        rd t (Reg.DTM_EVI_TS1 i) = BitVec.ofNat 32 (ntNs n) ∧ rd t (Reg.DTM_EVI_TS2 i) = BitVec.ofNat 32 (ntSec n) ∧
        rd t (Reg.DTM_EVI_TS3 i) = BitVec.ofNat 32 (ntSec n / 2 ^ 32)))) ∧
    (rdb s Reg.DTM_SYNCE_CFG 0 = false → Does (.synceWindow off) s (fun t => t = s)) ∧
    (rdb s Reg.DTM_SYNCE_CFG 0 = true →
      (synceKept s = true → srvSrc s ≠ 3 → Does (.synceWindow (some ys)) s (fun t =>
        t.dtm = { s.dtm with synceStart := t.mono.toNat, synceLost := false, synceValid := true } ∧
        t.mono = u.mono ∧ rd t Reg.DTM_SYNCE_FFO = ys ∧ RegsBut s t [Reg.DTM_SYNCE_FFO])) ∧
      (synceKept s = true → srvSrc s = 3 → s.dtm.state = 1 → srvDiscards u = false → Does (.synceWindow (some ys)) s (fun t => rd t Reg.DTM_SYNCE_FFO = ys ∧
        rd t Reg.DTM_FFO = ys ∧ t.dtm.state = 2 ∧ t.dtm.synceValid = true ∧ t.dtm.lastMeas = u.mono.toNat)) ∧
      (blind → (srvSrc s ≠ 3 ∨ s.dtm.state ≠ 2) → Does (.synceWindow off) s (fun t =>
        t.dtm = { s.dtm with synceStart := t.mono.toNat, synceLost := !linkUp s (syncePort s), synceValid := false } ∧ t.regs = s.regs)) ∧
      (blind → srvSrc s = 3 → s.dtm.state = 2 → Does (.synceWindow off) s (fun t => t.dtm.state = 3 ∧ t.dtm.synceValid = false ∧
        rdb t Reg.PWR_MODE 17 = true))) ∧
    Does .plumbSecond s (fun t => rd t Reg.DTM_PLUMB_TEMP = plumbTemp s ∧ t.dtm.secStart = t.mono.toNat ∧ t.dtm.ffoAcc = 0 ∧
      (s.dtm.state ≠ 3 → (s.dtm.state ≠ 0 ∨ srvSrc s = 0) → (s.dtm.state ≠ 2 ∨ rdb s Reg.DTM_PLUMB_CFG 6 = false) →
        RegsBut s t [Reg.DTM_PLUMB_TEMP]) ∧
      ((s.dtm.state = 3 ∨ (s.dtm.state = 0 ∧ srvSrc s ≠ 0)) → rd t Reg.DTM_FFO = ofSint 32 (clampFfo s (rne y.1 y.2))) ∧
      (s.dtm.state = 2 → rdb s Reg.DTM_PLUMB_CFG 6 = true →
        rd t (Reg.DTM_PLUMB_C 0) = ofSint 32 (c0 + rne err.1 (err.2 * 2 ^ rdf s Reg.DTM_PLUMB_CFG 11 8)))) ∧
    (s.dtm.ageDue = true → s.dtm.c0Hist[24]? = some old → Does .plumbAgeUpdate s (fun t =>
      rd t Reg.DTM_PLUMB_AGE = ofSint 32 (rne (c0 - sint old) 24) ∧ t.dtm = { s.dtm with ageDue := false } ∧ RegsBut s t [Reg.DTM_PLUMB_AGE])) ∧
    (s.dtm.ageDue = true → s.dtm.c0Hist[24]? = none → Does .plumbAgeUpdate s (fun t => t.dtm = { s.dtm with ageDue := false } ∧ t.regs = s.regs)) ∧
    (s.dtm.ageDue = false → Does .plumbAgeUpdate s (fun t => t = s)) ∧
    (¬ ensOn → Does .plumbEnsemble s (fun t => t.dtm.peers = peerJoin closed ∧ t.dtm.ensStart = ens.mono.toNat ∧ t.regs = s.regs)) ∧
    (ensOn → few → Does .plumbEnsemble s (fun t => rd t (Reg.DTM_PLUMB_C 0) = rd s (Reg.DTM_PLUMB_C 0) ∧ rdb t Reg.DTM_INT_STAT 7 = true ∧
      rdf t Reg.DTM_PLUMB_STAT 15 8 = used.length % 256)) ∧
    (ensOn → ¬ few → Does .plumbEnsemble s (fun t =>
      let num := used.foldl (fun f x => Frac.add f (Frac.scale x.1 x.2 1)) (0, 1)
      let f := Frac.scale num 1 (max 1 (qSelf ens + (used.map (·.2)).sum))
      rd t (Reg.DTM_PLUMB_C 0) = ofSint 32 (c0 + rne (f.1 * 2 ^ 38) f.2) ∧ rd t Reg.DTM_PLUMB_ENS_LAST = ofSint 32 (Frac.u40 f)))

/-! ### The fabric router (R361 to R398) -/

/-- Links and credit: HELLO is sent and received, links come UP, time out and are reset; a credited frame leaves when its credit allows and is reconciled where it arrives; CREDIT returns totals; lost units are written off; a transit frame waits so long at most; the audit sums are latched (R364 to R378). -/
def Obligations.FabricLinkCompletes : Prop :=
  ∀ (s : State) (who : Who) (j : Fin 64) (cls : Fin 4) (l : Link) (f : FabTx) (fs : List FabTx) (r : FabRx) (rest : List FabRx) (fid i port m : Nat)
    (fids : List Nat) (plan : Nat × Nat × Nat) (reports : List (Nat × Nat)) (rep at' : Nat), Awake s → frozen s = false →
    let on : Prop := rdb s Reg.FAB_CTRL 0 = true ∧ 3 ≤ mode s
    let int := Reg.FAB_INT_STAT
    let freed (k : Nat) (t : State) : Prop := SMap.get none t.pkt.frames k = none
    let here : Prop := linkAt s j.val = some l
    let hs : State := let u := notBefore s (s.fab.helloAt + 125000000)
      { u with fab := { u.fab with helloAt := u.mono.toNat } }
    let bytes := fabFrame hs port 0x0300000088B5 1 0 (fabBytes hs 0 0 0 0 true (myHello hs port))
    let eg0 := egKey port (fabTc s 0)
    let hello := fabOwn hs (fabBytes hs 0 0 0 0 true (myHello hs port))
    let quiet : Prop := (∀ c, 1 ≤ c → c ≤ 3 → fabEg s j.val c = []) ∧ ∀ e ∈ s.pkt.eg, ∀ x ∈ e.2, ofLink j.val x = false
    let c := cls.val
    let u := unitsOf l (max 60 (14 + f.bytes.length))
    let sent := (clsOf l.sent c + u) % 2 ^ 32
    let credit : Prop := sub32 (clsOf l.sent c) (clsOf l.returned c) + u ≤ limOf l c
    let waiting : Prop := on ∧ here ∧ c ≠ 0 ∧ fabEg s j.val c = f :: fs ∧ l.state = 2
    let out := egKey l.port (fabTc s c)
    let gone (code k : Nat) (t : State) : Prop := rd t (Reg.FAB_DROP code) = rd s (Reg.FAB_DROP code) + 1 ∧ freed k t
    let fr := frameAt s fid
    let h := fabPart fr.data
    let came : Prop := s.fab.rx = fid :: fids
    let byLink : Prop := came ∧ on ∧ fhType h ≠ 0 ∧ mode s ≠ 3 ∧ linkOf s fr = some (i, l) ∧ hdrBad h l.ver h.length = false ∧ fhCls h ≠ 0 ∧
      linkAt s i = some l
    let units := unitsOf l fr.data.length
    let gap := sub32 (fhCsent h) (units + clsOf l.received (fhCls h))
    let mine : Prop := fhLl h = true ∨ (rdb s Reg.FAB_STAT 31 = true ∧ fhDst h = myAddr s)
    let l' : Link := { l with received := setCls l.received (fhCls h) (fhCsent h),
                              freed := setCls l.freed (fhCls h) (clsOf l.freed (fhCls h) + gap), creditDue := l.creditDue || gap != 0 }
    let local' (type : Nat) : Prop := s.fab.loc = r :: rest ∧ fhType (fabPart (frameAt s r.fid).data) = type
    let pay := fhPay (fabPart (frameAt s r.fid).data)
    let ret (c : Nat) := be pay (4 * (c - 1)) 4
    let ok (c : Nat) : Bool := decide (sub32 (ret c) (clsOf l.returned c) ≤ sub32 (clsOf l.sent c) (clsOf l.returned c))
    let hi := parseHello pay
    let inPort := (frameAt s r.fid).port
    let mac := srcMac (frameAt s r.fid).data
    let known (k : Nat) : Prop := linkAt s k = some l ∧ l.port = inPort ∧ l.hello.serial = hi.serial ∧
      (portLinks s inPort).find? (fun x => match linkAt s x with
        | some y => y.hello.serial == hi.serial
        | none => false) = some k
    let stranger : Prop := ∀ k, k < 64 → ∀ y, linkAt s k = some y → y.port = inPort → y.hello.serial ≠ hi.serial
    let stat := Reg.FAB_CMD_STAT
    let sums (g : Link → Nat → Nat) : Word := linkSum s g
    let lim := sums (fun l c => limOf l c * 2 ^ l.unit)
    let used := sums (fun l c => sub32 (clsOf l.sent c) (clsOf l.returned c) * 2 ^ l.unit)
    let offered := sums (fun l c => clsOf l.mine c)
    let holds := sums (fun l c => sub32 (clsOf l.received c) (clsOf l.freed c) * 2 ^ l.unit)
    (¬ on → Does .helloSend s (fun t => t = s)) ∧
    (on → helloPorts s = [port] → cellPlan s .shared 16 (bytes.length + 4) = some plan → egAt s eg0 = [] → Does .helloSend s (fun t =>
      t.fab = hs.fab ∧ t.mono = hs.mono ∧ (frameAt t s.pkt.nextFid).data = bytes ∧
      egAt t eg0 = [⟨s.pkt.nextFid, .router hello none, none, false, true, some hs.mono.toNat⟩])) ∧
    (on → local' 0 → r.link = none → r.up = none → addrState s ≠ 1 → rdb s Reg.FAB_ASSIGNER 31 = true → stranger → freeLink s inPort = some m →
      Does .hello s (fun t => freed r.fid t ∧ t.fab.loc = rest ∧ ∃ y, linkAt t m = some y ∧ y.state = 1 ∧ y.port = inPort ∧ y.mac = mac ∧
        y.hello = hi ∧ y.ver = commonVer s hi.vers ∧ y.heard = s.mono.toNat)) ∧
    (on → local' 0 → r.up = none → addrState s ≠ 1 → rdb s Reg.FAB_ASSIGNER 31 = true → stranger → freeLink s inPort = none →
      Does .hello s (fun t => rd t Reg.FAB_LINK_FULL = rd s Reg.FAB_LINK_FULL + 1 ∧ rdb t int 2 = true ∧ t.fab.links = s.fab.links)) ∧
    (on → local' 0 → r.up = none → addrState s ≠ 1 → rdb s Reg.FAB_ASSIGNER 31 = true → known m → l.state = 1 → l.ptag = none →
      nextState s hi = 2 → Does .hello s (fun t => rdb t int 0 = true ∧ t.fab.epoch = s.fab.epoch + 1 ∧ ∃ y, linkAt t m = some y ∧ y.state = 2 ∧
        y.hello = hi ∧ y.mine = myOffers s ∧ y.theirs = hi.offers ∧ y.sent = [0, 0, 0] ∧ y.returned = [0, 0, 0])) ∧
    (here → l.heard + 500000000 < 2 ^ 64 → quiet → Does (.linkTimeout j) s (fun t => linkAt t j.val = none ∧ l.heard + 500000000 ≤ t.mono.toNat ∧
      (l.state = 2 → rdb t int 1 = true ∧ ∀ a, ∀ x ∈ (routeAt t a).nh, x.1 ≠ j.val))) ∧
    (linkAt s j.val = none → Does (.linkTimeout j) s (fun t => t = s)) ∧
    (waiting → credit → f.fid = some i → egAt s out = [] → Does (.fabricFrameSend j cls) s (fun t =>
      linkAt t j.val = some { l with sent := setCls l.sent c sent } ∧ fabEg t j.val c = fs ∧
      (frameAt t i).data = fabFrame s l.port l.mac l.ver sent f.bytes ∧
      egAt t out = [⟨i, .router f (some j.val), none, false, true, some s.mono.toNat⟩])) ∧
    (waiting → ¬ credit → Does (.fabricFrameSend j cls) s (fun t => t = s)) ∧
    (on → here → l.state = 2 → egAt s (egKey l.port (fabTc s 0)) = [] → Does (.creditSend j) s (fun t =>
      linkAt t j.val = some { l with creditDue := false, creditAt := t.mono.toNat } ∧
      t.mono = (notBefore s (l.creditAt + if l.creditDue then 1250000 else 125000000)).mono)) ∧
    (local' 1 → r.link = some i → linkAt s i = some l → l.returned.length = 3 → Does .credit s (fun t => freed r.fid t ∧ t.fab.loc = rest ∧
      ∃ y, linkAt t i = some y ∧ y.sent = l.sent ∧ ∀ c, 1 ≤ c → c ≤ 3 → clsOf y.returned c = if ok c then ret c else clsOf l.returned c)) ∧
    (came → ¬ on → Does .fabricFrameReceive s (fun t => gone 7 fid t ∧ t.fab.rx = fids)) ∧
    (came → on → fhType h = 0 → hdrBad h 1 h.length = true → Does .fabricFrameReceive s (fun t => gone 0 fid t ∧ t.fab.rx = fids)) ∧
    (came → on → fhType h = 0 → hdrBad h 1 h.length = false → fhLl h = true → Does .fabricFrameReceive s (fun t =>
      t.fab = { s.fab with rx := fids, loc := s.fab.loc ++ [⟨fid, none, none⟩] } ∧ t.regs = s.regs)) ∧
    (came → on → fhType h ≠ 0 → linkOf s fr = none → Does .fabricFrameReceive s (fun t => gone 7 fid t ∧ t.fab.rx = fids)) ∧
    (byLink → gap < 2 ^ 31 → mine → (fhLl h = true ∨ fhSv h = true) → Does .fabricFrameReceive s (fun t => linkAt t i = some l' ∧
      t.fab.loc = s.fab.loc ++ [⟨fid, some i, some ⟨i, l.epoch, fhCls h, units⟩⟩] ∧ t.fab.rx = fids ∧
      rd t Reg.FAB_LOST_UNITS = rd s Reg.FAB_LOST_UNITS + BitVec.ofNat 32 gap)) ∧
    (byLink → 2 ^ 31 ≤ gap → Does .fabricFrameReceive s (fun t => gone 6 fid t ∧ t.fab.links = s.fab.links ∧ t.fab.rx = fids)) ∧
    (on → here → l.state = 2 → c ≠ 0 → behind l c = (rep, at') :: reports → Does (.creditWriteOff j cls) s (fun t =>
      let lost := sub32 rep (clsOf l.received c)
      rd t Reg.FAB_LOST_UNITS = rd s Reg.FAB_LOST_UNITS + BitVec.ofNat 32 lost ∧ linkAt t j.val = some { l with
        received := setCls l.received c rep, freed := setCls l.freed c (clsOf l.freed c + lost), creditDue := true,
        lag := l.lag.set (c - 1) reports })) ∧
    (on → (fabEg s j.val c).find? (fun x => x.fid.isSome) = some f → f.fid = some i → f.up = none → f.job = none →
      Does (.transitTimeout j cls) s (fun t => gone 5 i t ∧ fabEg t j.val c = (fabEg s j.val c).erase f)) ∧
    (passes s who Reg.FAB_CMD true = true → linkAt s j.val = none → Does (.linkReset who j) s (fun t => rdf t stat 2 0 = 3 ∧ rdb t stat 29 = true ∧
      t.fab = s.fab ∧ RegsBut s t [stat])) ∧
    (passes s who Reg.FAB_CMD true = true → here → l.state ≠ 2 → Does (.linkReset who j) s (fun t => rdf t stat 2 0 = 0 ∧ rdb t stat 30 = true ∧
      linkAt t j.val = none ∧ RegsBut s t [stat])) ∧
    (passes s who Reg.FAB_AUD_SNAP true = true → Does (.fabAuditSnapshot who) s (fun t => rd t Reg.FAB_AUD_LIMIT = lim ∧
      rd t Reg.FAB_AUD_OUT = used ∧ rd t Reg.FAB_AUD_AVAIL = lim - used ∧ rd t Reg.FAB_AUD_OFFER = offered ∧ rd t Reg.FAB_AUD_RXHELD = holds ∧
      rd t Reg.FAB_AUD_RXFREE = offered - holds ∧ t.fab = s.fab))

/-- Addresses and routes: a request is made, relayed and granted, a tentative address becomes valid; ROUTE entries and software set routes, and a next hop that is not refreshed leaves; the table and TIME are sent; TIME reaches Datum; MIGC and DATA reach software; a fabric transmit entry ends with the code of the check that fails (R379 to R389, R395). -/
def Obligations.FabricRoutingCompletes : Prop :=
  ∀ (s : State) (who : Who) (j : Fin 64) (addr : BitVec 14) (r : FabRx) (rest : List FabRx) (l : Link) (i a hops tag since : Nat) (x : Areq) (xs : List Areq)
    (p : List Byte), Awake s → frozen s = false →
    let on : Prop := rdb s Reg.FAB_CTRL 0 = true ∧ 3 ≤ mode s
    let int := Reg.FAB_INT_STAT
    let freed (t : State) : Prop := SMap.get none t.pkt.frames r.fid = none
    let local' (type : Nat) : Prop := s.fab.loc = r :: rest ∧ fhType (fabPart (frameAt s r.fid).data) = type ∧ r.up = none ∧ r.fid ≠ s.pkt.nextFid
    let h := fabPart (frameAt s r.fid).data
    let pay := fhPay h
    let valid (b : Nat) (t : State) : Prop := addrState t = 2 ∧ myAddr t = b ∧ rdb t Reg.FAB_STAT 31 = true ∧ rdb t int 3 = true ∧
      t.fab.lastAddr = some b
    let calm : Prop := ∀ m, m < 16 → (sessAt s m).state ≠ 2
    let rt := routeAt s a
    let cost := min (hops + 1) 15
    let told : Prop := local' 4 ∧ r.link = some i ∧ routeEntries pay = [(a, hops, tag)] ∧ ¬ (holdsAddr s = true ∧ a = myAddr s) ∧ rt.static = false
    let newRoute (y : Route) (t : State) : Prop := routeAt t a = y ∧ (∀ b, b ≠ a → routeAt t b = routeAt s b) ∧ freed t
    let stat := Reg.FAB_CMD_STAT
    let may : Prop := passes s who Reg.FAB_CMD true = true
    let target := slice (rd s (Reg.FAB_CMD_ARG 0)).toNat 13 0
    let asked := slice (rd s (Reg.FAB_CMD_ARG 0)).toNat 19 16
    let hopsArg := nhOf s (rd s (Reg.FAB_CMD_ARG 1)).toNat
    let ended (code : Nat) (t : State) : Prop := rdf t stat 2 0 = code ∧ rdb t stat (if code = 0 then 30 else 29) = true
    let shown := shownRoute s target
    let ages := shown.nh.map (fun x => (s.mono.toNat - x.2) / 1250000000)
    let self := holdsAddr s && target == myAddr s
    let ix := ringNext s .fab
    let off := ringEntry s .fab ix
    let y := sramGet s off 32
    let type := wdf y 2 31 28
    let n := wdf y 2 13 0
    let typed : Prop := (type = 3 ∨ type = 6 ∨ type = 7) ∧ n ≤ 9170
    let placed : Prop := inMem s (wdAddr y 0) n = true
    let linked : Prop := rdb s Reg.FAB_STAT 31 = true ∧ (wdf y 3 15 15 = 0 ∨ isUp s (wdf y 4 5 0) = true)
    let fetch : Prop := on ∧ ringReady s .fab = true ∧ s.pkt.done = [] ∧ (rd s Reg.FAB_TXR_CONS).toNat = ix ∧ ringBase s .fab + 8 ≤ off + 24
    let fails (code : Nat) (t : State) : Prop := sramGet t (off + 24) 4 = leBytes 4 (2 ^ 31 + 2 ^ 27 * code) ∧
      rd t Reg.FAB_TXR_CONS = rd s Reg.FAB_TXR_CONS + 1 ∧ ringNext t .fab = (ix + 1) % 2 ^ 32
    let ts := 65536 * (10 ^ 9 * be pay 0 6 + be pay 6 4) + be pay 10 2
    ((addrState s ≠ 3 ∨ ¬ on) → Does (.areq true) s (fun t => t = s)) ∧
    (addrState s = 3 → on → askLink s = some i → linkAt s i = some l → egAt s (egKey l.port (fabTc s 0)) = [] → s.fab.addrAt + 1250000000 < 2 ^ 64 →
      Does (.areq true) s (fun t => t.fab.addrAt = t.mono.toNat + 1250000000 ∧ s.fab.addrAt ≤ t.mono.toNat ∧ t.fab.areqs = s.fab.areqs)) ∧
    (local' 2 → fhLl h = true → rdb s Reg.FAB_CTRL 4 = false → r.link = some i → rdb s Reg.FAB_ASSIGNER 31 = true → rdb s Reg.FAB_STAT 31 = true →
      (s.fab.areqs.filter (fun x => x.serial != be pay 0 8)).length < 16 → Does (.areq false) s (fun t => freed t ∧
        t.fab.areqs = s.fab.areqs.filter (fun x => x.serial != be pay 0 8) ++ [⟨be pay 0 8, i, s.mono.toNat⟩])) ∧
    (local' 3 → calm → be pay 0 8 = serial → addrState s = 3 → (be pay 8 2).testBit 15 = true → Does .agrant s (fun t => valid (be pay 8 2 % 2 ^ 14) t ∧
      freed t)) ∧
    (local' 3 → be pay 0 8 ≠ serial → s.fab.areqs.find? (fun z => z.serial == be pay 0 8) = some x → Does .agrant s (fun t =>
      t.fab.areqs = s.fab.areqs.erase x ∧ freed t ∧ rd t Reg.FAB_STAT = rd s Reg.FAB_STAT)) ∧
    (s.fab.areqs = x :: xs → Does .areqPendingExpiry s (fun t => t.fab = { s.fab with areqs := xs } ∧ t.regs = s.regs)) ∧
    (s.fab.areqs = [] → Does .areqPendingExpiry s (fun t => t = s)) ∧
    (addrState s = 1 → on → calm → Does .tentativeTimeout s (valid (myAddr s))) ∧
    ((addrState s ≠ 1 ∨ ¬ on) → Does .tentativeTimeout s (fun t => t = s)) ∧
    (on → upLinks s = [] → s.fab.routeAt + 1250000000 < 2 ^ 64 → Does (.routeSend true) s (fun t => t.fab.routeAt = t.mono.toNat ∧
      s.fab.routeAt + 1250000000 ≤ t.mono.toNat ∧ t.regs = s.regs)) ∧
    (on → Does (.routeSend false) s (fun t => t.fab.changed = [] ∧ t.mono = s.mono ∧ t.fab.routes = s.fab.routes)) ∧
    (¬ on → Does (.routeSend true) s (fun t => t = s) ∧ Does (.routeSend false) s (fun t => t = s)) ∧
    (told → cost < rt.hops → Does .route s (newRoute { rt with hops := cost, tag := some tag, nh := [(i, s.mono.toNat)] })) ∧
    (told → cost = rt.hops → cost < 15 → rt.tag = some tag → Does .route s (newRoute { rt with nh := addHop s i rt.nh })) ∧
    (told → cost = rt.hops → cost < 15 → ∀ u, rt.tag = some u → u ≠ tag → Does .route s (fun t =>
      newRoute { rt with tag := some (min u tag), nh := addHop s i rt.nh } t ∧ rd t Reg.FAB_ADDR_COLL = rd s Reg.FAB_ADDR_COLL + 1)) ∧
    (told → rt.hops < cost → (∀ z ∈ rt.nh, z.1 ≠ i) → Does .route s (newRoute rt)) ∧
    (told → rt.hops < cost → (∃ z ∈ rt.nh, z.1 = i) → (∀ z ∈ rt.nh, z.1 = i) → Does .route s (newRoute { rt with hops := cost, nh := [(i, s.mono.toNat)] })) ∧
    (local' 4 → r.link = some i → routeEntries pay = [(a, hops, tag)] → holdsAddr s = true → a = myAddr s → 15 ≤ hops → Does .route s (fun t =>
      rd t Reg.FAB_STAT = rd s Reg.FAB_STAT ∧ t.fab.sess = s.fab.sess ∧ t.fab.routes = s.fab.routes ∧ freed t)) ∧
    (on → (routeAt s addr.toNat).static = false → (routeAt s addr.toNat).nh.find? (fun z => z.1 == j.val) = some (i, since) →
      since + 5000000000 < 2 ^ 64 → Does (.nextHopExpiry addr j) s (fun t => since + 5000000000 ≤ t.mono.toNat ∧
        (routeAt t addr.toNat).nh = (routeAt s addr.toNat).nh.filter (fun z => z.1 != j.val) ∧
        ((routeAt t addr.toNat).nh = [] → (routeAt t addr.toNat).hops = 15) ∧ ∀ b, b ≠ addr.toNat → routeAt t b = routeAt s b)) ∧
    ((routeAt s addr.toNat).static = true → Does (.nextHopExpiry addr j) s (fun t => t = s)) ∧
    (on → s.fab.timeAt + 156250000 < 2 ^ 64 → upLinks s = [] → Does .timeSend s (fun t => t.fab.timeAt = t.mono.toNat ∧
      s.fab.timeAt + 156250000 ≤ t.mono.toNat ∧ t.regs = s.regs)) ∧
    (¬ on → Does .timeSend s (fun t => t = s)) ∧
    (local' 5 → r.link = some i → linkAt s i = some l → Does .time s (fun t => freed t ∧ t.fab.loc = rest ∧
      t.dtm = if l.time = 7 then (peerMessage s l.hello.addr (be pay 12 1 % 16) ts (frameAt s r.fid).nt).dtm else s.dtm)) ∧
    (local' 7 → Does .migc s (fun t => freed t ∧ t.fab.loc = rest ∧
      t.sram = (rxDeliver { s with fab := { s.fab with loc := rest } } (frameAt s r.fid) (frameAt s r.fid).data (rdf s Reg.FAB_RING 3 0) 0).sram)) ∧
    (local' 6 → Does .data s (fun t => freed t ∧ t.fab.loc = rest ∧
      t.sram = (rxDeliver { s with fab := { s.fab with loc := rest } } (frameAt s r.fid) (frameAt s r.fid).data (rdf s Reg.FAB_RING 3 0) 0).sram)) ∧
    (fetch → ¬ typed → Does .fabricTxEntry s (fails 1)) ∧
    (fetch → typed → ¬ placed → Does .fabricTxEntry s (fails 2)) ∧
    (fetch → typed → placed → ¬ linked → Does .fabricTxEntry s (fails 4)) ∧
    (fetch → typed → placed → linked → ∀ u, memRead (setRingNext s .fab (ix + 1)) fabPort (wdAddr y 0) n = (some p, u) → wdf y 3 15 15 = 1 →
      (type = 6 ∨ (type = 7 ∧ l.ver ≠ 1)) → linkAt s (wdf y 4 5 0) = some l → Does .fabricTxEntry s (fun t => ringNext t .fab = (ix + 1) % 2 ^ 32 ∧
        ∃ f, fabEg t (wdf y 4 5 0) (typeCls type) = fabEg s (wdf y 4 5 0) (typeCls type) ++ [f] ∧ fhPay f.bytes = p ∧ fhType f.bytes = type ∧
          f.job = some ⟨16, ix, off, (wd y 4).testBit 8⟩)) ∧
    (fetch → typed → placed → linked → ∀ u, memRead (setRingNext s .fab (ix + 1)) fabPort (wdAddr y 0) n = (some p, u) → wdf y 3 15 15 = 1 →
      type = 7 → linkAt s (wdf y 4 5 0) = some l → l.ver = 1 → Does .fabricTxEntry s (fun t =>
        rd t (Reg.FAB_DROP 3) = rd u (Reg.FAB_DROP 3) + 1 ∧ fabEg t (wdf y 4 5 0) 2 = fabEg s (wdf y 4 5 0) 2)) ∧
    (may → (asked = 0 ∨ asked = 15) → Does (.rtSet who) s (fun t => ended 3 t ∧ t.fab = s.fab)) ∧
    (may → asked ≠ 0 → asked ≠ 15 → Does (.rtSet who) s (fun t => ended 0 t ∧
      routeAt t target = { routeAt s target with hops := asked, static := true, nh := hopsArg } ∧ ∀ b, b ≠ target → routeAt t b = routeAt s b)) ∧
    (may → Does (.rtClear who) s (fun t => ended 0 t ∧ routeAt t target = Route.none ∧ ∀ b, b ≠ target → routeAt t b = routeAt s b)) ∧
    (may → Does (.rtRead who) s (fun t => ended 0 t ∧ t.fab = s.fab ∧
      rd t Reg.FAB_RT_DATA0 = BitVec.ofNat 32 (2 ^ 31 * shown.static.toNat + 2 ^ 30 * self.toNat + 2 ^ 26 * shown.hops +
        2 ^ 22 * min 15 (ages.foldl min (ages.headD 0)) + shown.tag.getD 0) ∧
      rd t Reg.FAB_RT_DATA1 = BitVec.ofNat 32 (shown.nh.zipIdx.map (fun x => (128 + x.1.1) * 2 ^ (8 * x.2))).sum))

/-- Call migration: a session opens and closes; SEGSEND and QSEND queue a command or end with the code of the check that fails; MIGD writes the window, MIGQ syncs the peer queue, MIGA acknowledges, each in sequence or dropped; a session that hears nothing sends again, and ends after eight times (R390 to R394). -/
def Obligations.MigrationCompletes : Prop :=
  ∀ (s u : State) (who : Who) (n : Fin 16) (v : BitVec 31) (r : FabRx) (rest : List FabRx), Awake s → frozen s = false →
    let k := n.val
    let cfg := Reg.FAB_MIG_CFG k
    let stat := Reg.FAB_CMD_STAT
    let on : Prop := rdb s Reg.FAB_CTRL 0 = true ∧ 3 ≤ mode s
    let may : Prop := passes s who Reg.FAB_CMD true = true
    let window : Prop := inMem s (migBase s k) (migLen s k) = true
    let x := sessAt s k
    let counters := [Reg.FAB_MIG_FRAMES k, Reg.FAB_MIG_ACKED k, Reg.FAB_MIG_BYTES k, Reg.FAB_MIG_ITEMS k, Reg.FAB_MIG_REWINDS k]
    let alone (y : Sess) (t : State) : Prop := sessAt t k = y ∧ ∀ m, m ≠ k → sessAt t m = sessAt s m
    let ended (code : Nat) (t : State) : Prop := rdf t stat 2 0 = code ∧ rdb t stat (if code = 0 then 30 else 29) = true
    let fails (code : Nat) (t : State) : Prop := ended code t ∧ t.fab = s.fab ∧ RegsBut s t [stat]
    let a := (rd s (Reg.FAB_CMD_ARG 0)).toNat + 2 ^ 32 * slice (rd s (Reg.FAB_CMD_ARG 1)).toNat 15 0
    let len := (rd s (Reg.FAB_CMD_ARG 2)).toNat
    let placed : Prop := len ≠ 0 ∧ len ≤ 16777216 ∧ inMem s a len = true
    let q := slice (rd s (Reg.FAB_CMD_ARG 0)).toNat 15 0
    let queueOn : Prop := (queueAt s q).en = true
    let sends : Prop := migOpen s k = true ∧ migIn s k = false ∧ (x.state = 1 ∨ x.state = 2)
    let room : Prop := x.cmds.length + (!x.todo.isEmpty).toNat < 8
    let held : Prop := rdb s Reg.FAB_STAT 31 = false ∨ 32 ≤ x.unacked.length
    let queued (c : SessCmd) (t : State) : Prop := ended 0 t ∧ alone { x with cmds := x.cmds ++ [c], state := 2 } t ∧ RegsBut s t [stat]
    let local' (type : Nat) : Prop := s.fab.loc = r :: rest ∧ fhType (fabPart (frameAt s r.fid).data) = type ∧ r.up = none
    let s1 : State := { s with fab := { s.fab with loc := rest } }
    let h := fabPart (frameAt s r.fid).data
    let pay := fhPay h
    let freed (t : State) : Prop := SMap.get none t.pkt.frames r.fid = none
    let mine : Prop := fhFlow h = k ∧ migOpen s k = true ∧ migIn s k = true ∧ x.state = 1 ∧ fhAux h = x.seq
    let nobody : Prop := ∀ m, m < 16 → fhFlow h = m → ¬ (migOpen s m = true ∧ migIn s m = true ∧ (sessAt s m).state = 1 ∧ fhAux h = (sessAt s m).seq)
    let dropped (t : State) : Prop := rd t (Reg.FAB_DROP 7) = rd s (Reg.FAB_DROP 7) + 1 ∧ freed t ∧ t.fab.loc = rest ∧ t.fab.sess = s.fab.sess
    let s2 := accepted s1 k
    let size := be pay 4 2
    let next : Sess := { x with seq := (x.seq + 1) % 65536, toAck := x.toAck + 1, progressAt := s.mono.toNat }
    let fl := be pay 4 1
    let pq := be pay 0 2
    let pqueue := queueAt s pq
    let base := (x.seq + 65536 - x.unacked.length % 65536) % 65536
    let acked := (be pay 0 4 % 65536 + 65536 - base) % 65536
    let hears : Prop := fhFlow h = k ∧ migOpen s k = true ∧ migIn s k = false
    let awaits : Prop := hears ∧ x.state = 2
    let named : Prop := rdb s Reg.FAB_STAT 31 = true
    let late := rdf s Reg.FAB_TIMERS 31 24 * 1250000
    let broken (code : Nat) : Sess := { x with state := 3, err := code, cmds := [], todo := [], unacked := [] }
    (passes s who cfg true = true → (v.getLsbD 30 = false ∨ window) → Does (.sessionOpen who n v) s (fun t => alone { Sess.reset with state := 1 } t ∧
      migOpen t k = true ∧ migIn t k = v.getLsbD 30 ∧ (∀ c ∈ counters, rd t c = 0) ∧ RegsBut s t (cfg :: counters))) ∧
    (passes s who cfg true = true → v.getLsbD 30 = true → ¬ window → Does (.sessionOpen who n v) s (fun t => t.fab = s.fab ∧ t.regs = s.regs ∧
      t.err.arrivals = s.err.arrivals ++ [accessRec srcFab true false (match who with
        | .core _ => 12
        | .bmk => 15) cfg])) ∧
    (passes s who cfg true = true → Does (.sessionClose who n v) s (fun t => alone Sess.reset t ∧ migOpen t k = false ∧ RegsBut s t [cfg])) ∧
    (may → ¬ placed → Does (.segsend who n) s (fails 2)) ∧
    (may → placed → ¬ sends → Does (.segsend who n) s (fails 4)) ∧
    (may → placed → sends → ¬ room → Does (.segsend who n) s (fails 6)) ∧
    (may → placed → sends → room → held → Does (.segsend who n) s (queued (.seg a len (rd s (Reg.FAB_CMD_ARG 3)).toNat))) ∧
    (may → ¬ queueOn → Does (.qsend who n) s (fails 5)) ∧
    (may → queueOn → ¬ sends → Does (.qsend who n) s (fails 4)) ∧
    (may → queueOn → sends → ¬ room → Does (.qsend who n) s (fails 6)) ∧
    (may → queueOn → sends → room → held → Does (.qsend who n) s (queued (.queue q (slice (rd s (Reg.FAB_CMD_ARG 0)).toNat 31 16)))) ∧
    (local' 8 → mine → be pay 0 4 + size ≤ migLen s k → memWrite s2 fabPort (migBase s k + be pay 0 4) (sub pay 8 size) = (true, u) → x.toAck < 15 →
      Does .migd s (fun t => freed t ∧ alone next t ∧ t.fab.loc = rest ∧ t.dram = u.dram ∧ t.sram = u.sram ∧
        rd t (Reg.FAB_MIG_BYTES k) = rd s (Reg.FAB_MIG_BYTES k) + BitVec.ofNat 32 size ∧
        rd t (Reg.FAB_MIG_FRAMES k) = rd s (Reg.FAB_MIG_FRAMES k) + 1)) ∧
    (local' 8 → mine → migLen s k < be pay 0 4 + size → Does .migd s (fun t => (sessAt t k).state = 3 ∧ (sessAt t k).err = 1 ∧
      rdb t Reg.FAB_INT_STAT 7 = true ∧ t.dram = s.dram)) ∧
    (local' 8 → nobody → Does .migd s dropped) ∧
    (local' 9 → dispBusy s = false → mine → fl.testBit 6 = false → fl.testBit 7 = true → fl.testBit 5 = false → x.toAck < 15 →
      pqueue.en = true → pqueue.place = true → pqueue.wp ≤ pqueue.rp → Does .migq s (fun t => freed t ∧ alone next t ∧
        queueAt t pq = { syncTo pqueue (be pay 2 2) with mstate := .none } ∧ ∀ m, m ≠ pq → queueAt t m = queueAt s m)) ∧
    (local' 9 → dispBusy s = false → mine → fl.testBit 7 = true → fl.testBit 5 = false → (pqueue.en = false ∨ pqueue.place = false) →
      Does .migq s (fun t => (sessAt t k).state = 3 ∧ (sessAt t k).err = 2 ∧ t.jq = s.jq)) ∧
    (local' 9 → dispBusy s = false → nobody → Does .migq s dropped) ∧
    (local' 9 → dispBusy s = true → Does .migq s (fun t => t = s)) ∧
    (local' 10 → awaits → be pay 4 4 = 0 → 1 ≤ acked → acked ≤ x.unacked.length → x.todo = [] → x.cmds = [] → Does (.miga none) s (fun t => freed t ∧
      alone { x with unacked := x.unacked.drop acked, progressAt := s.mono.toNat, rewinds := 0,
                     state := if acked = x.unacked.length then 1 else 2 } t ∧
      rd t (Reg.FAB_MIG_ACKED k) = rd s (Reg.FAB_MIG_ACKED k) + BitVec.ofNat 32 acked ∧
      (acked = x.unacked.length → rdb t Reg.FAB_INT_STAT 6 = true))) ∧
    (local' 10 → awaits → be pay 4 4 = 0 → (acked = 0 ∨ x.unacked.length < acked) → Does (.miga none) s (fun t => freed t ∧ alone x t ∧
      t.regs = s.regs)) ∧
    (local' 10 → hears → x.state ≠ 3 → be pay 4 4 ≠ 0 → Does (.miga none) s (fun t => freed t ∧ alone (broken 5) t ∧ rdb t Reg.FAB_INT_STAT 7 = true)) ∧
    (local' 10 → 16 ≤ fhFlow h → Does (.miga none) s dropped) ∧
    (on → named → migOpen s k = true → migIn s k = true → x.toAck ≠ 0 → Does (.miga (some n)) s (fun t => alone { x with toAck := 0 } t ∧
      t.mono = (notBefore s (x.progressAt + 1250000)).mono)) ∧
    ((x.toAck = 0 ∨ ¬ named) → Does (.miga (some n)) s (fun t => t = s)) ∧
    (on → named → x.unacked ≠ [] → x.state = 2 → 8 ≤ x.rewinds → Does (.migrationRetransmit n) s (fun t => alone (broken 4) t ∧
      rdb t Reg.FAB_INT_STAT 7 = true ∧ t.mono = (notBefore s (x.progressAt + late)).mono)) ∧
    (on → named → x.unacked ≠ [] → x.state = 2 → x.rewinds < 8 → Does (.migrationRetransmit n) s (fun t =>
      rd t (Reg.FAB_MIG_REWINDS k) = rd s (Reg.FAB_MIG_REWINDS k) + 1 ∧ t.mono = (notBefore s (x.progressAt + late)).mono ∧
      ((sessAt t k).state = 2 → alone { x with rewinds := x.rewinds + 1, progressAt := t.mono.toNat } t))) ∧
    ((x.unacked = [] ∨ x.state ≠ 2 ∨ ¬ on ∨ ¬ named) → Does (.migrationRetransmit n) s (fun t => t = s))

/-- The commands of the mailbox and of the management port: each does its work and puts its result into the buffer and MB_RSP0, or ends with the code of the check that fails; one that Benchmark does not get to within its row waits (`held`, the model's operand, log entry 80), and a busy mailbox takes none; the port answers every frame of a command (R405, R406, R408, R412, R415, R417 to R419, R421, R423, R424). -/
def Obligations.BenchmarkCommandCompletes : Prop :=
  ∀ (s s1 u : State) (who : Who) (op : BitVec 8) (x y : Word) (data d key : List Byte) (l : List Nat) (up : Update), Within s →
    let a0 := (rd s (Reg.BMK_MB_ARG 0)).toNat
    let a1 := (rd s (Reg.BMK_MB_ARG 1)).toNat
    let stat := Reg.BMK_MB_STAT
    let int := Reg.BMK_INT_STAT
    let rsp := Reg.BMK_MB_RSP 0
    let buf := mbBuf s
    let m := mode s
    let asked : Prop := asleep s = false ∧ passes s who Reg.BMK_MB_CMD true = true
    let free : Prop := asked ∧ rdb s stat 31 = false ∧ s.bmk.work = []
    let may : Prop := free ∧ 3 ≤ m
    let late : Prop := m = 9 ∨ m = 10
    let now : Prop := may ∧ ¬ late
    let heldWrite (c : MbWriter → Instr) (n : Nat) : Prop :=
      (free → Does (c ⟨who, true⟩) s (fun t => t.bmk = { s.bmk with work := [⟨true, n, a0, a1, buf, [], s.mono.toNat⟩] } ∧ rdb t stat 31 = true ∧ RegsBut s t [stat])) ∧
      (asked → rdb s stat 31 = true → Does (c ⟨who, true⟩) s (fun t => t.bmk = s.bmk ∧ rdf t stat 3 0 = 1 ∧ rdb t stat 29 = true ∧ RegsBut s t [stat]))
    let s0 : State := { wrb s stat 31 true with bmk := { s.bmk with work := [], replies := [] } }
    let quiet := s0.bmk
    let ended (code : Nat) (t : State) : Prop := rdf t stat 3 0 = code ∧ rdb t stat (if code = 0 then 30 else 29) = true ∧
      rdb t stat 31 = false ∧ rdb t int (if code = 0 then 0 else 1) = true
    let fails (code : Nat) (t : State) : Prop := ended code t ∧ t.bmk = quiet ∧ t.cip = s.cip ∧ RegsBut s t [stat, int] ∧
      t.dram = s.dram ∧ t.sram = s.sram
    let done (r : Nat) (t : State) : Prop := ended 0 t ∧ rd t rsp = BitVec.ofNat 32 r
    let leaves (v : State) (t : State) : Prop := RegsBut v t [stat, int, rsp] ∧ t.dram = v.dram ∧ t.sram = v.sram
    let placed (n : Nat) : Prop := mbPlaced s buf n = true
    let reads (n : Nat) : Prop := placed n ∧ memRead s0 bmkPort buf n = (some d, s1)
    let puts (v : State) (n : Nat) (bs : List Byte) : Prop := placed n ∧ memWrite v bmkPort buf bs = (true, u)
    let b := updateSlot s
    let rec' := slotRec s
    let back (t : State) : Prop := mode t = if m = 9 then rdf s Reg.PWR_MODE 15 12 else m
    let emptied (t : State) : Prop := slotOf' t b = ⟨true, []⟩ ∧ slotOf' t (!b) = slotOf' s (!b)
    let same (t : State) : Prop := slotOf' t b = slotOf' s b ∧ slotOf' t (!b) = slotOf' s (!b)
    let counts : Prop := rec'.seq ≠ 0xFFFFFFFF
    let is (t : State) (r : SlotRec) : Prop := slotRec t = SlotRec.sealed { r with seq := rec'.seq + 1 }
    let session : Prop := may ∧ s.bmk.update = some up
    let inOrder : Prop := session ∧ a0 = up.next ∧ a1 ≠ 0 ∧ a1 ≤ 65536 ∧ a0 + a1 ≤ up.len
    let bad := imgCheck s b (slotHeader s b)
    let log := (logFrom s (a0 % 65536) a1).map recBytes
    let k := a0 % 16
    let f0 : State := { s with bmk := quiet }
    let frame (held : Bool) : Instr := .mgmtCommandFrame op x y ⟨data, held⟩
    let served : Prop := 2 ≤ m ∧ mgmtOps s = some l ∧ data.length ≤ 1024
    let first : Prop := served ∧ op.toNat ∈ l ∧ s.bmk.work = []
    let job : MbJob := ⟨false, op.toNat, x.toNat, y.toNat, 0, data, s.mono.toNat⟩
    let code := mbCheck f0 op.toNat x.toNat y.toNat false
    let run := mbRun f0 op.toNat x.toNat y.toNat (data.take (mbIn op.toNat y.toNat))
    (heldWrite .identity 0x01 ∧ heldWrite .logRead 0x10 ∧ heldWrite .updateBegin 0x20 ∧ heldWrite .updateData 0x21 ∧
      heldWrite .updateEnd 0x22 ∧ heldWrite .updateAbort 0x23 ∧ heldWrite .bootConfirm 0x24 ∧ heldWrite .keyRevoke 0x25 ∧
      heldWrite .attest 0x30 ∧ heldWrite .calRead 0x40 ∧ heldWrite .calWrite 0x41 ∧ heldWrite .kek0Fuse 0x50 ∧
      heldWrite .kekSet 0x51 ∧ heldWrite .kekClear 0x52) ∧
    (may → puts s0 8192 (identity s0) → Does (.identity ⟨who, false⟩) s (fun t => done 0xA1 t ∧ t.bmk = quiet ∧ leaves u t)) ∧
    (may → ¬ placed 8192 → Does (.identity ⟨who, false⟩) s (fails 2)) ∧
    (may → puts s0 (32 * log.length) log.flatten → Does (.logRead ⟨who, false⟩) s (fun t => done log.length t ∧ t.bmk = quiet ∧ leaves u t)) ∧
    (may → s.bmk.update = none → trialPending s = false → a0 ≤ slotSize → Does (.updateBegin ⟨who, false⟩) s (fun t => done b.toNat t ∧
      t.bmk.update = some ⟨a0, 0⟩ ∧ emptied t ∧ slotRec t = rec' ∧ mode t = if 4 ≤ m ∧ m ≤ 8 then 9 else m)) ∧
    (may → s.bmk.update.isSome ∨ trialPending s = true → Does (.updateBegin ⟨who, false⟩) s (fails 3)) ∧
    (may → s.bmk.update = none → trialPending s = false → slotSize < a0 → Does (.updateBegin ⟨who, false⟩) s (fails 4)) ∧
    (may → s.bmk.update = none → Does (.updateData ⟨who, false⟩) s (fails 3) ∧ Does (.updateEnd ⟨who, false⟩) s (fails 3) ∧
      Does (.updateAbort ⟨who, false⟩) s (fails 3)) ∧
    (session → a0 ≠ up.next ∨ a1 = 0 ∨ 65536 < a1 ∨ up.len < a0 + a1 → Does (.updateData ⟨who, false⟩) s (fails 5)) ∧
    (inOrder → ¬ placed a1 → Does (.updateData ⟨who, false⟩) s (fails 2)) ∧
    (inOrder → reads a1 → Does (.updateData ⟨who, false⟩) s (fun t => if Config.flashFails s1.freeCtr then ended 7 t ∧ t.bmk = quiet else done 0 t ∧
      leaves s1 t ∧ t.bmk.update = some ⟨up.len, a0 + d.length⟩ ∧ slotOf' t (!b) = slotOf' s (!b) ∧ slotRec t = rec' ∧
      ∀ i, slotByte t b i = if a0 ≤ i ∧ i < a0 + d.length then d.getD (i - a0) 0 else slotByte s b i)) ∧
    (session → counts → Does (.updateEnd ⟨who, false⟩) s (fun t => t.bmk.update = none ∧ back t ∧
      (if bad ≠ 0 then ended 6 t ∧ rd t rsp = BitVec.ofNat 32 bad ∧ emptied t ∧ slotRec t = rec'
      else if Config.flashFails s.freeCtr then ended 7 t ∧ emptied t ∧ slotRec t = rec'
      else done 0 t ∧ same t ∧ is t { rec' with pending := true, pendSlot := b, tries := 3 }))) ∧
    (session → Does (.updateAbort ⟨who, false⟩) s (fun t => done 0 t ∧ t.bmk.update = none ∧ emptied t ∧ slotRec t = rec' ∧ back t)) ∧
    (now → s.bmk.trial = true → counts → Does (.bootConfirm ⟨who, false⟩) s (fun t => done t.bmk.count t ∧ leaves s t ∧ t.bmk.trial = false ∧
      t.bmk.count = max s.bmk.count (min 64 (hdrSc s.bmk.header)) ∧ is t { rec' with active := rec'.pendSlot, pending := false })) ∧
    (now → s.bmk.trial = false → Does (.bootConfirm ⟨who, false⟩) s (fails 3)) ∧
    (now → ¬ (s.bmk.running.isSome = true ∧ hdrKey s.bmk.header = a0 % 2) → Does (.keyRevoke ⟨who, false⟩) s (fun t => done 0 t ∧ leaves s t ∧
      t.bmk = { quiet with revoked := s.bmk.revoked ||| BitVec.ofNat 2 (2 ^ (a0 % 2)) })) ∧
    (now → s.bmk.running.isSome = true → hdrKey s.bmk.header = a0 % 2 → Does (.keyRevoke ⟨who, false⟩) s (fails 3)) ∧
    (may → reads 32 → puts (quote s1 d).2 3565 (quote s1 d).1 → Does (.attest ⟨who, false⟩) s (fun t => done 0 t ∧ t.bmk = quiet ∧ leaves u t)) ∧
    (now → puts s0 2048 (calFlash s) → Does (.calRead ⟨who, false⟩) s (fun t => done 0 t ∧ t.bmk = quiet ∧ leaves u t)) ∧
    (may → m = 3 ∨ m = 11 → reads 2048 → calGood d = false → Does (.calWrite ⟨who, false⟩) s (fun t => ended 9 t ∧ t.bmk = quiet)) ∧
    (may → m = 3 ∨ m = 11 → reads 2048 → calGood d = true → Does (.calWrite ⟨who, false⟩) s (fun t => if Config.flashFails s1.freeCtr then ended 7 t ∧
      t.bmk = { quiet with cal := some (List.replicate 2048 0xFF) } else done 0 t ∧ leaves s1 t ∧ t.bmk = { quiet with cal := some d })) ∧
    (may → m ≠ 3 → m ≠ 11 → Does (.calWrite ⟨who, false⟩) s (fails 8)) ∧
    (may → m = 3 → s.bmk.kek0 = none → reads 32 → Does (.kek0Fuse ⟨who, false⟩) s (fun t => done 0 t ∧ leaves s1 t ∧
      t.bmk = { quiet with kek0 := some d })) ∧
    (may → m = 3 → s.bmk.kek0.isSome → Does (.kek0Fuse ⟨who, false⟩) s (fails 3)) ∧
    (may → m ≠ 3 → Does (.kek0Fuse ⟨who, false⟩) s (fails 8)) ∧
    (now → k ≠ 0 → s.bmk.kek0.isSome → reads 40 → keyUnwrap (s.bmk.kek0.getD []) d = some key → key.length = 32 →
      Does (.kekSet ⟨who, false⟩) s (fun t => done 0 t ∧ SMap.get [] t.cip.keks k = key ∧ rdb t Reg.CIP_KEK_VALID k = true ∧ t.bmk = quiet)) ∧
    (now → k ≠ 0 → s.bmk.kek0.isSome → reads 40 → keyUnwrap (s.bmk.kek0.getD []) d = none → Does (.kekSet ⟨who, false⟩) s (fun t => ended 11 t ∧
      t.bmk = quiet ∧ t.cip = s.cip)) ∧
    (now → k ≠ 0 → s.bmk.kek0 = none → Does (.kekSet ⟨who, false⟩) s (fails 10)) ∧
    (now → k = 0 → Does (.kekSet ⟨who, false⟩) s (fails 12) ∧ Does (.kekClear ⟨who, false⟩) s (fails 12)) ∧
    (now → k ≠ 0 → Does (.kekClear ⟨who, false⟩) s (fun t => done 0 t ∧ SMap.get [] t.cip.keks k = [] ∧ rdb t Reg.CIP_KEK_VALID k = false ∧
      t.bmk = quiet)) ∧
    (mgmtOps s = none ∨ 1024 < data.length → Does (frame true) s (fun t => t = s) ∧ Does (frame false) s (fun t => t = s)) ∧
    (served → op.toNat ∉ l → Does (frame true) s (fun t => t = mgmtAnswer s 13 0 [])) ∧
    (served → op.toNat ∈ l → s.bmk.work = [] → Does (frame true) s (fun t => t = { s with bmk := { s.bmk with work := [job] } })) ∧
    (first → code ≠ 0 → Does (frame false) s (fun t => t = mgmtAnswer f0 code 0 [])) ∧
    (first → code = 0 → data.length < mbIn op.toNat y.toNat → Does (frame false) s (fun t => t = mgmtAnswer f0 2 0 [])) ∧
    (first → code = 0 → mbIn op.toNat y.toNat ≤ data.length → Does (frame false) s (fun t => t = mgmtAnswer run.2.2.2 run.1 run.2.1 run.2.2.1)) ∧
    (first → op = 0x22 → s.bmk.recovery = true → m = 2 → s.bmk.update = some up → counts →
      Does (frame false) s (fun t => mode t = 2 ∧ t.bmk.update = none ∧ (bad = 0 → Config.flashFails s.freeCtr = false →
        rdb t Reg.PWR_RST_CAUSE 1 = true ∧ same t ∧ is t { rec' with active := b, pending := false })))

/-- Modes, resets, start-up, gating, standby and wake, and the starting of cores: each request is refused with its code, discarded and logged, or does what Tables 16.1 to 16.6 give it (R323, R411, R418, R426 to R441, R469 to R471, R483). -/
def Obligations.PowerCommandCompletes : Prop :=
  ∀ (s : State) (who : Who) (core : Fin 4) (v : Word) (dom : Fin 100) (unit : Fin 51) (pll : Fin 3) (j4 : Fin 4) (j2 : Fin 2) (dseed cseed : BitVec 64)
    (load entry : Addr) (image frame : List Byte) (pin port0 good : Bool) (ref p : Nat) (delays : List (Option Nat)), s.void = false →
    let awake : Prop := asleep s = false
    let m := mode s
    let up : Prop := 2 ≤ m
    let may (a : Nat) : Prop := awake ∧ passes s who a true = true
    let same (t : State) : Prop := t = s
    let clear (t : State) : Prop := (trvHeld t = true → rdb t Reg.TRV_CTRL 0 = false) ∧ (fabHeld t = true → rdb t Reg.FAB_CTRL 0 = false) ∧
      (onestepHeld t = true → rdb t Reg.DTM_PTP_CFG 1 = false)
    let enters (k : Nat) (t : State) : Prop := mode t = k ∧ clear t
    let turned (port : Nat) (src a : Nat) (t : State) : Prop := t.regs = s.regs ∧ t.tiles = s.tiles ∧
      t.err.arrivals = s.err.arrivals ++ [accessRec src true false port a]
    -- modes
    let q := fld v 3 0
    let req : Prop := may Reg.PWR_MODE_REQ
    let cmd : Instr := .modeRequest who v
    -- resets
    let bare (v t : State) : Prop := t.dram = [] ∧ t.sram = [] ∧ t.tiles = [] ∧ t.trv = Trv.reset ∧ t.jq = Jq.reset ∧ t.cip = Cip.reset ∧ t.dtm = Dtm.reset ∧
      t.pkt = Pkt.reset ∧ t.fab = Fab.reset ∧ t.err = Err.reset ∧ t.mono = 0 ∧ t.bmk.kek0 = v.bmk.kek0 ∧ t.bmk.revoked = v.bmk.revoked ∧
      t.bmk.count = v.bmk.count ∧ t.bmk.rec0 = v.bmk.rec0 ∧ t.bmk.rec1 = v.bmk.rec1 ∧ t.bmk.cal = v.bmk.cal ∧ t.bmk.flashLog = v.bmk.flashLog ∧
      t.bmk.update = none ∧ t.bmk.trial = false
    let full (cause : Nat) (t : State) : Prop := bare s t ∧ rd t Reg.PWR_RST_CAUSE = setBit (rd s Reg.PWR_RST_CAUSE) cause true ∧
      (∀ a, a ≠ Reg.PWR_RST_CAUSE → rd t a = resetOf a) ∧
      slotOf' t (!updateSlot s) = slotOf' s (!updateSlot s) ∧ slotOf' t (updateSlot s) = (if s.bmk.update.isSome then ⟨true, []⟩ else slotOf' s (updateSlot s))
    let asFull : Prop := m = 10 ∨ dmcFrozen s = true
    let warm (cause : Nat) (t : State) : Prop := enters 2 t ∧ rdb t Reg.PWR_RST_CAUSE cause = true ∧ t.sram = [] ∧ t.tiles = [] ∧ t.trv = Trv.reset ∧
      t.jq = Jq.reset ∧ t.cip = Cip.reset ∧ t.pkt = Pkt.reset ∧ t.fab = Fab.reset ∧ t.dtm = s.dtm ∧ t.mono = s.mono ∧ t.dmc.selfRefresh = true ∧
      t.bmk.trial = false ∧ ∀ a, warmKeeps a = false → rd t a = resetOf a
    let warms : Prop := up ∧ passes s who Reg.PWR_RST true = true
    let key : Prop := fld v 31 16 = 0xC1A5
    -- boot
    let c := slotRec s
    let ok (b : Bool) : Bool := imgCheck s b (slotHeader s b) == 0
    let chosen : Option Bool × Bool := if c.pending ∧ 0 < c.tries ∧ ok c.pendSlot then (some c.pendSlot, true)
      else if ok c.active then (some c.active, false) else if ok (!c.active) then (some (!c.active), false) else (none, false)
    let boot : Instr := .bootComplete delays dseed cseed load entry image
    let starts (k : Nat) (a : Addr) (t : State) : Prop := rdb t Reg.BMK_CORE_STAT k = true ∧ rdb t Reg.BMK_CORE_STAT (4 + k) = false ∧
      SMap.get 0 t.pwr.entry k = a
    let handed (t : State) : Prop := enters 3 t ∧ starts 0 entry t ∧ getBytes t.sram 0x7FFF00 4 = leBytes 4 0x4F485A46 ∧
      ∀ k, s.bmk.kek0 = some k → SMap.get [] t.cip.keks 0 = k ∧ rdb t Reg.CIP_KEK_VALID 0 = true
    -- standby
    let busy : Prop := modeBusy s = true
    let armed : Prop := m = 1 ∨ busy
    let hit : Prop := (List.range 8).find? (wakeHit s frame) = some p ∧ good = true ∧ wakeWatched s port0 = true ∧ s.pwr.wake = false
    let wakes : Prop := s.pwr.wake = true ∨ pin = true ∧ rdb s Reg.PWR_STBY_CFG 1 = true
    -- gating
    let j := j4.val
    let gate := Reg.CLK_GATE j
    let barred : Prop := who ≠ .bmk ∧ j = 2 ∧ (v ^^^ rd s gate) &&& 0xF ≠ 0
    let mask := if who = .bmk ∧ j = 2 then gateMask s j ||| 0xE00F else gateMask s j
    let d := dom.val
    let i := j2.val
    let pg := Reg.PWR_PGATE i
    let pstat := Reg.PWR_PGATE_STAT i
    let foreign : Prop := who ≠ .bmk ∧ i = 1 ∧ (v ^^^ rd s pg) &&& 0x70000 ≠ 0
    let new := pgateBits s i v
    let off (k : Nat) : Prop := k < (if i = 0 then 32 else 16) ∧ new.getLsbD k = true ∧ rdb s pstat k = false
    let u := unit.val
    let back (w k : Nat) : Prop := rdb s (Reg.PWR_PGATE_STAT w) k = true ∧ rdb s (Reg.PWR_PGATE w) k = false
    -- cores
    let k := core.val
    let ctl : Prop := may Reg.BMK_CORE_CTRL ∧ k ≠ 0
    let was : Prop := rdb s Reg.BMK_CORE_CTRL (4 + k) = true
    let offline : Prop := rdb s Reg.BMK_CORE_STAT (4 + k) = true
    let running : Prop := rdb s Reg.BMK_CORE_STAT k = true
    let dark : Prop := rdb s (Reg.PWR_PGATE_STAT 1) (15 + k) = true
    let isOff (t : State) : Prop := rdb t Reg.BMK_CORE_STAT k = false ∧ rdb t Reg.BMK_CORE_STAT (4 + k) = true ∧
      rdb t (Reg.CLK_GATE 2) (12 + k) = true ∧ rdb t (Reg.CLK_GATE_STAT 2) (12 + k) = true
    (req → q = 0 → Does cmd s (fun t => RegsBut s t [Reg.PWR_MODE_REQ])) ∧
    (req → q ≠ 0 → modeRefusal s q ≠ 0 → Does cmd s (fun t => rdb t Reg.PWR_MODE_REQ 7 = true ∧ rdf t Reg.PWR_MODE_REQ 11 8 = modeRefusal s q ∧
      rdb t Reg.PWR_INT_STAT 1 = true ∧ RegsBut s t [Reg.PWR_MODE_REQ, Reg.PWR_INT_STAT])) ∧
    (req → q = 1 → modeRefusal s q = 0 → Does cmd s (fun t => mode t = m ∧ modeBusy t = true)) ∧
    (req → 1 < q → q ≠ 8 → m = 7 → modeRefusal s q = 0 → Does cmd s (fun t => enters 7 t ∧ rdf t Reg.PWR_MODE 11 8 = q)) ∧
    (req → q = 8 → m ≠ 7 → modeRefusal s q = 0 → Does cmd s (fun t => enters 8 t ∧ rdf t Reg.PWR_MODE 11 8 = m ∧ rdb t Reg.PWR_INT_STAT 0 = true)) ∧
    (req → 1 < q → (m = 7 ↔ q = 8) → modeRefusal s q = 0 → Does cmd s (fun t => enters q t ∧ rdb t Reg.PWR_INT_STAT 0 = true)) ∧
    (Does .powerOnReset s (fun t => bare s t ∧ slotOf' t false = slotOf' s false ∧ slotOf' t true = slotOf' s true ∧ t.regs = [] ∧ t.void = false ∧ mode t = 2)) ∧
    (Does .supplyRemoved s (fun t => mode t = 0 ∧ match Config.torn s.freeCtr with
      | some n => bare (flashTorn n s) t
      | none => bare s t)) ∧
    (may Reg.PWR_RST → key → Does (.fullReset who v) s (full 3)) ∧
    (may Reg.PWR_RST → ¬ key → Does (.fullReset who v) s same) ∧
    (warms → ¬ key → Does (.warmReset (some who) v) s same) ∧
    (warms → key → v.getLsbD 1 = true → Does (.warmReset (some who) v) s (full 3)) ∧
    (warms → key → v.getLsbD 1 = false → ¬ asFull → Does (.warmReset (some who) v) s (warm 5)) ∧
    (warms → key → v.getLsbD 1 = false → asFull → Does (.warmReset (some who) v) s (full 5)) ∧
    (up → ¬ asFull → Does (.warmReset none v) s (warm 4)) ∧
    (up → asFull → Does (.warmReset none v) s (full 4)) ∧
    (m = 2 → s.bmk.recovery = false → s.bmk.select = true ∨ s.bmk.running = none → Does boot s (fun t => t.bmk.running = chosen.1 ∧ t.bmk.trial = chosen.2 ∧
      t.bmk.recovery = chosen.1.isNone ∧ if chosen.1 = none then mode t = 2 else handed t)) ∧
    (m ≠ 2 ∨ s.bmk.recovery = true → Does boot s same) ∧
    (awake → busy → Does .standbyEntry s (fun t => enters 1 t ∧ modeBusy t = false ∧ t.tiles = [] ∧ t.sram = [] ∧ t.cip = Cip.reset ∧ t.dtm = s.dtm ∧
      t.pwr.wake = s.pwr.wake ∧ (rdb s Reg.PWR_STBY_CFG 0 = false → t.dram = []) ∧
      (rdb s Reg.PWR_STBY_CFG 0 = true → t.dmc.selfRefresh = true))) ∧
    (awake → ¬ busy → Does .standbyEntry s same) ∧
    (armed → hit → Does (.wakeMatch port0 frame good) s (fun t => t.pwr.wake = true ∧ RegsBut s t [Reg.PKT_WAKE_STAT] ∧
      rd t Reg.PKT_WAKE_STAT = BitVec.ofNat 32 (2 ^ 31 + (if port0 then 16 else 8) + p))) ∧
    (¬ armed → Does (.wakeMatch port0 frame good) s same) ∧
    (m = 1 → wakes → Does (.wake pin ref) s (fun t => enters 2 t ∧ rdb t Reg.PWR_RST_CAUSE 6 = true ∧ rdb t Reg.PWR_INT_STAT 2 = true ∧
      t.pwr.wake = false ∧ t.mono = s.mono + BitVec.ofNat 64 (50 * ref) ∧ (rdb s Reg.FAB_CTRL 0 = false → t.dram = s.dram))) ∧
    (m = 1 → ¬ wakes → Does (.wake pin ref) s same) ∧
    (m ≠ 1 → busy → pin = true → rdb s Reg.PWR_STBY_CFG 1 = true → Does (.wake pin ref) s (fun t => t = { s with pwr := { s.pwr with wake := true } })) ∧
    (m ≠ 1 → ¬ busy → Does (.wake pin ref) s same) ∧
    (may gate → barred → Does (.clockGateWrite who j4 v) s (turned 12 srcClk gate)) ∧
    (may gate → ¬ barred → Does (.clockGateWrite who j4 v) s (fun t => rd t gate = (rd s gate &&& ~~~ mask) ||| (v &&& mask) ∧
      rd t (Reg.CLK_GATE_STAT j) = rd s (Reg.CLK_GATE_STAT j) &&& (rd t gate ||| unpowered s j))) ∧
    (awake → gateAsked s d = true → domainIdle s d = true → Does (.domainGated dom) s (fun t => gated t d = true ∧ RegsBut s t [Reg.CLK_GATE_STAT (d / 32)] ∧
      ∀ e, e ≠ d → gated t e = gated s e)) ∧
    (awake → ¬ (gateAsked s d = true ∧ domainIdle s d = true) → Does (.domainGated dom) s same) ∧
    (may pg → foreign →  Does (.powerGateWrite who j2 v) s (turned 12 srcPwr pg)) ∧
    (may pg → ¬ foreign → Does (.powerGateWrite who j2 v) s (fun t =>
      rd t pg = new ∧ rd t pstat = rd s pstat ||| new ∧
      (∀ k, off k → ∀ h, h < 2 → tileAt t (64 * i + 2 * k + h) = Tile.reset ∧
        ∀ a, a / 2 ^ 20 = 0x10400 + (64 * i + 2 * k + h) → rd t a = resetOf a) ∧
      ∀ n, n < 96 → ¬ (n / 64 = i ∧ off (n / 2 % 32)) → tileAt t n = tileAt s n)) ∧
    (awake → u < 48 → back (u / 32) (u % 32) → Does (.pairPowerUpDone unit) s (fun t => rdb t (Reg.PWR_PGATE_STAT (u / 32)) (u % 32) = false ∧
      (gateAsked s u = false → gated t u = false) ∧ ∀ h, h < 2 → (tileAt t (2 * u + h)).fill = true ∧ (tileAt t (2 * u + h)).dmem = [])) ∧
    (awake → 48 ≤ u → back 1 (u - 32) → Does (.pairPowerUpDone unit) s (fun t => rdb t (Reg.PWR_PGATE_STAT 1) (u - 32) = false ∧
      (rdb s Reg.BMK_CORE_STAT (u - 43) = true → rdb s Reg.BMK_CORE_CTRL (u - 43) = false → starts (u - 47) (coreEntry s) t))) ∧
    (awake → (u < 48 ∧ ¬ back (u / 32) (u % 32)) ∨ (48 ≤ u ∧ ¬ back 1 (u - 32)) → Does (.pairPowerUpDone unit) s same) ∧
    (up → Does (.pllLossOfLock pll) s (fun t => t.void = true ∧ rdb t Reg.CLK_STAT (1 + pll.val) = true ∧ (s.err.arrivals = [] → t.err.arrivals = [] ∧ mode t = m ∧
      rdf t Reg.ERR_STAT 1 0 = 3 ∧ rdb t Reg.ERR_INT_STAT 1 = true ∧ (s.err.queue.length < 64 → t.err.queue = s.err.queue ++
        [recWords s ⟨srcClk, 3, 0x40, BitVec.ofNat 32 (rdf t Reg.CLK_STAT 3 1), 0, true⟩])))) ∧
    (ctl → v.getLsbD (4 + k) = false → ¬ was → ¬ offline → ¬ running → Does (.coreRelease who core v) s (starts k (coreEntry s))) ∧
    (ctl → v.getLsbD (4 + k) = false → ¬ was → offline ∨ running → Does (.coreRelease who core v) s (fun t =>
      rdb t Reg.BMK_CORE_STAT k = rdb s Reg.BMK_CORE_STAT k ∧ rdb t Reg.BMK_CORE_STAT (4 + k) = rdb s Reg.BMK_CORE_STAT (4 + k) ∧
      SMap.get 0 t.pwr.entry k = SMap.get 0 s.pwr.entry k)) ∧
    (ctl → v.getLsbD (4 + k) = true → ¬ was → Does (.coreRelease who core v) s isOff ∧ Does (.coreOffline who v) s isOff) ∧
    (ctl → v.getLsbD (4 + k) = false → was → ¬ dark → Does (.coreOffline who v) s (starts k (coreEntry s))) ∧
    (ctl → v.getLsbD (4 + k) = false → was → dark → Does (.coreOffline who v) s (fun t => rdb t (Reg.PWR_PGATE 1) (15 + k) = false))

/-- Benchmark's upkeep (sensors and thresholds, external temperature, the log's copy, the seeds, the trial's end), the ERR block (records in order, the queue, the freeze, a pop, snapshot and audit), doorbells, the interrupt pin, an excursion, and software's reads and writes of registers and of shared SRAM (R2, R5, R7, R264, R294, R401 to R405, R412, R443 to R452, R455, R456, R459, R466, R467). -/
def Obligations.UpkeepAndAccessComplete : Prop :=
  ∀ (s u : State) (who : Who) (readings : List (BitVec 16)) (reading : BitVec 16) (dseed cseed : BitVec 64) (n i : Nat) (mem : List MemErr) (r : ErrIn)
    (top : ErrRec) (more : List ErrRec) (j : Fin 2) (v w : Word) (addr : Addr) (desc dlo dhi : RegDesc) (d : List Byte) (ok : Bool), s.void = false →
    let awake : Prop := asleep s = false
    let m := mode s
    let up : Prop := 2 ≤ m
    let may (a : Nat) (write : Bool) : Prop := awake ∧ passes s who a write = true
    let same (t : State) : Prop := t = s
    -- sensors
    let s0 := notBefore s ((s.bmk.sampleAt / 1250000 + 1) * 1250000)
    let val := corrected { s with freeCtr := s.freeCtr + i } i (readings.getD i 0)
    let was := rdb s (aboveReg i) (i % 32)
    let now := aboveNext i (thrInForce s0 i) was (sensorVal i val.toNat)
    let ext := Reg.BMK_EXT_TEMP_CFG
    -- errors
    let l := recSort (s.err.arrivals.take n ++ mem.map memErrRec)
    let q := s.err.queue
    let room := 64 - q.length
    let record : Instr := .errorRecord n mem
    let on : Prop := m ≠ 0 ∧ s.bmk.recovery = false
    let one : Prop := on ∧ l = [r]
    let noted (t : State) : Prop := ∃ e, t.bmk.log.getLast? = some e ∧ e.mono = s.mono ∧ e.src = r.src ∧ e.sev = r.sev ∧ e.code = BitVec.ofNat 16 r.code ∧
      e.arg = r.arg ∧ e.data = BitVec.ofNat 64 (recLoc s r)
    let first (t : State) : Prop := rdb t Reg.ERR_STAT 8 = true ∧ ∀ k, k < 6 →
      rd t (Reg.ERR_FIRST k) = if rdb s Reg.ERR_STAT 8 then rd s (Reg.ERR_FIRST k) else (recWords s r).word k
    let recs := [1, 2, 3, 4, 5].map Reg.ERR_REC
    let pop (t : State) (e : ErrRec) (left : List ErrRec) : Prop := t.resp = .word e.e0 ∧ t.err.queue = left ∧
      (∀ k, 1 ≤ k → k ≤ 5 → rd t (Reg.ERR_REC k) = e.word k) ∧ RegsBut s t recs
    let trv := [Reg.TRV_AUD_TOTAL, Reg.TRV_AUD_FREE, Reg.TRV_AUD_PORTED, Reg.TRV_AUD_INFLIGHT]
    let jq := [Reg.JQ_AUD_PUSH, Reg.JQ_AUD_TAKE, Reg.JQ_AUD_REWOUND, Reg.JQ_AUD_DISC, Reg.JQ_AUD_HELD, Reg.JQ_AUD_ALLOC, Reg.JQ_AUD_UNALLOC]
    let pkt := [Reg.PKT_AUD_CELL_HELD, Reg.PKT_AUD_CELL_FREE, Reg.PKT_AUD_GFREE, Reg.PKT_AUD_GALLOC, Reg.PKT_AUD_GRET]
    let fab := [Reg.FAB_AUD_LIMIT, Reg.FAB_AUD_OUT, Reg.FAB_AUD_AVAIL, Reg.FAB_AUD_OFFER, Reg.FAB_AUD_RXHELD, Reg.FAB_AUD_RXFREE]
    let f := auditFail (auditIds s)
    let hdb := Reg.TRV_HDB_STAT j.val
    -- software accesses
    let a := addr.toNat
    let write (al : Bool) : Instr := .registerWrite who addr v al
    let read (al : Bool) : Instr := .wideValueLowRead who addr al
    let runs : Prop := awake ∧ whoRuns s who = true
    let logged (src : Nat) (wr bad : Bool) (t : State) : Prop := t.err.arrivals = s.err.arrivals ++ [accessRec src wr bad (whoPort who).port a] ∧
      t.regs = s.regs ∧ t.dram = s.dram ∧ t.sram = s.sram ∧ t.tiles = s.tiles ∧ t.staged = s.staged ∧ t.latches = s.latches
    let above : Prop := sramBase ≤ a
    let odd : Prop := above ∧ a % 4 ≠ 0
    let hole : Prop := 0x1000800000 ≤ a ∧ a % 4 = 0 ∧ windowAt a = none ∧ isReg a = false
    let enables := [Reg.TRV_INT_EN, Reg.JQ_INT_EN, Reg.SRE_INT_EN, Reg.BIL_INT_EN, Reg.DFL_INT_EN, Reg.DMC_INT_EN, Reg.DTM_INT_EN, Reg.FAB_INT_EN,
      Reg.BMK_INT_EN, Reg.PWR_INT_EN, Reg.ERR_INT_EN, Reg.PKT_INT_EN]
    let lows := [Reg.BMK_CORE_ENTRY_LO, Reg.BMK_MB_BUF_LO]
    let o := a - sramBase
    let general : Prop := 0x10006C0000 ≤ a ∧ a < 0x1000800000 ∧ a % 4 = 0
    (up → i < readings.length → i < 40 → Does (.sensorSample readings) s (fun t => rd t (Reg.BMK_SENS i) = val.setWidth 32 ∧
      rdb t (aboveReg i) (i % 32) = now ∧ (was ≠ now → rdb t Reg.BMK_INT_STAT 2 = true) ∧ t.mono = s0.mono ∧ t.bmk.sampleAt = s0.mono.toNat)) ∧
    (awake → rdb s ext 31 = true → Does (.extTemp (some reading)) s (fun t => t.dtm.ext = reading <<< rdf s ext 15 12 ∧ RegsBut s t [])) ∧
    (awake → rdb s ext 31 = true → Does (.extTemp none) s (fun t => t.dtm = s.dtm ∧ rdb t Reg.BMK_INT_STAT 4 = true)) ∧
    (awake → rdb s ext 31 = false → Does (.extTemp none) s same ∧ Does (.extTemp (some reading)) s same) ∧
    (up → Does .logFlashCopy s (fun t => t.bmk.unsaved = 0 ∧ t.bmk.log = s.bmk.log ∧ RegsBut s t [] ∧
      t.bmk.flashLog = flashAdd s.bmk.flashLog (s.bmk.log.drop (s.bmk.log.length - s.bmk.unsaved)))) ∧
    (awake → 3 ≤ m → Does (.rngReseed dseed cseed) s (fun t => t.dmc.seed = some (seedWord dseed 0, seedWord dseed 1) ∧ rdb t Reg.DMC_STAT 1 = true ∧
      t.cip.seed = (seedWord cseed 0).toNat + 2 ^ 32 * (seedWord cseed 1).toNat ∧ t.cip.seeded = true ∧ RegsBut s t [Reg.DMC_STAT])) ∧
    (awake → m < 3 → Does (.rngReseed dseed cseed) s same) ∧
    (awake → 3 ≤ m → s.bmk.trial = true → Does .trialExpiry s (fun t => mode t = 2 ∧ rdb t Reg.PWR_RST_CAUSE 2 = true ∧ t.bmk.trial = false ∧ slotRec t = slotRec s)) ∧
    (awake → m < 3 ∨ s.bmk.trial = false → Does .trialExpiry s same) ∧
    (on → (∀ x, x ∈ l → recFreezes x.code = false) → Does record s (fun t => t.err.arrivals = s.err.arrivals.drop n ∧
      t.err.queue = q ++ (l.map (recWords s)).take room ∧ rd t Reg.ERR_OVF = rd s Reg.ERR_OVF + BitVec.ofNat 32 (l.length - room) ∧ mode t = m)) ∧
    (one → recFreezes r.code = false → r.sev ≤ 3 → Does record s (fun t => noted t ∧ rdf t Reg.ERR_STAT 1 0 = max r.sev (rdf s Reg.ERR_STAT 1 0) ∧
      (r.sev = 3 → rdb t Reg.ERR_INT_STAT 1 = true) ∧ (r.code = 0x50 → rdb t Reg.ERR_INT_STAT 3 = true) ∧
      (0 < room → rdb t Reg.ERR_INT_STAT 0 = true) ∧ (room = 0 → rdb t Reg.ERR_INT_STAT 2 = true ∧ rdf t Reg.ERR_STAT 5 4 = max r.sev (rdf s Reg.ERR_STAT 5 4)) ∧
      ∀ c, recCounter r.code = some c → rd t c = rd s c + 1)) ∧
    (one → recFreezes r.code = true → canFreeze s = true → Does record s (fun t => first t ∧ mode t = 10 ∧ modeBusy t = false ∧ rdb t Reg.ERR_STAT 7 = true ∧
      t.cip.jobs = [] ∧ t.bmk.unsaved = 0)) ∧
    (one → recFreezes r.code = true → canFreeze s = false → Does record s (fun t => first t ∧ noted t ∧ mode t = m)) ∧
    (m = 0 ∨ s.bmk.recovery = true → Does record s same) ∧
    (may (Reg.ERR_REC 0) false → q = top :: more → Does (.recordPop who) s (fun t => pop t top more)) ∧
    (may (Reg.ERR_REC 0) false → q = [] → Does (.recordPop who) s (fun t => pop t ⟨0, 0, 0, 0, 0, 0⟩ [])) ∧
    (may Reg.ERR_AUD_SNAP true → Does (.errAuditSnapshot who) s (fun t => t.err.auditDue = true ∧ (∀ x, x ∈ trv → rd t x = rd (trvSnap s) x) ∧
      (∀ x, x ∈ jq → rd t x = rd (jqSnap s) x) ∧ (∀ x, x ∈ pkt → rd t x = rd (pktSnap s) x) ∧ (∀ x, x ∈ fab → rd t x = rd (fabSnap s) x) ∧
      RegsBut s t (trv ++ jq ++ pkt ++ fab))) ∧
    (awake → s.err.auditDue = true → Does .audit s (fun t => t.err.auditDue = false ∧ RegsBut s t [Reg.ERR_AUD_STAT] ∧
      rd t Reg.ERR_AUD_STAT = rd s Reg.ERR_AUD_STAT ||| BitVec.ofNat 32 (256 + f) ∧ t.err.arrivals = s.err.arrivals ++
        (if f = 0 then [] else [⟨srcErr, 2, 0x50, BitVec.ofNat 32 (rdf t Reg.ERR_AUD_STAT 6 0), 0, true⟩]))) ∧
    (awake → s.err.auditDue = false → Does .audit s same) ∧
    (may (Reg.TRV_HDB_SET j.val) true → Does (.hostDoorbellSet who j v) s (fun t => rd t hdb = rd s hdb ||| v ∧ RegsBut s t [hdb])) ∧
    (Does .irqNChange s (fun t => t = { s with pwr := { s.pwr with irqLow := !s.pwr.irqLow } } ∧ lineLevel t 60 = !lineLevel s 60)) ∧
    (Does .excursion s (fun t => t = { s with void := true })) ∧
    (runs → odd → Does (write true) s (logged (badSrc a) true true) ∧ Does (read true) s (fun t => logged (badSrc a) false true t ∧ t.resp = .error)) ∧
    (runs → above → Does (write false) s (logged (badSrc a) true true) ∧ Does (read false) s (fun t => logged (badSrc a) false true t ∧ t.resp = .error)) ∧
    (runs → hole → Does (write true) s (logged (srcOf a) true false) ∧ Does (read true) s (fun t => logged (srcOf a) false false t ∧ t.resp = .error)) ∧
    (a ∈ enables → regAt a = some desc → may a true → Does (write true) s (fun t => rd t a = stored desc (lockedReg s desc) (rd s a) v ∧ RegsBut s t [a])) ∧
    (a ∈ enables → may a false → Does (read true) s (fun t => t.resp = .word (rd s a) ∧ RegsBut s t [])) ∧
    (a ∈ lows → may a true → Does (write true) s (fun t => t.regs = s.regs ∧ stagedOr t a 0 = v)) ∧
    (a - 4 ∈ lows → regAt (a - 4) = some dlo → regAt a = some dhi → may a true → Does (write true) s (fun t =>
      rd t (a - 4) = stored dlo (lockedReg s dlo) (rd s (a - 4)) (stagedOr s (a - 4) (rd s (a - 4))) ∧
      rd t a = stored dhi (lockedReg s dhi) (rd s a) v ∧ SMap.get none t.staged (a - 4) = none ∧ RegsBut s t [a, a - 4])) ∧
    (a ∈ lows → may a false → Does (read true) s (fun t => t.resp = .word (rd s a) ∧ SMap.get (0, []) t.latches a = (a, [rd s (a + 4)]) ∧ RegsBut s t [])) ∧
    (a - 4 ∈ lows → may a false → SMap.get (0, []) s.latches (a - 4) = (i, [w]) → Does (read true) s (fun t => t.resp = .word w)) ∧
    (a - 4 ∈ lows → may a false → SMap.get (0, []) s.latches (a - 4) = (0, []) → Does (read true) s (fun t => t.resp = .word (rd s a))) ∧
    (runs → general → Does (write true) s (fun t => getBytes t.sram o 4 = leBytes 4 v.toNat ∧ (∀ x, x < o ∨ o + 4 ≤ x → getBytes t.sram x 1 = getBytes s.sram x 1))) ∧
    (runs → general → Does (read true) s (fun t => t.resp = .word (BitVec.ofNat 32 (leNat (getBytes s.sram o 4))) ∧ t.sram = s.sram)) ∧
    (runs → a < sramBase → memWrite s (whoPort who) a (leBytes 4 v.toNat) = (ok, u) → Does (write true) s (fun t => t = u)) ∧
    (runs → a < sramBase → memRead s (whoPort who) a 4 = (some d, u) → Does (read true) s (fun t => t = reply u (.word (BitVec.ofNat 32 (leNat d)))))

/-- One step takes the command at the front of the queue and runs it with the queue's rest; with nothing waiting a count of the clock passes. -/
def Obligations.StepRunsCommand : Prop :=
  ∀ (s : State) (c : Instr) (rest : List Instr),
    (s.pending = c :: rest → step s = exec c { s with pending := rest }) ∧ (s.pending = [] → step s = liveBmk s (clockTick s))

/-- After power-on reset every register holds the reset value of its table, the part is in M2 BOOT, every tile stands in the state of Table 2.1 with its memories being filled, nothing is queued anywhere, and memory is in canonical form (R19, R20, R68, R191, R432). -/
def Obligations.ResetState : Prop :=
  (∀ a, rd State.reset a = resetOf a) ∧ mode State.reset = 2 ∧ MemOk State.reset ∧ State.reset.pending = [] ∧ State.reset.void = false ∧
  (∀ n, tileAt State.reset n = Tile.reset ∧ tileRunning State.reset n = false ∧ (tileAt State.reset n).fill = true) ∧
  (∀ n, (tileAt State.reset n).pc = 0 ∧ getP (tileAt State.reset n) 0 = 0xFFFF ∧ getALen (tileAt State.reset n) 0 = 0) ∧
  (∀ q, (queueAt State.reset q).en = false) ∧ State.reset.err.queue = [] ∧ State.reset.mono = 0 ∧
  rd State.reset Reg.BMK_CORE_STAT = 1 ∧ (∀ c, c < 4 → coreRuns State.reset c = false) ∧
  rd State.reset (Reg.DMC_PORT_CFG 12) = 0x1000064 ∧ rd State.reset Reg.FAB_ADV = 0x7F06 ∧ rd State.reset Reg.JQ_AUD_UNALLOC = 1048576

/-- Shared SRAM and DRAM keep their canonical form, and a step takes exactly one command from the queue: from every state in which both are in canonical form, a step to a next state leaves them so, and leaves the rest of the queue waiting. -/
def Obligations.MemoryStaysCanonical : Prop :=
  ∀ s t : State, MemOk s → step s = .next t → MemOk t ∧ t.pending = s.pending.tail

/-- In M0 and M1 no command but those of the supply, the resets, the wake detector, the ERR block and the interrupt pin changes anything; nor in recovery one of a block that is held in reset; after an excursion every command stops until a power-on reset (R2, R413, R439, R450, Table 16.1). -/
def Obligations.SleepAndExcursionHold : Prop :=
  ∀ (s : State) (c : Instr), c ≠ .powerOnReset → c ≠ .supplyRemoved → c ≠ .excursion →
    (s.void = true → exec c s = .fault .excursion) ∧
    (s.void = false → c ≠ .irqNChange → (∀ n mem, c ≠ .errorRecord n mem) → (∀ a b d, c ≠ .wakeMatch a b d) → (∀ p r, c ≠ .wake p r) →
      (mode s ≤ 1 → exec c s = .next s) ∧
      (s.bmk.recovery = true → (∀ l, c ≠ .sensorSample l) → c ≠ .logFlashCopy → (∀ a b d e, c ≠ .mgmtCommandFrame a b d e) →
        (∀ w v, c ≠ .warmReset w v) → (∀ p, c ≠ .pllLossOfLock p) → exec c s = .next s))

/-- The ECC of tile data words, of bundles and of DRAM codewords: every single-bit error of a stored word is corrected and located, every double-bit error is detected; errors of three bits that are miscorrected and of four that go undetected exist (R52, R55, R248). -/
def Obligations.CodeCorrectsAndDetects : Prop :=
  ∀ (n c d : Nat), (n, c) ∈ [(167, 8), (128, 8), (64, 7)] → d < 2 ^ n →
    let w := eccEncode n c d
    eccDecode n c w = .good d ∧
    (∀ i, i < n + c + 1 → eccDecode n c (w ^^^ 2 ^ i) = .fixed d w i) ∧
    (∀ i j, i < j → j < n + c + 1 → eccDecode n c (w ^^^ 2 ^ i ^^^ 2 ^ j) = .bad) ∧
    (∃ i j k d' w' b, i < j ∧ j < k ∧ k < n + c + 1 ∧ d' ≠ d ∧ eccDecode n c (w ^^^ 2 ^ i ^^^ 2 ^ j ^^^ 2 ^ k) = .fixed d' w' b) ∧
    (∃ i j k l d', i < j ∧ j < k ∧ k < l ∧ l < n + c + 1 ∧ d' ≠ d ∧ eccDecode n c (w ^^^ 2 ^ i ^^^ 2 ^ j ^^^ 2 ^ k ^^^ 2 ^ l) = .good d')
end

