-- ==== Sys2Proof/Laws/Bits.lean ====
section
/-! SUPPORT. Bits and fields of a written field. -/

namespace Sys2Proof.Machine

theorem getLsbD_fldMask (w hi lo j : Nat) : (fldMask w hi lo).getLsbD j = decide (j < w ∧ lo ≤ j ∧ j < hi + 1) := by
  unfold fldMask
  simp only [BitVec.getLsbD_ofNat, Nat.testBit_shiftLeft, Nat.testBit_two_pow_sub_one]
  by_cases h1 : j < w <;> by_cases h2 : lo ≤ j <;> simp [h1, h2]
  omega

/-- Every bit of a register after a field write. -/
theorem getLsbD_setFld {w : Nat} (v : BitVec w) (hi lo x j : Nat) :
    (setFld v hi lo x).getLsbD j = if j < w ∧ lo ≤ j ∧ j < hi + 1 then x.testBit (j - lo) else v.getLsbD j := by
  unfold setFld
  simp only [BitVec.getLsbD_or, BitVec.getLsbD_and, BitVec.getLsbD_not, getLsbD_fldMask, BitVec.getLsbD_ofNat, Nat.testBit_shiftLeft]
  by_cases h1 : j < w
  · by_cases h2 : lo ≤ j ∧ j < hi + 1
    · simp [h1, h2]
    · simp only [h1, h2, true_and, if_false, decide_true, decide_false, Bool.and_false, Bool.or_false, Bool.not_false, Bool.and_true]
  · simp [h1, BitVec.getLsbD_of_ge _ _ (Nat.le_of_not_lt h1)]

/-- The bit that was written. -/
theorem getLsbD_setFld_bit {w : Nat} (v : BitVec w) (k : Nat) (b : Bool) (hk : k < w) :
    (setFld v k k b.toNat).getLsbD k = b := by
  rw [getLsbD_setFld]
  cases b <;> simp [hk]

/-- The other bits. -/
theorem getLsbD_setFld_other {w : Nat} (v : BitVec w) (k j : Nat) (x : Nat) (h : j ≠ k) :
    (setFld v k k x).getLsbD j = v.getLsbD j := by
  rw [getLsbD_setFld, if_neg (by omega)]

/-- A field, bit by bit. -/
theorem testBit_fld {w : Nat} (v : BitVec w) (hi lo j : Nat) :
    (fld v hi lo).testBit j = (decide (j < hi + 1 - lo) && v.getLsbD (lo + j)) := by
  unfold fld
  rw [Nat.testBit_mod_two_pow, Nat.testBit_shiftRight]
  rfl

/-- The field that was written. -/
theorem fld_setFld_self {w : Nat} (v : BitVec w) (hi lo x : Nat) (h : hi < w) :
    fld (setFld v hi lo x) hi lo = x % 2 ^ (hi + 1 - lo) := by
  apply Nat.eq_of_testBit_eq
  intro j
  rw [testBit_fld, getLsbD_setFld, Nat.testBit_mod_two_pow]
  by_cases h1 : j < hi + 1 - lo
  · rw [if_pos (by omega)]
    simp [h1]
  · simp [h1]

/-- A field apart from the written one. -/
theorem fld_setFld_other {w : Nat} (v : BitVec w) (hi lo hi' lo' x : Nat) (h : hi < lo' ∨ hi' < lo) :
    fld (setFld v hi' lo' x) hi lo = fld v hi lo := by
  apply Nat.eq_of_testBit_eq
  intro j
  rw [testBit_fld, testBit_fld, getLsbD_setFld]
  by_cases h1 : j < hi + 1 - lo
  · rw [if_neg (by omega)]
  · simp [h1]

end Sys2Proof.Machine
end

