-- ==== Sys2Proof/Laws/SMap.lean ====
section
/-! SUPPORT. The laws of sparse arrays: reading after writing, and that writing keeps the canonical form. -/

namespace Sys2Proof.Machine

theorem SMap.get_insert_self {α : Type} (d : α) (m : SMap α) (k : Nat) (v : α) :
    SMap.get d (SMap.insert k v m) k = v := by
  induction m with
  | nil => simp [SMap.insert, SMap.get]
  | cons p t ih =>
    obtain ⟨k', v'⟩ := p
    unfold SMap.insert
    split
    · simp [SMap.get]
    · split
      · simp [SMap.get]
      · rename_i h _
        simp [SMap.get, h, ih]

theorem SMap.get_insert_other {α : Type} (d : α) (m : SMap α) (k j : Nat) (v : α) (h : j ≠ k) :
    SMap.get d (SMap.insert k v m) j = SMap.get d m j := by
  induction m with
  | nil => simp [SMap.insert, SMap.get, Ne.symm h]
  | cons p t ih =>
    obtain ⟨k', v'⟩ := p
    unfold SMap.insert
    split
    · rename_i e
      simp [SMap.get, Ne.symm h, e ▸ Ne.symm h]
    · split
      · simp [SMap.get, Ne.symm h]
      · simp only [SMap.get]
        split <;> simp [ih]

theorem SMap.get_erase_self {α : Type} (d : α) (m : SMap α) (k : Nat) : SMap.get d (SMap.erase k m) k = d := by
  induction m with
  | nil => rfl
  | cons p t ih =>
    obtain ⟨k', v'⟩ := p
    unfold SMap.erase
    split
    · exact ih
    · rename_i h
      simp [SMap.get, h, ih]

theorem SMap.get_erase_other {α : Type} (d : α) (m : SMap α) (k j : Nat) (h : j ≠ k) :
    SMap.get d (SMap.erase k m) j = SMap.get d m j := by
  induction m with
  | nil => rfl
  | cons p t ih =>
    obtain ⟨k', v'⟩ := p
    unfold SMap.erase
    split
    · rename_i e
      rw [ih]
      simp [SMap.get, e ▸ Ne.symm h]
    · simp only [SMap.get]
      split <;> simp [ih]

/-- A read after a write of the same place gives the value written. -/
@[simp] theorem SMap.get_put_self {α : Type} [DecidableEq α] (d : α) (m : SMap α) (k : Nat) (v : α) :
    SMap.get d (SMap.put d m k v) k = v := by
  unfold SMap.put
  split
  · rename_i h
    rw [SMap.get_erase_self, h]
  · exact SMap.get_insert_self d m k v

/-- A write leaves every other place alone, whatever default the read names. -/
theorem SMap.get_put_other {α : Type} [DecidableEq α] (d d' : α) (m : SMap α) (k j : Nat) (v : α) (h : j ≠ k) :
    SMap.get d (SMap.put d' m k v) j = SMap.get d m j := by
  unfold SMap.put
  split
  · exact SMap.get_erase_other d m k j h
  · exact SMap.get_insert_other d m k j v h

theorem SMap.wfFrom_erase {α : Type} [DecidableEq α] (d : Nat → α) (k : Nat) (m : SMap α) :
    ∀ lo lo', lo' ≤ lo → SMap.wfFrom d lo m = true → SMap.wfFrom d lo' (SMap.erase k m) = true := by
  induction m with
  | nil => intros; rfl
  | cons p t ih =>
    obtain ⟨k', v'⟩ := p
    intro lo lo' hl h
    simp only [SMap.wfFrom, Bool.and_eq_true, decide_eq_true_eq] at h
    unfold SMap.erase
    split
    · exact ih (k' + 1) lo' (by omega) h.2
    · simp only [SMap.wfFrom, Bool.and_eq_true, decide_eq_true_eq]
      exact ⟨⟨by omega, h.1.2⟩, ih (k' + 1) (k' + 1) (Nat.le_refl _) h.2⟩

theorem SMap.wfFrom_insert {α : Type} [DecidableEq α] (d : Nat → α) (k : Nat) (v : α) (hv : v ≠ d k) (m : SMap α) :
    ∀ lo, lo ≤ k → SMap.wfFrom d lo m = true → SMap.wfFrom d lo (SMap.insert k v m) = true := by
  induction m with
  | nil =>
    intro lo hl _
    simp [SMap.insert, SMap.wfFrom, hv, hl]
  | cons p t ih =>
    obtain ⟨k', v'⟩ := p
    intro lo hl h
    simp only [SMap.wfFrom, Bool.and_eq_true, decide_eq_true_eq] at h
    unfold SMap.insert
    split
    · rename_i e
      subst e
      simp only [SMap.wfFrom, Bool.and_eq_true, decide_eq_true_eq]
      exact ⟨⟨hl, hv⟩, h.2⟩
    · split
      · simp only [SMap.wfFrom, Bool.and_eq_true, decide_eq_true_eq]
        exact ⟨⟨hl, hv⟩, ⟨by omega, h.1.2⟩, h.2⟩
      · simp only [SMap.wfFrom, Bool.and_eq_true, decide_eq_true_eq]
        exact ⟨h.1, ih (k' + 1) (by omega) h.2⟩

/-- Writing keeps the canonical form. -/
theorem SMap.wf_put {α : Type} [DecidableEq α] (d : Nat → α) (m : SMap α) (k : Nat) (v : α) (h : SMap.wf d m = true) :
    SMap.wf d (SMap.put (d k) m k v) = true := by
  unfold SMap.put
  split
  · exact SMap.wfFrom_erase d k m 0 0 (Nat.le_refl _) h
  · rename_i hv
    exact SMap.wfFrom_insert d k v hv m 0 (Nat.zero_le _) h

end Sys2Proof.Machine
end

