-- ==== Sys2Proof/Laws/State.lean ====
section
/-! SUPPORT. What each shared update of State leaves as it was: one lemma per field per update, so that no later proof unfolds a record update. -/

namespace Sys2Proof.Machine

@[simp] theorem wr_staged (s : State) (a : Nat) (v : Word) : (wr s a v).staged = s.staged := rfl
@[simp] theorem wr_latches (s : State) (a : Nat) (v : Word) : (wr s a v).latches = s.latches := rfl
@[simp] theorem wr_sram (s : State) (a : Nat) (v : Word) : (wr s a v).sram = s.sram := rfl
@[simp] theorem wr_dram (s : State) (a : Nat) (v : Word) : (wr s a v).dram = s.dram := rfl
@[simp] theorem wr_mgmtSram (s : State) (a : Nat) (v : Word) : (wr s a v).mgmtSram = s.mgmtSram := rfl
@[simp] theorem wr_l2 (s : State) (a : Nat) (v : Word) : (wr s a v).l2 = s.l2 := rfl
@[simp] theorem wr_dmc (s : State) (a : Nat) (v : Word) : (wr s a v).dmc = s.dmc := rfl
@[simp] theorem wr_err (s : State) (a : Nat) (v : Word) : (wr s a v).err = s.err := rfl
@[simp] theorem wr_tiles (s : State) (a : Nat) (v : Word) : (wr s a v).tiles = s.tiles := rfl
@[simp] theorem wr_pipes (s : State) (a : Nat) (v : Word) : (wr s a v).pipes = s.pipes := rfl
@[simp] theorem wr_trv (s : State) (a : Nat) (v : Word) : (wr s a v).trv = s.trv := rfl
@[simp] theorem wr_jq (s : State) (a : Nat) (v : Word) : (wr s a v).jq = s.jq := rfl
@[simp] theorem wr_ringNext (s : State) (a : Nat) (v : Word) : (wr s a v).ringNext = s.ringNext := rfl
@[simp] theorem wr_ringSince (s : State) (a : Nat) (v : Word) : (wr s a v).ringSince = s.ringSince := rfl
@[simp] theorem wr_sre (s : State) (a : Nat) (v : Word) : (wr s a v).sre = s.sre := rfl
@[simp] theorem wr_bil (s : State) (a : Nat) (v : Word) : (wr s a v).bil = s.bil := rfl
@[simp] theorem wr_dfl (s : State) (a : Nat) (v : Word) : (wr s a v).dfl = s.dfl := rfl
@[simp] theorem wr_cip (s : State) (a : Nat) (v : Word) : (wr s a v).cip = s.cip := rfl
@[simp] theorem wr_dtm (s : State) (a : Nat) (v : Word) : (wr s a v).dtm = s.dtm := rfl
@[simp] theorem wr_bmk (s : State) (a : Nat) (v : Word) : (wr s a v).bmk = s.bmk := rfl
@[simp] theorem wr_pkt (s : State) (a : Nat) (v : Word) : (wr s a v).pkt = s.pkt := rfl
@[simp] theorem wr_fab (s : State) (a : Nat) (v : Word) : (wr s a v).fab = s.fab := rfl
@[simp] theorem wr_pwr (s : State) (a : Nat) (v : Word) : (wr s a v).pwr = s.pwr := rfl
@[simp] theorem wr_mono (s : State) (a : Nat) (v : Word) : (wr s a v).mono = s.mono := rfl
@[simp] theorem wr_resp (s : State) (a : Nat) (v : Word) : (wr s a v).resp = s.resp := rfl
@[simp] theorem wr_pulses (s : State) (a : Nat) (v : Word) : (wr s a v).pulses = s.pulses := rfl
@[simp] theorem wr_freeCtr (s : State) (a : Nat) (v : Word) : (wr s a v).freeCtr = s.freeCtr := rfl
@[simp] theorem wr_void (s : State) (a : Nat) (v : Word) : (wr s a v).void = s.void := rfl
@[simp] theorem wr_pending (s : State) (a : Nat) (v : Word) : (wr s a v).pending = s.pending := rfl

@[simp] theorem wrf_staged (s : State) (a hi lo x : Nat) : (wrf s a hi lo x).staged = s.staged := rfl
@[simp] theorem wrf_latches (s : State) (a hi lo x : Nat) : (wrf s a hi lo x).latches = s.latches := rfl
@[simp] theorem wrf_sram (s : State) (a hi lo x : Nat) : (wrf s a hi lo x).sram = s.sram := rfl
@[simp] theorem wrf_dram (s : State) (a hi lo x : Nat) : (wrf s a hi lo x).dram = s.dram := rfl
@[simp] theorem wrf_mgmtSram (s : State) (a hi lo x : Nat) : (wrf s a hi lo x).mgmtSram = s.mgmtSram := rfl
@[simp] theorem wrf_l2 (s : State) (a hi lo x : Nat) : (wrf s a hi lo x).l2 = s.l2 := rfl
@[simp] theorem wrf_dmc (s : State) (a hi lo x : Nat) : (wrf s a hi lo x).dmc = s.dmc := rfl
@[simp] theorem wrf_err (s : State) (a hi lo x : Nat) : (wrf s a hi lo x).err = s.err := rfl
@[simp] theorem wrf_tiles (s : State) (a hi lo x : Nat) : (wrf s a hi lo x).tiles = s.tiles := rfl
@[simp] theorem wrf_pipes (s : State) (a hi lo x : Nat) : (wrf s a hi lo x).pipes = s.pipes := rfl
@[simp] theorem wrf_trv (s : State) (a hi lo x : Nat) : (wrf s a hi lo x).trv = s.trv := rfl
@[simp] theorem wrf_jq (s : State) (a hi lo x : Nat) : (wrf s a hi lo x).jq = s.jq := rfl
@[simp] theorem wrf_ringNext (s : State) (a hi lo x : Nat) : (wrf s a hi lo x).ringNext = s.ringNext := rfl
@[simp] theorem wrf_ringSince (s : State) (a hi lo x : Nat) : (wrf s a hi lo x).ringSince = s.ringSince := rfl
@[simp] theorem wrf_sre (s : State) (a hi lo x : Nat) : (wrf s a hi lo x).sre = s.sre := rfl
@[simp] theorem wrf_bil (s : State) (a hi lo x : Nat) : (wrf s a hi lo x).bil = s.bil := rfl
@[simp] theorem wrf_dfl (s : State) (a hi lo x : Nat) : (wrf s a hi lo x).dfl = s.dfl := rfl
@[simp] theorem wrf_cip (s : State) (a hi lo x : Nat) : (wrf s a hi lo x).cip = s.cip := rfl
@[simp] theorem wrf_dtm (s : State) (a hi lo x : Nat) : (wrf s a hi lo x).dtm = s.dtm := rfl
@[simp] theorem wrf_bmk (s : State) (a hi lo x : Nat) : (wrf s a hi lo x).bmk = s.bmk := rfl
@[simp] theorem wrf_pkt (s : State) (a hi lo x : Nat) : (wrf s a hi lo x).pkt = s.pkt := rfl
@[simp] theorem wrf_fab (s : State) (a hi lo x : Nat) : (wrf s a hi lo x).fab = s.fab := rfl
@[simp] theorem wrf_pwr (s : State) (a hi lo x : Nat) : (wrf s a hi lo x).pwr = s.pwr := rfl
@[simp] theorem wrf_mono (s : State) (a hi lo x : Nat) : (wrf s a hi lo x).mono = s.mono := rfl
@[simp] theorem wrf_resp (s : State) (a hi lo x : Nat) : (wrf s a hi lo x).resp = s.resp := rfl
@[simp] theorem wrf_pulses (s : State) (a hi lo x : Nat) : (wrf s a hi lo x).pulses = s.pulses := rfl
@[simp] theorem wrf_freeCtr (s : State) (a hi lo x : Nat) : (wrf s a hi lo x).freeCtr = s.freeCtr := rfl
@[simp] theorem wrf_void (s : State) (a hi lo x : Nat) : (wrf s a hi lo x).void = s.void := rfl
@[simp] theorem wrf_pending (s : State) (a hi lo x : Nat) : (wrf s a hi lo x).pending = s.pending := rfl

@[simp] theorem wrb_staged (s : State) (a n : Nat) (b : Bool) : (wrb s a n b).staged = s.staged := rfl
@[simp] theorem wrb_latches (s : State) (a n : Nat) (b : Bool) : (wrb s a n b).latches = s.latches := rfl
@[simp] theorem wrb_sram (s : State) (a n : Nat) (b : Bool) : (wrb s a n b).sram = s.sram := rfl
@[simp] theorem wrb_dram (s : State) (a n : Nat) (b : Bool) : (wrb s a n b).dram = s.dram := rfl
@[simp] theorem wrb_mgmtSram (s : State) (a n : Nat) (b : Bool) : (wrb s a n b).mgmtSram = s.mgmtSram := rfl
@[simp] theorem wrb_l2 (s : State) (a n : Nat) (b : Bool) : (wrb s a n b).l2 = s.l2 := rfl
@[simp] theorem wrb_dmc (s : State) (a n : Nat) (b : Bool) : (wrb s a n b).dmc = s.dmc := rfl
@[simp] theorem wrb_err (s : State) (a n : Nat) (b : Bool) : (wrb s a n b).err = s.err := rfl
@[simp] theorem wrb_tiles (s : State) (a n : Nat) (b : Bool) : (wrb s a n b).tiles = s.tiles := rfl
@[simp] theorem wrb_pipes (s : State) (a n : Nat) (b : Bool) : (wrb s a n b).pipes = s.pipes := rfl
@[simp] theorem wrb_trv (s : State) (a n : Nat) (b : Bool) : (wrb s a n b).trv = s.trv := rfl
@[simp] theorem wrb_jq (s : State) (a n : Nat) (b : Bool) : (wrb s a n b).jq = s.jq := rfl
@[simp] theorem wrb_ringNext (s : State) (a n : Nat) (b : Bool) : (wrb s a n b).ringNext = s.ringNext := rfl
@[simp] theorem wrb_ringSince (s : State) (a n : Nat) (b : Bool) : (wrb s a n b).ringSince = s.ringSince := rfl
@[simp] theorem wrb_sre (s : State) (a n : Nat) (b : Bool) : (wrb s a n b).sre = s.sre := rfl
@[simp] theorem wrb_bil (s : State) (a n : Nat) (b : Bool) : (wrb s a n b).bil = s.bil := rfl
@[simp] theorem wrb_dfl (s : State) (a n : Nat) (b : Bool) : (wrb s a n b).dfl = s.dfl := rfl
@[simp] theorem wrb_cip (s : State) (a n : Nat) (b : Bool) : (wrb s a n b).cip = s.cip := rfl
@[simp] theorem wrb_dtm (s : State) (a n : Nat) (b : Bool) : (wrb s a n b).dtm = s.dtm := rfl
@[simp] theorem wrb_bmk (s : State) (a n : Nat) (b : Bool) : (wrb s a n b).bmk = s.bmk := rfl
@[simp] theorem wrb_pkt (s : State) (a n : Nat) (b : Bool) : (wrb s a n b).pkt = s.pkt := rfl
@[simp] theorem wrb_fab (s : State) (a n : Nat) (b : Bool) : (wrb s a n b).fab = s.fab := rfl
@[simp] theorem wrb_pwr (s : State) (a n : Nat) (b : Bool) : (wrb s a n b).pwr = s.pwr := rfl
@[simp] theorem wrb_mono (s : State) (a n : Nat) (b : Bool) : (wrb s a n b).mono = s.mono := rfl
@[simp] theorem wrb_resp (s : State) (a n : Nat) (b : Bool) : (wrb s a n b).resp = s.resp := rfl
@[simp] theorem wrb_pulses (s : State) (a n : Nat) (b : Bool) : (wrb s a n b).pulses = s.pulses := rfl
@[simp] theorem wrb_freeCtr (s : State) (a n : Nat) (b : Bool) : (wrb s a n b).freeCtr = s.freeCtr := rfl
@[simp] theorem wrb_void (s : State) (a n : Nat) (b : Bool) : (wrb s a n b).void = s.void := rfl
@[simp] theorem wrb_pending (s : State) (a n : Nat) (b : Bool) : (wrb s a n b).pending = s.pending := rfl

@[simp] theorem orr_staged (s : State) (a : Nat) (m : Word) : (orr s a m).staged = s.staged := rfl
@[simp] theorem orr_latches (s : State) (a : Nat) (m : Word) : (orr s a m).latches = s.latches := rfl
@[simp] theorem orr_sram (s : State) (a : Nat) (m : Word) : (orr s a m).sram = s.sram := rfl
@[simp] theorem orr_dram (s : State) (a : Nat) (m : Word) : (orr s a m).dram = s.dram := rfl
@[simp] theorem orr_mgmtSram (s : State) (a : Nat) (m : Word) : (orr s a m).mgmtSram = s.mgmtSram := rfl
@[simp] theorem orr_l2 (s : State) (a : Nat) (m : Word) : (orr s a m).l2 = s.l2 := rfl
@[simp] theorem orr_dmc (s : State) (a : Nat) (m : Word) : (orr s a m).dmc = s.dmc := rfl
@[simp] theorem orr_err (s : State) (a : Nat) (m : Word) : (orr s a m).err = s.err := rfl
@[simp] theorem orr_tiles (s : State) (a : Nat) (m : Word) : (orr s a m).tiles = s.tiles := rfl
@[simp] theorem orr_pipes (s : State) (a : Nat) (m : Word) : (orr s a m).pipes = s.pipes := rfl
@[simp] theorem orr_trv (s : State) (a : Nat) (m : Word) : (orr s a m).trv = s.trv := rfl
@[simp] theorem orr_jq (s : State) (a : Nat) (m : Word) : (orr s a m).jq = s.jq := rfl
@[simp] theorem orr_ringNext (s : State) (a : Nat) (m : Word) : (orr s a m).ringNext = s.ringNext := rfl
@[simp] theorem orr_ringSince (s : State) (a : Nat) (m : Word) : (orr s a m).ringSince = s.ringSince := rfl
@[simp] theorem orr_sre (s : State) (a : Nat) (m : Word) : (orr s a m).sre = s.sre := rfl
@[simp] theorem orr_bil (s : State) (a : Nat) (m : Word) : (orr s a m).bil = s.bil := rfl
@[simp] theorem orr_dfl (s : State) (a : Nat) (m : Word) : (orr s a m).dfl = s.dfl := rfl
@[simp] theorem orr_cip (s : State) (a : Nat) (m : Word) : (orr s a m).cip = s.cip := rfl
@[simp] theorem orr_dtm (s : State) (a : Nat) (m : Word) : (orr s a m).dtm = s.dtm := rfl
@[simp] theorem orr_bmk (s : State) (a : Nat) (m : Word) : (orr s a m).bmk = s.bmk := rfl
@[simp] theorem orr_pkt (s : State) (a : Nat) (m : Word) : (orr s a m).pkt = s.pkt := rfl
@[simp] theorem orr_fab (s : State) (a : Nat) (m : Word) : (orr s a m).fab = s.fab := rfl
@[simp] theorem orr_pwr (s : State) (a : Nat) (m : Word) : (orr s a m).pwr = s.pwr := rfl
@[simp] theorem orr_mono (s : State) (a : Nat) (m : Word) : (orr s a m).mono = s.mono := rfl
@[simp] theorem orr_resp (s : State) (a : Nat) (m : Word) : (orr s a m).resp = s.resp := rfl
@[simp] theorem orr_pulses (s : State) (a : Nat) (m : Word) : (orr s a m).pulses = s.pulses := rfl
@[simp] theorem orr_freeCtr (s : State) (a : Nat) (m : Word) : (orr s a m).freeCtr = s.freeCtr := rfl
@[simp] theorem orr_void (s : State) (a : Nat) (m : Word) : (orr s a m).void = s.void := rfl
@[simp] theorem orr_pending (s : State) (a : Nat) (m : Word) : (orr s a m).pending = s.pending := rfl

@[simp] theorem addc_staged (s : State) (a n : Nat) : (addc s a n).staged = s.staged := rfl
@[simp] theorem addc_latches (s : State) (a n : Nat) : (addc s a n).latches = s.latches := rfl
@[simp] theorem addc_sram (s : State) (a n : Nat) : (addc s a n).sram = s.sram := rfl
@[simp] theorem addc_dram (s : State) (a n : Nat) : (addc s a n).dram = s.dram := rfl
@[simp] theorem addc_mgmtSram (s : State) (a n : Nat) : (addc s a n).mgmtSram = s.mgmtSram := rfl
@[simp] theorem addc_l2 (s : State) (a n : Nat) : (addc s a n).l2 = s.l2 := rfl
@[simp] theorem addc_dmc (s : State) (a n : Nat) : (addc s a n).dmc = s.dmc := rfl
@[simp] theorem addc_err (s : State) (a n : Nat) : (addc s a n).err = s.err := rfl
@[simp] theorem addc_tiles (s : State) (a n : Nat) : (addc s a n).tiles = s.tiles := rfl
@[simp] theorem addc_pipes (s : State) (a n : Nat) : (addc s a n).pipes = s.pipes := rfl
@[simp] theorem addc_trv (s : State) (a n : Nat) : (addc s a n).trv = s.trv := rfl
@[simp] theorem addc_jq (s : State) (a n : Nat) : (addc s a n).jq = s.jq := rfl
@[simp] theorem addc_ringNext (s : State) (a n : Nat) : (addc s a n).ringNext = s.ringNext := rfl
@[simp] theorem addc_ringSince (s : State) (a n : Nat) : (addc s a n).ringSince = s.ringSince := rfl
@[simp] theorem addc_sre (s : State) (a n : Nat) : (addc s a n).sre = s.sre := rfl
@[simp] theorem addc_bil (s : State) (a n : Nat) : (addc s a n).bil = s.bil := rfl
@[simp] theorem addc_dfl (s : State) (a n : Nat) : (addc s a n).dfl = s.dfl := rfl
@[simp] theorem addc_cip (s : State) (a n : Nat) : (addc s a n).cip = s.cip := rfl
@[simp] theorem addc_dtm (s : State) (a n : Nat) : (addc s a n).dtm = s.dtm := rfl
@[simp] theorem addc_bmk (s : State) (a n : Nat) : (addc s a n).bmk = s.bmk := rfl
@[simp] theorem addc_pkt (s : State) (a n : Nat) : (addc s a n).pkt = s.pkt := rfl
@[simp] theorem addc_fab (s : State) (a n : Nat) : (addc s a n).fab = s.fab := rfl
@[simp] theorem addc_pwr (s : State) (a n : Nat) : (addc s a n).pwr = s.pwr := rfl
@[simp] theorem addc_mono (s : State) (a n : Nat) : (addc s a n).mono = s.mono := rfl
@[simp] theorem addc_resp (s : State) (a n : Nat) : (addc s a n).resp = s.resp := rfl
@[simp] theorem addc_pulses (s : State) (a n : Nat) : (addc s a n).pulses = s.pulses := rfl
@[simp] theorem addc_freeCtr (s : State) (a n : Nat) : (addc s a n).freeCtr = s.freeCtr := rfl
@[simp] theorem addc_void (s : State) (a n : Nat) : (addc s a n).void = s.void := rfl
@[simp] theorem addc_pending (s : State) (a n : Nat) : (addc s a n).pending = s.pending := rfl

@[simp] theorem inc_staged (s : State) (a : Nat) : (inc s a).staged = s.staged := rfl
@[simp] theorem inc_latches (s : State) (a : Nat) : (inc s a).latches = s.latches := rfl
@[simp] theorem inc_sram (s : State) (a : Nat) : (inc s a).sram = s.sram := rfl
@[simp] theorem inc_dram (s : State) (a : Nat) : (inc s a).dram = s.dram := rfl
@[simp] theorem inc_mgmtSram (s : State) (a : Nat) : (inc s a).mgmtSram = s.mgmtSram := rfl
@[simp] theorem inc_l2 (s : State) (a : Nat) : (inc s a).l2 = s.l2 := rfl
@[simp] theorem inc_dmc (s : State) (a : Nat) : (inc s a).dmc = s.dmc := rfl
@[simp] theorem inc_err (s : State) (a : Nat) : (inc s a).err = s.err := rfl
@[simp] theorem inc_tiles (s : State) (a : Nat) : (inc s a).tiles = s.tiles := rfl
@[simp] theorem inc_pipes (s : State) (a : Nat) : (inc s a).pipes = s.pipes := rfl
@[simp] theorem inc_trv (s : State) (a : Nat) : (inc s a).trv = s.trv := rfl
@[simp] theorem inc_jq (s : State) (a : Nat) : (inc s a).jq = s.jq := rfl
@[simp] theorem inc_ringNext (s : State) (a : Nat) : (inc s a).ringNext = s.ringNext := rfl
@[simp] theorem inc_ringSince (s : State) (a : Nat) : (inc s a).ringSince = s.ringSince := rfl
@[simp] theorem inc_sre (s : State) (a : Nat) : (inc s a).sre = s.sre := rfl
@[simp] theorem inc_bil (s : State) (a : Nat) : (inc s a).bil = s.bil := rfl
@[simp] theorem inc_dfl (s : State) (a : Nat) : (inc s a).dfl = s.dfl := rfl
@[simp] theorem inc_cip (s : State) (a : Nat) : (inc s a).cip = s.cip := rfl
@[simp] theorem inc_dtm (s : State) (a : Nat) : (inc s a).dtm = s.dtm := rfl
@[simp] theorem inc_bmk (s : State) (a : Nat) : (inc s a).bmk = s.bmk := rfl
@[simp] theorem inc_pkt (s : State) (a : Nat) : (inc s a).pkt = s.pkt := rfl
@[simp] theorem inc_fab (s : State) (a : Nat) : (inc s a).fab = s.fab := rfl
@[simp] theorem inc_pwr (s : State) (a : Nat) : (inc s a).pwr = s.pwr := rfl
@[simp] theorem inc_mono (s : State) (a : Nat) : (inc s a).mono = s.mono := rfl
@[simp] theorem inc_resp (s : State) (a : Nat) : (inc s a).resp = s.resp := rfl
@[simp] theorem inc_pulses (s : State) (a : Nat) : (inc s a).pulses = s.pulses := rfl
@[simp] theorem inc_freeCtr (s : State) (a : Nat) : (inc s a).freeCtr = s.freeCtr := rfl
@[simp] theorem inc_void (s : State) (a : Nat) : (inc s a).void = s.void := rfl
@[simp] theorem inc_pending (s : State) (a : Nat) : (inc s a).pending = s.pending := rfl

@[simp] theorem wr2_staged (s : State) (lo hi x : Nat) : (wr2 s lo hi x).staged = s.staged := rfl
@[simp] theorem wr2_latches (s : State) (lo hi x : Nat) : (wr2 s lo hi x).latches = s.latches := rfl
@[simp] theorem wr2_sram (s : State) (lo hi x : Nat) : (wr2 s lo hi x).sram = s.sram := rfl
@[simp] theorem wr2_dram (s : State) (lo hi x : Nat) : (wr2 s lo hi x).dram = s.dram := rfl
@[simp] theorem wr2_mgmtSram (s : State) (lo hi x : Nat) : (wr2 s lo hi x).mgmtSram = s.mgmtSram := rfl
@[simp] theorem wr2_l2 (s : State) (lo hi x : Nat) : (wr2 s lo hi x).l2 = s.l2 := rfl
@[simp] theorem wr2_dmc (s : State) (lo hi x : Nat) : (wr2 s lo hi x).dmc = s.dmc := rfl
@[simp] theorem wr2_err (s : State) (lo hi x : Nat) : (wr2 s lo hi x).err = s.err := rfl
@[simp] theorem wr2_tiles (s : State) (lo hi x : Nat) : (wr2 s lo hi x).tiles = s.tiles := rfl
@[simp] theorem wr2_pipes (s : State) (lo hi x : Nat) : (wr2 s lo hi x).pipes = s.pipes := rfl
@[simp] theorem wr2_trv (s : State) (lo hi x : Nat) : (wr2 s lo hi x).trv = s.trv := rfl
@[simp] theorem wr2_jq (s : State) (lo hi x : Nat) : (wr2 s lo hi x).jq = s.jq := rfl
@[simp] theorem wr2_ringNext (s : State) (lo hi x : Nat) : (wr2 s lo hi x).ringNext = s.ringNext := rfl
@[simp] theorem wr2_ringSince (s : State) (lo hi x : Nat) : (wr2 s lo hi x).ringSince = s.ringSince := rfl
@[simp] theorem wr2_sre (s : State) (lo hi x : Nat) : (wr2 s lo hi x).sre = s.sre := rfl
@[simp] theorem wr2_bil (s : State) (lo hi x : Nat) : (wr2 s lo hi x).bil = s.bil := rfl
@[simp] theorem wr2_dfl (s : State) (lo hi x : Nat) : (wr2 s lo hi x).dfl = s.dfl := rfl
@[simp] theorem wr2_cip (s : State) (lo hi x : Nat) : (wr2 s lo hi x).cip = s.cip := rfl
@[simp] theorem wr2_dtm (s : State) (lo hi x : Nat) : (wr2 s lo hi x).dtm = s.dtm := rfl
@[simp] theorem wr2_bmk (s : State) (lo hi x : Nat) : (wr2 s lo hi x).bmk = s.bmk := rfl
@[simp] theorem wr2_pkt (s : State) (lo hi x : Nat) : (wr2 s lo hi x).pkt = s.pkt := rfl
@[simp] theorem wr2_fab (s : State) (lo hi x : Nat) : (wr2 s lo hi x).fab = s.fab := rfl
@[simp] theorem wr2_pwr (s : State) (lo hi x : Nat) : (wr2 s lo hi x).pwr = s.pwr := rfl
@[simp] theorem wr2_mono (s : State) (lo hi x : Nat) : (wr2 s lo hi x).mono = s.mono := rfl
@[simp] theorem wr2_resp (s : State) (lo hi x : Nat) : (wr2 s lo hi x).resp = s.resp := rfl
@[simp] theorem wr2_pulses (s : State) (lo hi x : Nat) : (wr2 s lo hi x).pulses = s.pulses := rfl
@[simp] theorem wr2_freeCtr (s : State) (lo hi x : Nat) : (wr2 s lo hi x).freeCtr = s.freeCtr := rfl
@[simp] theorem wr2_void (s : State) (lo hi x : Nat) : (wr2 s lo hi x).void = s.void := rfl
@[simp] theorem wr2_pending (s : State) (lo hi x : Nat) : (wr2 s lo hi x).pending = s.pending := rfl

@[simp] theorem stage_regs (s : State) (a : Nat) (v : Word) : (stage s a v).regs = s.regs := rfl
@[simp] theorem stage_latches (s : State) (a : Nat) (v : Word) : (stage s a v).latches = s.latches := rfl
@[simp] theorem stage_sram (s : State) (a : Nat) (v : Word) : (stage s a v).sram = s.sram := rfl
@[simp] theorem stage_dram (s : State) (a : Nat) (v : Word) : (stage s a v).dram = s.dram := rfl
@[simp] theorem stage_mgmtSram (s : State) (a : Nat) (v : Word) : (stage s a v).mgmtSram = s.mgmtSram := rfl
@[simp] theorem stage_l2 (s : State) (a : Nat) (v : Word) : (stage s a v).l2 = s.l2 := rfl
@[simp] theorem stage_dmc (s : State) (a : Nat) (v : Word) : (stage s a v).dmc = s.dmc := rfl
@[simp] theorem stage_err (s : State) (a : Nat) (v : Word) : (stage s a v).err = s.err := rfl
@[simp] theorem stage_tiles (s : State) (a : Nat) (v : Word) : (stage s a v).tiles = s.tiles := rfl
@[simp] theorem stage_pipes (s : State) (a : Nat) (v : Word) : (stage s a v).pipes = s.pipes := rfl
@[simp] theorem stage_trv (s : State) (a : Nat) (v : Word) : (stage s a v).trv = s.trv := rfl
@[simp] theorem stage_jq (s : State) (a : Nat) (v : Word) : (stage s a v).jq = s.jq := rfl
@[simp] theorem stage_ringNext (s : State) (a : Nat) (v : Word) : (stage s a v).ringNext = s.ringNext := rfl
@[simp] theorem stage_ringSince (s : State) (a : Nat) (v : Word) : (stage s a v).ringSince = s.ringSince := rfl
@[simp] theorem stage_sre (s : State) (a : Nat) (v : Word) : (stage s a v).sre = s.sre := rfl
@[simp] theorem stage_bil (s : State) (a : Nat) (v : Word) : (stage s a v).bil = s.bil := rfl
@[simp] theorem stage_dfl (s : State) (a : Nat) (v : Word) : (stage s a v).dfl = s.dfl := rfl
@[simp] theorem stage_cip (s : State) (a : Nat) (v : Word) : (stage s a v).cip = s.cip := rfl
@[simp] theorem stage_dtm (s : State) (a : Nat) (v : Word) : (stage s a v).dtm = s.dtm := rfl
@[simp] theorem stage_bmk (s : State) (a : Nat) (v : Word) : (stage s a v).bmk = s.bmk := rfl
@[simp] theorem stage_pkt (s : State) (a : Nat) (v : Word) : (stage s a v).pkt = s.pkt := rfl
@[simp] theorem stage_fab (s : State) (a : Nat) (v : Word) : (stage s a v).fab = s.fab := rfl
@[simp] theorem stage_pwr (s : State) (a : Nat) (v : Word) : (stage s a v).pwr = s.pwr := rfl
@[simp] theorem stage_mono (s : State) (a : Nat) (v : Word) : (stage s a v).mono = s.mono := rfl
@[simp] theorem stage_resp (s : State) (a : Nat) (v : Word) : (stage s a v).resp = s.resp := rfl
@[simp] theorem stage_pulses (s : State) (a : Nat) (v : Word) : (stage s a v).pulses = s.pulses := rfl
@[simp] theorem stage_freeCtr (s : State) (a : Nat) (v : Word) : (stage s a v).freeCtr = s.freeCtr := rfl
@[simp] theorem stage_void (s : State) (a : Nat) (v : Word) : (stage s a v).void = s.void := rfl
@[simp] theorem stage_pending (s : State) (a : Nat) (v : Word) : (stage s a v).pending = s.pending := rfl

@[simp] theorem reply_regs (s : State) (r : Resp) : (reply s r).regs = s.regs := rfl
@[simp] theorem reply_staged (s : State) (r : Resp) : (reply s r).staged = s.staged := rfl
@[simp] theorem reply_latches (s : State) (r : Resp) : (reply s r).latches = s.latches := rfl
@[simp] theorem reply_sram (s : State) (r : Resp) : (reply s r).sram = s.sram := rfl
@[simp] theorem reply_dram (s : State) (r : Resp) : (reply s r).dram = s.dram := rfl
@[simp] theorem reply_mgmtSram (s : State) (r : Resp) : (reply s r).mgmtSram = s.mgmtSram := rfl
@[simp] theorem reply_l2 (s : State) (r : Resp) : (reply s r).l2 = s.l2 := rfl
@[simp] theorem reply_dmc (s : State) (r : Resp) : (reply s r).dmc = s.dmc := rfl
@[simp] theorem reply_err (s : State) (r : Resp) : (reply s r).err = s.err := rfl
@[simp] theorem reply_tiles (s : State) (r : Resp) : (reply s r).tiles = s.tiles := rfl
@[simp] theorem reply_pipes (s : State) (r : Resp) : (reply s r).pipes = s.pipes := rfl
@[simp] theorem reply_trv (s : State) (r : Resp) : (reply s r).trv = s.trv := rfl
@[simp] theorem reply_jq (s : State) (r : Resp) : (reply s r).jq = s.jq := rfl
@[simp] theorem reply_ringNext (s : State) (r : Resp) : (reply s r).ringNext = s.ringNext := rfl
@[simp] theorem reply_ringSince (s : State) (r : Resp) : (reply s r).ringSince = s.ringSince := rfl
@[simp] theorem reply_sre (s : State) (r : Resp) : (reply s r).sre = s.sre := rfl
@[simp] theorem reply_bil (s : State) (r : Resp) : (reply s r).bil = s.bil := rfl
@[simp] theorem reply_dfl (s : State) (r : Resp) : (reply s r).dfl = s.dfl := rfl
@[simp] theorem reply_cip (s : State) (r : Resp) : (reply s r).cip = s.cip := rfl
@[simp] theorem reply_dtm (s : State) (r : Resp) : (reply s r).dtm = s.dtm := rfl
@[simp] theorem reply_bmk (s : State) (r : Resp) : (reply s r).bmk = s.bmk := rfl
@[simp] theorem reply_pkt (s : State) (r : Resp) : (reply s r).pkt = s.pkt := rfl
@[simp] theorem reply_fab (s : State) (r : Resp) : (reply s r).fab = s.fab := rfl
@[simp] theorem reply_pwr (s : State) (r : Resp) : (reply s r).pwr = s.pwr := rfl
@[simp] theorem reply_mono (s : State) (r : Resp) : (reply s r).mono = s.mono := rfl
@[simp] theorem reply_pulses (s : State) (r : Resp) : (reply s r).pulses = s.pulses := rfl
@[simp] theorem reply_freeCtr (s : State) (r : Resp) : (reply s r).freeCtr = s.freeCtr := rfl
@[simp] theorem reply_void (s : State) (r : Resp) : (reply s r).void = s.void := rfl
@[simp] theorem reply_pending (s : State) (r : Resp) : (reply s r).pending = s.pending := rfl

@[simp] theorem drawn_regs (s : State) : (drawn s).regs = s.regs := rfl
@[simp] theorem drawn_staged (s : State) : (drawn s).staged = s.staged := rfl
@[simp] theorem drawn_latches (s : State) : (drawn s).latches = s.latches := rfl
@[simp] theorem drawn_sram (s : State) : (drawn s).sram = s.sram := rfl
@[simp] theorem drawn_dram (s : State) : (drawn s).dram = s.dram := rfl
@[simp] theorem drawn_mgmtSram (s : State) : (drawn s).mgmtSram = s.mgmtSram := rfl
@[simp] theorem drawn_l2 (s : State) : (drawn s).l2 = s.l2 := rfl
@[simp] theorem drawn_dmc (s : State) : (drawn s).dmc = s.dmc := rfl
@[simp] theorem drawn_err (s : State) : (drawn s).err = s.err := rfl
@[simp] theorem drawn_tiles (s : State) : (drawn s).tiles = s.tiles := rfl
@[simp] theorem drawn_pipes (s : State) : (drawn s).pipes = s.pipes := rfl
@[simp] theorem drawn_trv (s : State) : (drawn s).trv = s.trv := rfl
@[simp] theorem drawn_jq (s : State) : (drawn s).jq = s.jq := rfl
@[simp] theorem drawn_ringNext (s : State) : (drawn s).ringNext = s.ringNext := rfl
@[simp] theorem drawn_ringSince (s : State) : (drawn s).ringSince = s.ringSince := rfl
@[simp] theorem drawn_sre (s : State) : (drawn s).sre = s.sre := rfl
@[simp] theorem drawn_bil (s : State) : (drawn s).bil = s.bil := rfl
@[simp] theorem drawn_dfl (s : State) : (drawn s).dfl = s.dfl := rfl
@[simp] theorem drawn_cip (s : State) : (drawn s).cip = s.cip := rfl
@[simp] theorem drawn_dtm (s : State) : (drawn s).dtm = s.dtm := rfl
@[simp] theorem drawn_bmk (s : State) : (drawn s).bmk = s.bmk := rfl
@[simp] theorem drawn_pkt (s : State) : (drawn s).pkt = s.pkt := rfl
@[simp] theorem drawn_fab (s : State) : (drawn s).fab = s.fab := rfl
@[simp] theorem drawn_pwr (s : State) : (drawn s).pwr = s.pwr := rfl
@[simp] theorem drawn_mono (s : State) : (drawn s).mono = s.mono := rfl
@[simp] theorem drawn_resp (s : State) : (drawn s).resp = s.resp := rfl
@[simp] theorem drawn_pulses (s : State) : (drawn s).pulses = s.pulses := rfl
@[simp] theorem drawn_void (s : State) : (drawn s).void = s.void := rfl
@[simp] theorem drawn_pending (s : State) : (drawn s).pending = s.pending := rfl

@[simp] theorem pulse_regs (s : State) (l : Nat) : (pulse s l).regs = s.regs := rfl
@[simp] theorem pulse_staged (s : State) (l : Nat) : (pulse s l).staged = s.staged := rfl
@[simp] theorem pulse_latches (s : State) (l : Nat) : (pulse s l).latches = s.latches := rfl
@[simp] theorem pulse_sram (s : State) (l : Nat) : (pulse s l).sram = s.sram := rfl
@[simp] theorem pulse_dram (s : State) (l : Nat) : (pulse s l).dram = s.dram := rfl
@[simp] theorem pulse_mgmtSram (s : State) (l : Nat) : (pulse s l).mgmtSram = s.mgmtSram := rfl
@[simp] theorem pulse_l2 (s : State) (l : Nat) : (pulse s l).l2 = s.l2 := rfl
@[simp] theorem pulse_dmc (s : State) (l : Nat) : (pulse s l).dmc = s.dmc := rfl
@[simp] theorem pulse_err (s : State) (l : Nat) : (pulse s l).err = s.err := rfl
@[simp] theorem pulse_tiles (s : State) (l : Nat) : (pulse s l).tiles = s.tiles := rfl
@[simp] theorem pulse_pipes (s : State) (l : Nat) : (pulse s l).pipes = s.pipes := rfl
@[simp] theorem pulse_trv (s : State) (l : Nat) : (pulse s l).trv = s.trv := rfl
@[simp] theorem pulse_jq (s : State) (l : Nat) : (pulse s l).jq = s.jq := rfl
@[simp] theorem pulse_ringNext (s : State) (l : Nat) : (pulse s l).ringNext = s.ringNext := rfl
@[simp] theorem pulse_ringSince (s : State) (l : Nat) : (pulse s l).ringSince = s.ringSince := rfl
@[simp] theorem pulse_sre (s : State) (l : Nat) : (pulse s l).sre = s.sre := rfl
@[simp] theorem pulse_bil (s : State) (l : Nat) : (pulse s l).bil = s.bil := rfl
@[simp] theorem pulse_dfl (s : State) (l : Nat) : (pulse s l).dfl = s.dfl := rfl
@[simp] theorem pulse_cip (s : State) (l : Nat) : (pulse s l).cip = s.cip := rfl
@[simp] theorem pulse_dtm (s : State) (l : Nat) : (pulse s l).dtm = s.dtm := rfl
@[simp] theorem pulse_bmk (s : State) (l : Nat) : (pulse s l).bmk = s.bmk := rfl
@[simp] theorem pulse_pkt (s : State) (l : Nat) : (pulse s l).pkt = s.pkt := rfl
@[simp] theorem pulse_fab (s : State) (l : Nat) : (pulse s l).fab = s.fab := rfl
@[simp] theorem pulse_pwr (s : State) (l : Nat) : (pulse s l).pwr = s.pwr := rfl
@[simp] theorem pulse_mono (s : State) (l : Nat) : (pulse s l).mono = s.mono := rfl
@[simp] theorem pulse_resp (s : State) (l : Nat) : (pulse s l).resp = s.resp := rfl
@[simp] theorem pulse_freeCtr (s : State) (l : Nat) : (pulse s l).freeCtr = s.freeCtr := rfl
@[simp] theorem pulse_void (s : State) (l : Nat) : (pulse s l).void = s.void := rfl
@[simp] theorem pulse_pending (s : State) (l : Nat) : (pulse s l).pending = s.pending := rfl

@[simp] theorem raise_regs (s : State) (r : ErrIn) : (raise s r).regs = s.regs := rfl
@[simp] theorem raise_staged (s : State) (r : ErrIn) : (raise s r).staged = s.staged := rfl
@[simp] theorem raise_latches (s : State) (r : ErrIn) : (raise s r).latches = s.latches := rfl
@[simp] theorem raise_sram (s : State) (r : ErrIn) : (raise s r).sram = s.sram := rfl
@[simp] theorem raise_dram (s : State) (r : ErrIn) : (raise s r).dram = s.dram := rfl
@[simp] theorem raise_mgmtSram (s : State) (r : ErrIn) : (raise s r).mgmtSram = s.mgmtSram := rfl
@[simp] theorem raise_l2 (s : State) (r : ErrIn) : (raise s r).l2 = s.l2 := rfl
@[simp] theorem raise_dmc (s : State) (r : ErrIn) : (raise s r).dmc = s.dmc := rfl
@[simp] theorem raise_tiles (s : State) (r : ErrIn) : (raise s r).tiles = s.tiles := rfl
@[simp] theorem raise_pipes (s : State) (r : ErrIn) : (raise s r).pipes = s.pipes := rfl
@[simp] theorem raise_trv (s : State) (r : ErrIn) : (raise s r).trv = s.trv := rfl
@[simp] theorem raise_jq (s : State) (r : ErrIn) : (raise s r).jq = s.jq := rfl
@[simp] theorem raise_ringNext (s : State) (r : ErrIn) : (raise s r).ringNext = s.ringNext := rfl
@[simp] theorem raise_ringSince (s : State) (r : ErrIn) : (raise s r).ringSince = s.ringSince := rfl
@[simp] theorem raise_sre (s : State) (r : ErrIn) : (raise s r).sre = s.sre := rfl
@[simp] theorem raise_bil (s : State) (r : ErrIn) : (raise s r).bil = s.bil := rfl
@[simp] theorem raise_dfl (s : State) (r : ErrIn) : (raise s r).dfl = s.dfl := rfl
@[simp] theorem raise_cip (s : State) (r : ErrIn) : (raise s r).cip = s.cip := rfl
@[simp] theorem raise_dtm (s : State) (r : ErrIn) : (raise s r).dtm = s.dtm := rfl
@[simp] theorem raise_bmk (s : State) (r : ErrIn) : (raise s r).bmk = s.bmk := rfl
@[simp] theorem raise_pkt (s : State) (r : ErrIn) : (raise s r).pkt = s.pkt := rfl
@[simp] theorem raise_fab (s : State) (r : ErrIn) : (raise s r).fab = s.fab := rfl
@[simp] theorem raise_pwr (s : State) (r : ErrIn) : (raise s r).pwr = s.pwr := rfl
@[simp] theorem raise_mono (s : State) (r : ErrIn) : (raise s r).mono = s.mono := rfl
@[simp] theorem raise_resp (s : State) (r : ErrIn) : (raise s r).resp = s.resp := rfl
@[simp] theorem raise_pulses (s : State) (r : ErrIn) : (raise s r).pulses = s.pulses := rfl
@[simp] theorem raise_freeCtr (s : State) (r : ErrIn) : (raise s r).freeCtr = s.freeCtr := rfl
@[simp] theorem raise_void (s : State) (r : ErrIn) : (raise s r).void = s.void := rfl
@[simp] theorem raise_pending (s : State) (r : ErrIn) : (raise s r).pending = s.pending := rfl

@[simp] theorem setTile_regs (s : State) (n : Nat) (t : Tile) : (setTile s n t).regs = s.regs := rfl
@[simp] theorem setTile_staged (s : State) (n : Nat) (t : Tile) : (setTile s n t).staged = s.staged := rfl
@[simp] theorem setTile_latches (s : State) (n : Nat) (t : Tile) : (setTile s n t).latches = s.latches := rfl
@[simp] theorem setTile_sram (s : State) (n : Nat) (t : Tile) : (setTile s n t).sram = s.sram := rfl
@[simp] theorem setTile_dram (s : State) (n : Nat) (t : Tile) : (setTile s n t).dram = s.dram := rfl
@[simp] theorem setTile_mgmtSram (s : State) (n : Nat) (t : Tile) : (setTile s n t).mgmtSram = s.mgmtSram := rfl
@[simp] theorem setTile_l2 (s : State) (n : Nat) (t : Tile) : (setTile s n t).l2 = s.l2 := rfl
@[simp] theorem setTile_dmc (s : State) (n : Nat) (t : Tile) : (setTile s n t).dmc = s.dmc := rfl
@[simp] theorem setTile_err (s : State) (n : Nat) (t : Tile) : (setTile s n t).err = s.err := rfl
@[simp] theorem setTile_pipes (s : State) (n : Nat) (t : Tile) : (setTile s n t).pipes = s.pipes := rfl
@[simp] theorem setTile_trv (s : State) (n : Nat) (t : Tile) : (setTile s n t).trv = s.trv := rfl
@[simp] theorem setTile_jq (s : State) (n : Nat) (t : Tile) : (setTile s n t).jq = s.jq := rfl
@[simp] theorem setTile_ringNext (s : State) (n : Nat) (t : Tile) : (setTile s n t).ringNext = s.ringNext := rfl
@[simp] theorem setTile_ringSince (s : State) (n : Nat) (t : Tile) : (setTile s n t).ringSince = s.ringSince := rfl
@[simp] theorem setTile_sre (s : State) (n : Nat) (t : Tile) : (setTile s n t).sre = s.sre := rfl
@[simp] theorem setTile_bil (s : State) (n : Nat) (t : Tile) : (setTile s n t).bil = s.bil := rfl
@[simp] theorem setTile_dfl (s : State) (n : Nat) (t : Tile) : (setTile s n t).dfl = s.dfl := rfl
@[simp] theorem setTile_cip (s : State) (n : Nat) (t : Tile) : (setTile s n t).cip = s.cip := rfl
@[simp] theorem setTile_dtm (s : State) (n : Nat) (t : Tile) : (setTile s n t).dtm = s.dtm := rfl
@[simp] theorem setTile_bmk (s : State) (n : Nat) (t : Tile) : (setTile s n t).bmk = s.bmk := rfl
@[simp] theorem setTile_pkt (s : State) (n : Nat) (t : Tile) : (setTile s n t).pkt = s.pkt := rfl
@[simp] theorem setTile_fab (s : State) (n : Nat) (t : Tile) : (setTile s n t).fab = s.fab := rfl
@[simp] theorem setTile_pwr (s : State) (n : Nat) (t : Tile) : (setTile s n t).pwr = s.pwr := rfl
@[simp] theorem setTile_mono (s : State) (n : Nat) (t : Tile) : (setTile s n t).mono = s.mono := rfl
@[simp] theorem setTile_resp (s : State) (n : Nat) (t : Tile) : (setTile s n t).resp = s.resp := rfl
@[simp] theorem setTile_pulses (s : State) (n : Nat) (t : Tile) : (setTile s n t).pulses = s.pulses := rfl
@[simp] theorem setTile_freeCtr (s : State) (n : Nat) (t : Tile) : (setTile s n t).freeCtr = s.freeCtr := rfl
@[simp] theorem setTile_void (s : State) (n : Nat) (t : Tile) : (setTile s n t).void = s.void := rfl
@[simp] theorem setTile_pending (s : State) (n : Nat) (t : Tile) : (setTile s n t).pending = s.pending := rfl

@[simp] theorem modTile_regs (s : State) (n : Nat) (f : Tile → Tile) : (modTile s n f).regs = s.regs := rfl
@[simp] theorem modTile_staged (s : State) (n : Nat) (f : Tile → Tile) : (modTile s n f).staged = s.staged := rfl
@[simp] theorem modTile_latches (s : State) (n : Nat) (f : Tile → Tile) : (modTile s n f).latches = s.latches := rfl
@[simp] theorem modTile_sram (s : State) (n : Nat) (f : Tile → Tile) : (modTile s n f).sram = s.sram := rfl
@[simp] theorem modTile_dram (s : State) (n : Nat) (f : Tile → Tile) : (modTile s n f).dram = s.dram := rfl
@[simp] theorem modTile_mgmtSram (s : State) (n : Nat) (f : Tile → Tile) : (modTile s n f).mgmtSram = s.mgmtSram := rfl
@[simp] theorem modTile_l2 (s : State) (n : Nat) (f : Tile → Tile) : (modTile s n f).l2 = s.l2 := rfl
@[simp] theorem modTile_dmc (s : State) (n : Nat) (f : Tile → Tile) : (modTile s n f).dmc = s.dmc := rfl
@[simp] theorem modTile_err (s : State) (n : Nat) (f : Tile → Tile) : (modTile s n f).err = s.err := rfl
@[simp] theorem modTile_pipes (s : State) (n : Nat) (f : Tile → Tile) : (modTile s n f).pipes = s.pipes := rfl
@[simp] theorem modTile_trv (s : State) (n : Nat) (f : Tile → Tile) : (modTile s n f).trv = s.trv := rfl
@[simp] theorem modTile_jq (s : State) (n : Nat) (f : Tile → Tile) : (modTile s n f).jq = s.jq := rfl
@[simp] theorem modTile_ringNext (s : State) (n : Nat) (f : Tile → Tile) : (modTile s n f).ringNext = s.ringNext := rfl
@[simp] theorem modTile_ringSince (s : State) (n : Nat) (f : Tile → Tile) : (modTile s n f).ringSince = s.ringSince := rfl
@[simp] theorem modTile_sre (s : State) (n : Nat) (f : Tile → Tile) : (modTile s n f).sre = s.sre := rfl
@[simp] theorem modTile_bil (s : State) (n : Nat) (f : Tile → Tile) : (modTile s n f).bil = s.bil := rfl
@[simp] theorem modTile_dfl (s : State) (n : Nat) (f : Tile → Tile) : (modTile s n f).dfl = s.dfl := rfl
@[simp] theorem modTile_cip (s : State) (n : Nat) (f : Tile → Tile) : (modTile s n f).cip = s.cip := rfl
@[simp] theorem modTile_dtm (s : State) (n : Nat) (f : Tile → Tile) : (modTile s n f).dtm = s.dtm := rfl
@[simp] theorem modTile_bmk (s : State) (n : Nat) (f : Tile → Tile) : (modTile s n f).bmk = s.bmk := rfl
@[simp] theorem modTile_pkt (s : State) (n : Nat) (f : Tile → Tile) : (modTile s n f).pkt = s.pkt := rfl
@[simp] theorem modTile_fab (s : State) (n : Nat) (f : Tile → Tile) : (modTile s n f).fab = s.fab := rfl
@[simp] theorem modTile_pwr (s : State) (n : Nat) (f : Tile → Tile) : (modTile s n f).pwr = s.pwr := rfl
@[simp] theorem modTile_mono (s : State) (n : Nat) (f : Tile → Tile) : (modTile s n f).mono = s.mono := rfl
@[simp] theorem modTile_resp (s : State) (n : Nat) (f : Tile → Tile) : (modTile s n f).resp = s.resp := rfl
@[simp] theorem modTile_pulses (s : State) (n : Nat) (f : Tile → Tile) : (modTile s n f).pulses = s.pulses := rfl
@[simp] theorem modTile_freeCtr (s : State) (n : Nat) (f : Tile → Tile) : (modTile s n f).freeCtr = s.freeCtr := rfl
@[simp] theorem modTile_void (s : State) (n : Nat) (f : Tile → Tile) : (modTile s n f).void = s.void := rfl
@[simp] theorem modTile_pending (s : State) (n : Nat) (f : Tile → Tile) : (modTile s n f).pending = s.pending := rfl

@[simp] theorem modPipe_regs (s : State) (n : Nat) (f : Pipe → Pipe) : (modPipe s n f).regs = s.regs := rfl
@[simp] theorem modPipe_staged (s : State) (n : Nat) (f : Pipe → Pipe) : (modPipe s n f).staged = s.staged := rfl
@[simp] theorem modPipe_latches (s : State) (n : Nat) (f : Pipe → Pipe) : (modPipe s n f).latches = s.latches := rfl
@[simp] theorem modPipe_sram (s : State) (n : Nat) (f : Pipe → Pipe) : (modPipe s n f).sram = s.sram := rfl
@[simp] theorem modPipe_dram (s : State) (n : Nat) (f : Pipe → Pipe) : (modPipe s n f).dram = s.dram := rfl
@[simp] theorem modPipe_mgmtSram (s : State) (n : Nat) (f : Pipe → Pipe) : (modPipe s n f).mgmtSram = s.mgmtSram := rfl
@[simp] theorem modPipe_l2 (s : State) (n : Nat) (f : Pipe → Pipe) : (modPipe s n f).l2 = s.l2 := rfl
@[simp] theorem modPipe_dmc (s : State) (n : Nat) (f : Pipe → Pipe) : (modPipe s n f).dmc = s.dmc := rfl
@[simp] theorem modPipe_err (s : State) (n : Nat) (f : Pipe → Pipe) : (modPipe s n f).err = s.err := rfl
@[simp] theorem modPipe_tiles (s : State) (n : Nat) (f : Pipe → Pipe) : (modPipe s n f).tiles = s.tiles := rfl
@[simp] theorem modPipe_trv (s : State) (n : Nat) (f : Pipe → Pipe) : (modPipe s n f).trv = s.trv := rfl
@[simp] theorem modPipe_jq (s : State) (n : Nat) (f : Pipe → Pipe) : (modPipe s n f).jq = s.jq := rfl
@[simp] theorem modPipe_ringNext (s : State) (n : Nat) (f : Pipe → Pipe) : (modPipe s n f).ringNext = s.ringNext := rfl
@[simp] theorem modPipe_ringSince (s : State) (n : Nat) (f : Pipe → Pipe) : (modPipe s n f).ringSince = s.ringSince := rfl
@[simp] theorem modPipe_sre (s : State) (n : Nat) (f : Pipe → Pipe) : (modPipe s n f).sre = s.sre := rfl
@[simp] theorem modPipe_bil (s : State) (n : Nat) (f : Pipe → Pipe) : (modPipe s n f).bil = s.bil := rfl
@[simp] theorem modPipe_dfl (s : State) (n : Nat) (f : Pipe → Pipe) : (modPipe s n f).dfl = s.dfl := rfl
@[simp] theorem modPipe_cip (s : State) (n : Nat) (f : Pipe → Pipe) : (modPipe s n f).cip = s.cip := rfl
@[simp] theorem modPipe_dtm (s : State) (n : Nat) (f : Pipe → Pipe) : (modPipe s n f).dtm = s.dtm := rfl
@[simp] theorem modPipe_bmk (s : State) (n : Nat) (f : Pipe → Pipe) : (modPipe s n f).bmk = s.bmk := rfl
@[simp] theorem modPipe_pkt (s : State) (n : Nat) (f : Pipe → Pipe) : (modPipe s n f).pkt = s.pkt := rfl
@[simp] theorem modPipe_fab (s : State) (n : Nat) (f : Pipe → Pipe) : (modPipe s n f).fab = s.fab := rfl
@[simp] theorem modPipe_pwr (s : State) (n : Nat) (f : Pipe → Pipe) : (modPipe s n f).pwr = s.pwr := rfl
@[simp] theorem modPipe_mono (s : State) (n : Nat) (f : Pipe → Pipe) : (modPipe s n f).mono = s.mono := rfl
@[simp] theorem modPipe_resp (s : State) (n : Nat) (f : Pipe → Pipe) : (modPipe s n f).resp = s.resp := rfl
@[simp] theorem modPipe_pulses (s : State) (n : Nat) (f : Pipe → Pipe) : (modPipe s n f).pulses = s.pulses := rfl
@[simp] theorem modPipe_freeCtr (s : State) (n : Nat) (f : Pipe → Pipe) : (modPipe s n f).freeCtr = s.freeCtr := rfl
@[simp] theorem modPipe_void (s : State) (n : Nat) (f : Pipe → Pipe) : (modPipe s n f).void = s.void := rfl
@[simp] theorem modPipe_pending (s : State) (n : Nat) (f : Pipe → Pipe) : (modPipe s n f).pending = s.pending := rfl

@[simp] theorem setRetrain_regs (s : State) (ch : Nat) (r : Retrain) : (setRetrain s ch r).regs = s.regs := rfl
@[simp] theorem setRetrain_staged (s : State) (ch : Nat) (r : Retrain) : (setRetrain s ch r).staged = s.staged := rfl
@[simp] theorem setRetrain_latches (s : State) (ch : Nat) (r : Retrain) : (setRetrain s ch r).latches = s.latches := rfl
@[simp] theorem setRetrain_sram (s : State) (ch : Nat) (r : Retrain) : (setRetrain s ch r).sram = s.sram := rfl
@[simp] theorem setRetrain_dram (s : State) (ch : Nat) (r : Retrain) : (setRetrain s ch r).dram = s.dram := rfl
@[simp] theorem setRetrain_mgmtSram (s : State) (ch : Nat) (r : Retrain) : (setRetrain s ch r).mgmtSram = s.mgmtSram := rfl
@[simp] theorem setRetrain_l2 (s : State) (ch : Nat) (r : Retrain) : (setRetrain s ch r).l2 = s.l2 := rfl
@[simp] theorem setRetrain_err (s : State) (ch : Nat) (r : Retrain) : (setRetrain s ch r).err = s.err := rfl
@[simp] theorem setRetrain_tiles (s : State) (ch : Nat) (r : Retrain) : (setRetrain s ch r).tiles = s.tiles := rfl
@[simp] theorem setRetrain_pipes (s : State) (ch : Nat) (r : Retrain) : (setRetrain s ch r).pipes = s.pipes := rfl
@[simp] theorem setRetrain_trv (s : State) (ch : Nat) (r : Retrain) : (setRetrain s ch r).trv = s.trv := rfl
@[simp] theorem setRetrain_jq (s : State) (ch : Nat) (r : Retrain) : (setRetrain s ch r).jq = s.jq := rfl
@[simp] theorem setRetrain_ringNext (s : State) (ch : Nat) (r : Retrain) : (setRetrain s ch r).ringNext = s.ringNext := rfl
@[simp] theorem setRetrain_ringSince (s : State) (ch : Nat) (r : Retrain) : (setRetrain s ch r).ringSince = s.ringSince := rfl
@[simp] theorem setRetrain_sre (s : State) (ch : Nat) (r : Retrain) : (setRetrain s ch r).sre = s.sre := rfl
@[simp] theorem setRetrain_bil (s : State) (ch : Nat) (r : Retrain) : (setRetrain s ch r).bil = s.bil := rfl
@[simp] theorem setRetrain_dfl (s : State) (ch : Nat) (r : Retrain) : (setRetrain s ch r).dfl = s.dfl := rfl
@[simp] theorem setRetrain_cip (s : State) (ch : Nat) (r : Retrain) : (setRetrain s ch r).cip = s.cip := rfl
@[simp] theorem setRetrain_dtm (s : State) (ch : Nat) (r : Retrain) : (setRetrain s ch r).dtm = s.dtm := rfl
@[simp] theorem setRetrain_bmk (s : State) (ch : Nat) (r : Retrain) : (setRetrain s ch r).bmk = s.bmk := rfl
@[simp] theorem setRetrain_pkt (s : State) (ch : Nat) (r : Retrain) : (setRetrain s ch r).pkt = s.pkt := rfl
@[simp] theorem setRetrain_fab (s : State) (ch : Nat) (r : Retrain) : (setRetrain s ch r).fab = s.fab := rfl
@[simp] theorem setRetrain_pwr (s : State) (ch : Nat) (r : Retrain) : (setRetrain s ch r).pwr = s.pwr := rfl
@[simp] theorem setRetrain_mono (s : State) (ch : Nat) (r : Retrain) : (setRetrain s ch r).mono = s.mono := rfl
@[simp] theorem setRetrain_resp (s : State) (ch : Nat) (r : Retrain) : (setRetrain s ch r).resp = s.resp := rfl
@[simp] theorem setRetrain_pulses (s : State) (ch : Nat) (r : Retrain) : (setRetrain s ch r).pulses = s.pulses := rfl
@[simp] theorem setRetrain_freeCtr (s : State) (ch : Nat) (r : Retrain) : (setRetrain s ch r).freeCtr = s.freeCtr := rfl
@[simp] theorem setRetrain_void (s : State) (ch : Nat) (r : Retrain) : (setRetrain s ch r).void = s.void := rfl
@[simp] theorem setRetrain_pending (s : State) (ch : Nat) (r : Retrain) : (setRetrain s ch r).pending = s.pending := rfl

@[simp] theorem jobAdd_regs (s : State) (j : MbJob) : (jobAdd s j).regs = s.regs := rfl
@[simp] theorem jobAdd_staged (s : State) (j : MbJob) : (jobAdd s j).staged = s.staged := rfl
@[simp] theorem jobAdd_latches (s : State) (j : MbJob) : (jobAdd s j).latches = s.latches := rfl
@[simp] theorem jobAdd_sram (s : State) (j : MbJob) : (jobAdd s j).sram = s.sram := rfl
@[simp] theorem jobAdd_dram (s : State) (j : MbJob) : (jobAdd s j).dram = s.dram := rfl
@[simp] theorem jobAdd_mgmtSram (s : State) (j : MbJob) : (jobAdd s j).mgmtSram = s.mgmtSram := rfl
@[simp] theorem jobAdd_l2 (s : State) (j : MbJob) : (jobAdd s j).l2 = s.l2 := rfl
@[simp] theorem jobAdd_dmc (s : State) (j : MbJob) : (jobAdd s j).dmc = s.dmc := rfl
@[simp] theorem jobAdd_err (s : State) (j : MbJob) : (jobAdd s j).err = s.err := rfl
@[simp] theorem jobAdd_tiles (s : State) (j : MbJob) : (jobAdd s j).tiles = s.tiles := rfl
@[simp] theorem jobAdd_pipes (s : State) (j : MbJob) : (jobAdd s j).pipes = s.pipes := rfl
@[simp] theorem jobAdd_trv (s : State) (j : MbJob) : (jobAdd s j).trv = s.trv := rfl
@[simp] theorem jobAdd_jq (s : State) (j : MbJob) : (jobAdd s j).jq = s.jq := rfl
@[simp] theorem jobAdd_ringNext (s : State) (j : MbJob) : (jobAdd s j).ringNext = s.ringNext := rfl
@[simp] theorem jobAdd_ringSince (s : State) (j : MbJob) : (jobAdd s j).ringSince = s.ringSince := rfl
@[simp] theorem jobAdd_sre (s : State) (j : MbJob) : (jobAdd s j).sre = s.sre := rfl
@[simp] theorem jobAdd_bil (s : State) (j : MbJob) : (jobAdd s j).bil = s.bil := rfl
@[simp] theorem jobAdd_dfl (s : State) (j : MbJob) : (jobAdd s j).dfl = s.dfl := rfl
@[simp] theorem jobAdd_cip (s : State) (j : MbJob) : (jobAdd s j).cip = s.cip := rfl
@[simp] theorem jobAdd_dtm (s : State) (j : MbJob) : (jobAdd s j).dtm = s.dtm := rfl
@[simp] theorem jobAdd_pkt (s : State) (j : MbJob) : (jobAdd s j).pkt = s.pkt := rfl
@[simp] theorem jobAdd_fab (s : State) (j : MbJob) : (jobAdd s j).fab = s.fab := rfl
@[simp] theorem jobAdd_pwr (s : State) (j : MbJob) : (jobAdd s j).pwr = s.pwr := rfl
@[simp] theorem jobAdd_mono (s : State) (j : MbJob) : (jobAdd s j).mono = s.mono := rfl
@[simp] theorem jobAdd_resp (s : State) (j : MbJob) : (jobAdd s j).resp = s.resp := rfl
@[simp] theorem jobAdd_pulses (s : State) (j : MbJob) : (jobAdd s j).pulses = s.pulses := rfl
@[simp] theorem jobAdd_freeCtr (s : State) (j : MbJob) : (jobAdd s j).freeCtr = s.freeCtr := rfl
@[simp] theorem jobAdd_void (s : State) (j : MbJob) : (jobAdd s j).void = s.void := rfl
@[simp] theorem jobAdd_pending (s : State) (j : MbJob) : (jobAdd s j).pending = s.pending := rfl

@[simp] theorem toTrv_regs (s : State) (m : TrvMsg) : (toTrv s m).regs = s.regs := rfl
@[simp] theorem toTrv_staged (s : State) (m : TrvMsg) : (toTrv s m).staged = s.staged := rfl
@[simp] theorem toTrv_latches (s : State) (m : TrvMsg) : (toTrv s m).latches = s.latches := rfl
@[simp] theorem toTrv_sram (s : State) (m : TrvMsg) : (toTrv s m).sram = s.sram := rfl
@[simp] theorem toTrv_dram (s : State) (m : TrvMsg) : (toTrv s m).dram = s.dram := rfl
@[simp] theorem toTrv_mgmtSram (s : State) (m : TrvMsg) : (toTrv s m).mgmtSram = s.mgmtSram := rfl
@[simp] theorem toTrv_l2 (s : State) (m : TrvMsg) : (toTrv s m).l2 = s.l2 := rfl
@[simp] theorem toTrv_dmc (s : State) (m : TrvMsg) : (toTrv s m).dmc = s.dmc := rfl
@[simp] theorem toTrv_err (s : State) (m : TrvMsg) : (toTrv s m).err = s.err := rfl
@[simp] theorem toTrv_tiles (s : State) (m : TrvMsg) : (toTrv s m).tiles = s.tiles := rfl
@[simp] theorem toTrv_pipes (s : State) (m : TrvMsg) : (toTrv s m).pipes = s.pipes := rfl
@[simp] theorem toTrv_jq (s : State) (m : TrvMsg) : (toTrv s m).jq = s.jq := rfl
@[simp] theorem toTrv_ringNext (s : State) (m : TrvMsg) : (toTrv s m).ringNext = s.ringNext := rfl
@[simp] theorem toTrv_ringSince (s : State) (m : TrvMsg) : (toTrv s m).ringSince = s.ringSince := rfl
@[simp] theorem toTrv_sre (s : State) (m : TrvMsg) : (toTrv s m).sre = s.sre := rfl
@[simp] theorem toTrv_bil (s : State) (m : TrvMsg) : (toTrv s m).bil = s.bil := rfl
@[simp] theorem toTrv_dfl (s : State) (m : TrvMsg) : (toTrv s m).dfl = s.dfl := rfl
@[simp] theorem toTrv_cip (s : State) (m : TrvMsg) : (toTrv s m).cip = s.cip := rfl
@[simp] theorem toTrv_dtm (s : State) (m : TrvMsg) : (toTrv s m).dtm = s.dtm := rfl
@[simp] theorem toTrv_bmk (s : State) (m : TrvMsg) : (toTrv s m).bmk = s.bmk := rfl
@[simp] theorem toTrv_pkt (s : State) (m : TrvMsg) : (toTrv s m).pkt = s.pkt := rfl
@[simp] theorem toTrv_fab (s : State) (m : TrvMsg) : (toTrv s m).fab = s.fab := rfl
@[simp] theorem toTrv_pwr (s : State) (m : TrvMsg) : (toTrv s m).pwr = s.pwr := rfl
@[simp] theorem toTrv_mono (s : State) (m : TrvMsg) : (toTrv s m).mono = s.mono := rfl
@[simp] theorem toTrv_resp (s : State) (m : TrvMsg) : (toTrv s m).resp = s.resp := rfl
@[simp] theorem toTrv_pulses (s : State) (m : TrvMsg) : (toTrv s m).pulses = s.pulses := rfl
@[simp] theorem toTrv_freeCtr (s : State) (m : TrvMsg) : (toTrv s m).freeCtr = s.freeCtr := rfl
@[simp] theorem toTrv_void (s : State) (m : TrvMsg) : (toTrv s m).void = s.void := rfl
@[simp] theorem toTrv_pending (s : State) (m : TrvMsg) : (toTrv s m).pending = s.pending := rfl

@[simp] theorem sramPut_regs (s : State) (o : Nat) (bs : List Byte) : (sramPut s o bs).regs = s.regs := rfl
@[simp] theorem sramPut_staged (s : State) (o : Nat) (bs : List Byte) : (sramPut s o bs).staged = s.staged := rfl
@[simp] theorem sramPut_latches (s : State) (o : Nat) (bs : List Byte) : (sramPut s o bs).latches = s.latches := rfl
@[simp] theorem sramPut_dram (s : State) (o : Nat) (bs : List Byte) : (sramPut s o bs).dram = s.dram := rfl
@[simp] theorem sramPut_mgmtSram (s : State) (o : Nat) (bs : List Byte) : (sramPut s o bs).mgmtSram = s.mgmtSram := rfl
@[simp] theorem sramPut_l2 (s : State) (o : Nat) (bs : List Byte) : (sramPut s o bs).l2 = s.l2 := rfl
@[simp] theorem sramPut_dmc (s : State) (o : Nat) (bs : List Byte) : (sramPut s o bs).dmc = s.dmc := rfl
@[simp] theorem sramPut_err (s : State) (o : Nat) (bs : List Byte) : (sramPut s o bs).err = s.err := rfl
@[simp] theorem sramPut_tiles (s : State) (o : Nat) (bs : List Byte) : (sramPut s o bs).tiles = s.tiles := rfl
@[simp] theorem sramPut_pipes (s : State) (o : Nat) (bs : List Byte) : (sramPut s o bs).pipes = s.pipes := rfl
@[simp] theorem sramPut_trv (s : State) (o : Nat) (bs : List Byte) : (sramPut s o bs).trv = s.trv := rfl
@[simp] theorem sramPut_jq (s : State) (o : Nat) (bs : List Byte) : (sramPut s o bs).jq = s.jq := rfl
@[simp] theorem sramPut_ringNext (s : State) (o : Nat) (bs : List Byte) : (sramPut s o bs).ringNext = s.ringNext := rfl
@[simp] theorem sramPut_ringSince (s : State) (o : Nat) (bs : List Byte) : (sramPut s o bs).ringSince = s.ringSince := rfl
@[simp] theorem sramPut_sre (s : State) (o : Nat) (bs : List Byte) : (sramPut s o bs).sre = s.sre := rfl
@[simp] theorem sramPut_bil (s : State) (o : Nat) (bs : List Byte) : (sramPut s o bs).bil = s.bil := rfl
@[simp] theorem sramPut_dfl (s : State) (o : Nat) (bs : List Byte) : (sramPut s o bs).dfl = s.dfl := rfl
@[simp] theorem sramPut_cip (s : State) (o : Nat) (bs : List Byte) : (sramPut s o bs).cip = s.cip := rfl
@[simp] theorem sramPut_dtm (s : State) (o : Nat) (bs : List Byte) : (sramPut s o bs).dtm = s.dtm := rfl
@[simp] theorem sramPut_bmk (s : State) (o : Nat) (bs : List Byte) : (sramPut s o bs).bmk = s.bmk := rfl
@[simp] theorem sramPut_pkt (s : State) (o : Nat) (bs : List Byte) : (sramPut s o bs).pkt = s.pkt := rfl
@[simp] theorem sramPut_fab (s : State) (o : Nat) (bs : List Byte) : (sramPut s o bs).fab = s.fab := rfl
@[simp] theorem sramPut_pwr (s : State) (o : Nat) (bs : List Byte) : (sramPut s o bs).pwr = s.pwr := rfl
@[simp] theorem sramPut_mono (s : State) (o : Nat) (bs : List Byte) : (sramPut s o bs).mono = s.mono := rfl
@[simp] theorem sramPut_resp (s : State) (o : Nat) (bs : List Byte) : (sramPut s o bs).resp = s.resp := rfl
@[simp] theorem sramPut_pulses (s : State) (o : Nat) (bs : List Byte) : (sramPut s o bs).pulses = s.pulses := rfl
@[simp] theorem sramPut_freeCtr (s : State) (o : Nat) (bs : List Byte) : (sramPut s o bs).freeCtr = s.freeCtr := rfl
@[simp] theorem sramPut_void (s : State) (o : Nat) (bs : List Byte) : (sramPut s o bs).void = s.void := rfl
@[simp] theorem sramPut_pending (s : State) (o : Nat) (bs : List Byte) : (sramPut s o bs).pending = s.pending := rfl

@[simp] theorem putBlock_regs (s : State) (ch p : Nat) (bs : List Byte) : (putBlock s ch p bs).regs = s.regs := rfl
@[simp] theorem putBlock_staged (s : State) (ch p : Nat) (bs : List Byte) : (putBlock s ch p bs).staged = s.staged := rfl
@[simp] theorem putBlock_latches (s : State) (ch p : Nat) (bs : List Byte) : (putBlock s ch p bs).latches = s.latches := rfl
@[simp] theorem putBlock_sram (s : State) (ch p : Nat) (bs : List Byte) : (putBlock s ch p bs).sram = s.sram := rfl
@[simp] theorem putBlock_mgmtSram (s : State) (ch p : Nat) (bs : List Byte) : (putBlock s ch p bs).mgmtSram = s.mgmtSram := rfl
@[simp] theorem putBlock_l2 (s : State) (ch p : Nat) (bs : List Byte) : (putBlock s ch p bs).l2 = s.l2 := rfl
@[simp] theorem putBlock_dmc (s : State) (ch p : Nat) (bs : List Byte) : (putBlock s ch p bs).dmc = s.dmc := rfl
@[simp] theorem putBlock_err (s : State) (ch p : Nat) (bs : List Byte) : (putBlock s ch p bs).err = s.err := rfl
@[simp] theorem putBlock_tiles (s : State) (ch p : Nat) (bs : List Byte) : (putBlock s ch p bs).tiles = s.tiles := rfl
@[simp] theorem putBlock_pipes (s : State) (ch p : Nat) (bs : List Byte) : (putBlock s ch p bs).pipes = s.pipes := rfl
@[simp] theorem putBlock_trv (s : State) (ch p : Nat) (bs : List Byte) : (putBlock s ch p bs).trv = s.trv := rfl
@[simp] theorem putBlock_jq (s : State) (ch p : Nat) (bs : List Byte) : (putBlock s ch p bs).jq = s.jq := rfl
@[simp] theorem putBlock_ringNext (s : State) (ch p : Nat) (bs : List Byte) : (putBlock s ch p bs).ringNext = s.ringNext := rfl
@[simp] theorem putBlock_ringSince (s : State) (ch p : Nat) (bs : List Byte) : (putBlock s ch p bs).ringSince = s.ringSince := rfl
@[simp] theorem putBlock_sre (s : State) (ch p : Nat) (bs : List Byte) : (putBlock s ch p bs).sre = s.sre := rfl
@[simp] theorem putBlock_bil (s : State) (ch p : Nat) (bs : List Byte) : (putBlock s ch p bs).bil = s.bil := rfl
@[simp] theorem putBlock_dfl (s : State) (ch p : Nat) (bs : List Byte) : (putBlock s ch p bs).dfl = s.dfl := rfl
@[simp] theorem putBlock_cip (s : State) (ch p : Nat) (bs : List Byte) : (putBlock s ch p bs).cip = s.cip := rfl
@[simp] theorem putBlock_dtm (s : State) (ch p : Nat) (bs : List Byte) : (putBlock s ch p bs).dtm = s.dtm := rfl
@[simp] theorem putBlock_bmk (s : State) (ch p : Nat) (bs : List Byte) : (putBlock s ch p bs).bmk = s.bmk := rfl
@[simp] theorem putBlock_pkt (s : State) (ch p : Nat) (bs : List Byte) : (putBlock s ch p bs).pkt = s.pkt := rfl
@[simp] theorem putBlock_fab (s : State) (ch p : Nat) (bs : List Byte) : (putBlock s ch p bs).fab = s.fab := rfl
@[simp] theorem putBlock_pwr (s : State) (ch p : Nat) (bs : List Byte) : (putBlock s ch p bs).pwr = s.pwr := rfl
@[simp] theorem putBlock_mono (s : State) (ch p : Nat) (bs : List Byte) : (putBlock s ch p bs).mono = s.mono := rfl
@[simp] theorem putBlock_resp (s : State) (ch p : Nat) (bs : List Byte) : (putBlock s ch p bs).resp = s.resp := rfl
@[simp] theorem putBlock_pulses (s : State) (ch p : Nat) (bs : List Byte) : (putBlock s ch p bs).pulses = s.pulses := rfl
@[simp] theorem putBlock_freeCtr (s : State) (ch p : Nat) (bs : List Byte) : (putBlock s ch p bs).freeCtr = s.freeCtr := rfl
@[simp] theorem putBlock_void (s : State) (ch p : Nat) (bs : List Byte) : (putBlock s ch p bs).void = s.void := rfl
@[simp] theorem putBlock_pending (s : State) (ch p : Nat) (bs : List Byte) : (putBlock s ch p bs).pending = s.pending := rfl

@[simp] theorem notBefore_regs (s : State) (t : Nat) : (notBefore s t).regs = s.regs := by
  unfold notBefore; split <;> rfl
@[simp] theorem notBefore_staged (s : State) (t : Nat) : (notBefore s t).staged = s.staged := by
  unfold notBefore; split <;> rfl
@[simp] theorem notBefore_latches (s : State) (t : Nat) : (notBefore s t).latches = s.latches := by
  unfold notBefore; split <;> rfl
@[simp] theorem notBefore_sram (s : State) (t : Nat) : (notBefore s t).sram = s.sram := by
  unfold notBefore; split <;> rfl
@[simp] theorem notBefore_dram (s : State) (t : Nat) : (notBefore s t).dram = s.dram := by
  unfold notBefore; split <;> rfl
@[simp] theorem notBefore_mgmtSram (s : State) (t : Nat) : (notBefore s t).mgmtSram = s.mgmtSram := by
  unfold notBefore; split <;> rfl
@[simp] theorem notBefore_l2 (s : State) (t : Nat) : (notBefore s t).l2 = s.l2 := by
  unfold notBefore; split <;> rfl
@[simp] theorem notBefore_dmc (s : State) (t : Nat) : (notBefore s t).dmc = s.dmc := by
  unfold notBefore; split <;> rfl
@[simp] theorem notBefore_err (s : State) (t : Nat) : (notBefore s t).err = s.err := by
  unfold notBefore; split <;> rfl
@[simp] theorem notBefore_tiles (s : State) (t : Nat) : (notBefore s t).tiles = s.tiles := by
  unfold notBefore; split <;> rfl
@[simp] theorem notBefore_pipes (s : State) (t : Nat) : (notBefore s t).pipes = s.pipes := by
  unfold notBefore; split <;> rfl
@[simp] theorem notBefore_trv (s : State) (t : Nat) : (notBefore s t).trv = s.trv := by
  unfold notBefore; split <;> rfl
@[simp] theorem notBefore_jq (s : State) (t : Nat) : (notBefore s t).jq = s.jq := by
  unfold notBefore; split <;> rfl
@[simp] theorem notBefore_ringNext (s : State) (t : Nat) : (notBefore s t).ringNext = s.ringNext := by
  unfold notBefore; split <;> rfl
@[simp] theorem notBefore_ringSince (s : State) (t : Nat) : (notBefore s t).ringSince = s.ringSince := by
  unfold notBefore; split <;> rfl
@[simp] theorem notBefore_sre (s : State) (t : Nat) : (notBefore s t).sre = s.sre := by
  unfold notBefore; split <;> rfl
@[simp] theorem notBefore_bil (s : State) (t : Nat) : (notBefore s t).bil = s.bil := by
  unfold notBefore; split <;> rfl
@[simp] theorem notBefore_dfl (s : State) (t : Nat) : (notBefore s t).dfl = s.dfl := by
  unfold notBefore; split <;> rfl
@[simp] theorem notBefore_cip (s : State) (t : Nat) : (notBefore s t).cip = s.cip := by
  unfold notBefore; split <;> rfl
@[simp] theorem notBefore_dtm (s : State) (t : Nat) : (notBefore s t).dtm = s.dtm := by
  unfold notBefore; split <;> rfl
@[simp] theorem notBefore_bmk (s : State) (t : Nat) : (notBefore s t).bmk = s.bmk := by
  unfold notBefore; split <;> rfl
@[simp] theorem notBefore_pkt (s : State) (t : Nat) : (notBefore s t).pkt = s.pkt := by
  unfold notBefore; split <;> rfl
@[simp] theorem notBefore_fab (s : State) (t : Nat) : (notBefore s t).fab = s.fab := by
  unfold notBefore; split <;> rfl
@[simp] theorem notBefore_pwr (s : State) (t : Nat) : (notBefore s t).pwr = s.pwr := by
  unfold notBefore; split <;> rfl
@[simp] theorem notBefore_resp (s : State) (t : Nat) : (notBefore s t).resp = s.resp := by
  unfold notBefore; split <;> rfl
@[simp] theorem notBefore_pulses (s : State) (t : Nat) : (notBefore s t).pulses = s.pulses := by
  unfold notBefore; split <;> rfl
@[simp] theorem notBefore_freeCtr (s : State) (t : Nat) : (notBefore s t).freeCtr = s.freeCtr := by
  unfold notBefore; split <;> rfl
@[simp] theorem notBefore_void (s : State) (t : Nat) : (notBefore s t).void = s.void := by
  unfold notBefore; split <;> rfl
@[simp] theorem notBefore_pending (s : State) (t : Nat) : (notBefore s t).pending = s.pending := by
  unfold notBefore; split <;> rfl
@[simp] theorem recPut_regs (s : State) (r : SlotRec) : (recPut s r).regs = s.regs := by
  unfold recPut; split <;> rfl
@[simp] theorem recPut_staged (s : State) (r : SlotRec) : (recPut s r).staged = s.staged := by
  unfold recPut; split <;> rfl
@[simp] theorem recPut_latches (s : State) (r : SlotRec) : (recPut s r).latches = s.latches := by
  unfold recPut; split <;> rfl
@[simp] theorem recPut_sram (s : State) (r : SlotRec) : (recPut s r).sram = s.sram := by
  unfold recPut; split <;> rfl
@[simp] theorem recPut_dram (s : State) (r : SlotRec) : (recPut s r).dram = s.dram := by
  unfold recPut; split <;> rfl
@[simp] theorem recPut_mgmtSram (s : State) (r : SlotRec) : (recPut s r).mgmtSram = s.mgmtSram := by
  unfold recPut; split <;> rfl
@[simp] theorem recPut_l2 (s : State) (r : SlotRec) : (recPut s r).l2 = s.l2 := by
  unfold recPut; split <;> rfl
@[simp] theorem recPut_dmc (s : State) (r : SlotRec) : (recPut s r).dmc = s.dmc := by
  unfold recPut; split <;> rfl
@[simp] theorem recPut_err (s : State) (r : SlotRec) : (recPut s r).err = s.err := by
  unfold recPut; split <;> rfl
@[simp] theorem recPut_tiles (s : State) (r : SlotRec) : (recPut s r).tiles = s.tiles := by
  unfold recPut; split <;> rfl
@[simp] theorem recPut_pipes (s : State) (r : SlotRec) : (recPut s r).pipes = s.pipes := by
  unfold recPut; split <;> rfl
@[simp] theorem recPut_trv (s : State) (r : SlotRec) : (recPut s r).trv = s.trv := by
  unfold recPut; split <;> rfl
@[simp] theorem recPut_jq (s : State) (r : SlotRec) : (recPut s r).jq = s.jq := by
  unfold recPut; split <;> rfl
@[simp] theorem recPut_ringNext (s : State) (r : SlotRec) : (recPut s r).ringNext = s.ringNext := by
  unfold recPut; split <;> rfl
@[simp] theorem recPut_ringSince (s : State) (r : SlotRec) : (recPut s r).ringSince = s.ringSince := by
  unfold recPut; split <;> rfl
@[simp] theorem recPut_sre (s : State) (r : SlotRec) : (recPut s r).sre = s.sre := by
  unfold recPut; split <;> rfl
@[simp] theorem recPut_bil (s : State) (r : SlotRec) : (recPut s r).bil = s.bil := by
  unfold recPut; split <;> rfl
@[simp] theorem recPut_dfl (s : State) (r : SlotRec) : (recPut s r).dfl = s.dfl := by
  unfold recPut; split <;> rfl
@[simp] theorem recPut_cip (s : State) (r : SlotRec) : (recPut s r).cip = s.cip := by
  unfold recPut; split <;> rfl
@[simp] theorem recPut_dtm (s : State) (r : SlotRec) : (recPut s r).dtm = s.dtm := by
  unfold recPut; split <;> rfl
@[simp] theorem recPut_pkt (s : State) (r : SlotRec) : (recPut s r).pkt = s.pkt := by
  unfold recPut; split <;> rfl
@[simp] theorem recPut_fab (s : State) (r : SlotRec) : (recPut s r).fab = s.fab := by
  unfold recPut; split <;> rfl
@[simp] theorem recPut_pwr (s : State) (r : SlotRec) : (recPut s r).pwr = s.pwr := by
  unfold recPut; split <;> rfl
@[simp] theorem recPut_mono (s : State) (r : SlotRec) : (recPut s r).mono = s.mono := by
  unfold recPut; split <;> rfl
@[simp] theorem recPut_resp (s : State) (r : SlotRec) : (recPut s r).resp = s.resp := by
  unfold recPut; split <;> rfl
@[simp] theorem recPut_pulses (s : State) (r : SlotRec) : (recPut s r).pulses = s.pulses := by
  unfold recPut; split <;> rfl
@[simp] theorem recPut_freeCtr (s : State) (r : SlotRec) : (recPut s r).freeCtr = s.freeCtr := by
  unfold recPut; split <;> rfl
@[simp] theorem recPut_void (s : State) (r : SlotRec) : (recPut s r).void = s.void := by
  unfold recPut; split <;> rfl
@[simp] theorem recPut_pending (s : State) (r : SlotRec) : (recPut s r).pending = s.pending := by
  unfold recPut; split <;> rfl

end Sys2Proof.Machine
end

