-- ==== Sys2Proof/Laws/Ops.lean ====
section
/-! SUPPORT. What the shared operations can do: reading a register after writing it, the outcomes of a meaning, the ends of a register access, a tile after an update. -/

namespace Sys2Proof.Machine

/-! ### Registers -/

@[simp] theorem rd_wr_self (s : State) (a : Nat) (v : Word) : rd (wr s a v) a = v := SMap.get_put_self _ _ _ _

theorem rd_wr_other (s : State) (a b : Nat) (v : Word) (h : b ≠ a) : rd (wr s a v) b = rd s b :=
  SMap.get_put_other _ _ _ _ _ _ h

theorem rd_wr (s : State) (a b : Nat) (v : Word) : rd (wr s a v) b = if b = a then v else rd s b := by
  split
  · rename_i h
    rw [h, rd_wr_self]
  · rename_i h
    exact rd_wr_other s a b v h

/-- Only the register file decides what a register reads as. -/
theorem rd_congr {s t : State} (h : t.regs = s.regs) (a : Nat) : rd t a = rd s a := by
  unfold rd
  rw [h]

@[simp] theorem rd_stage (s : State) (b : Nat) (v : Word) (a : Nat) : rd (stage s b v) a = rd s a := rfl
@[simp] theorem rd_reply (s : State) (r : Resp) (a : Nat) : rd (reply s r) a = rd s a := rfl
@[simp] theorem rd_drawn (s : State) (a : Nat) : rd (drawn s) a = rd s a := rfl
@[simp] theorem rd_pulse (s : State) (l a : Nat) : rd (pulse s l) a = rd s a := rfl
@[simp] theorem rd_raise (s : State) (r : ErrIn) (a : Nat) : rd (raise s r) a = rd s a := rfl
@[simp] theorem rd_setTile (s : State) (n : Nat) (t : Tile) (a : Nat) : rd (setTile s n t) a = rd s a := rfl
@[simp] theorem rd_modTile (s : State) (n : Nat) (f : Tile → Tile) (a : Nat) : rd (modTile s n f) a = rd s a := rfl
@[simp] theorem rd_toTrv (s : State) (m : TrvMsg) (a : Nat) : rd (toTrv s m) a = rd s a := rfl
@[simp] theorem rd_sramPut (s : State) (o : Nat) (bs : List Byte) (a : Nat) : rd (sramPut s o bs) a = rd s a := rfl
@[simp] theorem rd_putBlock (s : State) (ch p : Nat) (bs : List Byte) (a : Nat) : rd (putBlock s ch p bs) a = rd s a := rfl
@[simp] theorem rd_notBefore (s : State) (t a : Nat) : rd (notBefore s t) a = rd s a := rd_congr (notBefore_regs s t) a

@[simp] theorem rd_pending (s : State) (q : List Instr) (a : Nat) : rd { s with pending := q } a = rd s a := rfl

theorem rd_orr_self (s : State) (a : Nat) (m : Word) : rd (orr s a m) a = rd s a ||| m := rd_wr_self _ _ _
theorem rd_addc_self (s : State) (a n : Nat) : rd (addc s a n) a = rd s a + BitVec.ofNat 32 n := rd_wr_self _ _ _
theorem rd_inc_self (s : State) (a : Nat) : rd (inc s a) a = rd s a + 1#32 := rd_wr_self _ _ _
theorem rd_wrf_self (s : State) (a hi lo x : Nat) : rd (wrf s a hi lo x) a = setFld (rd s a) hi lo x := rd_wr_self _ _ _
theorem rd_wrb_self (s : State) (a n : Nat) (b : Bool) : rd (wrb s a n b) a = setFld (rd s a) n n b.toNat := rd_wr_self _ _ _
theorem rd_orr_other (s : State) (a b : Nat) (m : Word) (h : b ≠ a) : rd (orr s a m) b = rd s b := rd_wr_other _ _ _ _ h
theorem rd_addc_other (s : State) (a n b : Nat) (h : b ≠ a) : rd (addc s a n) b = rd s b := rd_wr_other _ _ _ _ h
theorem rd_inc_other (s : State) (a b : Nat) (h : b ≠ a) : rd (inc s a) b = rd s b := rd_wr_other _ _ _ _ h
theorem rd_wrf_other (s : State) (a hi lo x b : Nat) (h : b ≠ a) : rd (wrf s a hi lo x) b = rd s b := rd_wr_other _ _ _ _ h
theorem rd_wrb_other (s : State) (a n : Nat) (v : Bool) (b : Nat) (h : b ≠ a) : rd (wrb s a n v) b = rd s b := rd_wr_other _ _ _ _ h

/-- The bit that was written. -/
theorem rdb_wrb_self (s : State) (a n : Nat) (b : Bool) (h : n < 32) : rdb (wrb s a n b) a n = b := by
  rw [rdb, rd_wrb_self, getLsbD_setFld_bit _ _ _ h]

/-- The other bits of the register. -/
theorem rdb_wrb_bit (s : State) (a n m : Nat) (b : Bool) (h : m ≠ n) : rdb (wrb s a n b) a m = rdb s a m := by
  rw [rdb, rd_wrb_self, getLsbD_setFld_other _ _ _ _ h, rdb]

/-- The field that was written. -/
theorem rdf_wrf_self (s : State) (a hi lo x : Nat) (h : hi < 32) : rdf (wrf s a hi lo x) a hi lo = x % 2 ^ (hi + 1 - lo) := by
  rw [rdf, rd_wrf_self, fld_setFld_self _ _ _ _ h]

/-! ### Tiles -/

@[simp] theorem tileAt_setTile_self (s : State) (n : Nat) (t : Tile) : tileAt (setTile s n t) n = t := SMap.get_put_self _ _ _ _
theorem tileAt_setTile_other (s : State) (n m : Nat) (t : Tile) (h : m ≠ n) : tileAt (setTile s n t) m = tileAt s m :=
  SMap.get_put_other _ _ _ _ _ _ h
@[simp] theorem tileAt_modTile_self (s : State) (n : Nat) (f : Tile → Tile) : tileAt (modTile s n f) n = f (tileAt s n) :=
  tileAt_setTile_self _ _ _
theorem tileAt_modTile_other (s : State) (n m : Nat) (f : Tile → Tile) (h : m ≠ n) : tileAt (modTile s n f) m = tileAt s m :=
  tileAt_setTile_other _ _ _ _ h

/-- Only the tiles decide what a tile is. -/
theorem tileAt_congr {s t : State} (h : t.tiles = s.tiles) (n : Nat) : tileAt t n = tileAt s n := by
  unfold tileAt
  rw [h]

@[simp] theorem tileAt_wr (s : State) (a : Nat) (v : Word) (n : Nat) : tileAt (wr s a v) n = tileAt s n := rfl
@[simp] theorem tileAt_wrf (s : State) (a hi lo x n : Nat) : tileAt (wrf s a hi lo x) n = tileAt s n := rfl
@[simp] theorem tileAt_wrb (s : State) (a k : Nat) (b : Bool) (n : Nat) : tileAt (wrb s a k b) n = tileAt s n := rfl
@[simp] theorem tileAt_orr (s : State) (a : Nat) (m : Word) (n : Nat) : tileAt (orr s a m) n = tileAt s n := rfl
@[simp] theorem tileAt_inc (s : State) (a n : Nat) : tileAt (inc s a) n = tileAt s n := rfl
@[simp] theorem tileAt_reply (s : State) (r : Resp) (n : Nat) : tileAt (reply s r) n = tileAt s n := rfl
@[simp] theorem tileAt_raise (s : State) (r : ErrIn) (n : Nat) : tileAt (raise s r) n = tileAt s n := rfl
@[simp] theorem tileAt_toTrv (s : State) (m : TrvMsg) (n : Nat) : tileAt (toTrv s m) n = tileAt s n := rfl

/-! ### Outcomes -/

/-- A meaning of an awake part within its limits answers its own effect. -/
theorem live_awake {s t : State} (hv : s.void = false) (ha : asleep s = false) : live s t = .next t := by
  simp [live, liveAny, hv, ha]

/-- A sleeping part is left as it is. -/
theorem live_asleep {s t : State} (hv : s.void = false) (ha : asleep s = true) : live s t = .next s := by
  simp [live, liveAny, hv, ha]

/-- A meaning of Benchmark or the always-on domain answers its own effect outside M0 and M1. -/
theorem liveBmk_next {s t : State} (hv : s.void = false) (hm : 1 < mode s) : liveBmk s t = .next t := by
  simp [liveBmk, liveAny, hv, Nat.not_le.mpr hm]

/-- After an excursion the meaning faults. -/
theorem live_void {s t : State} (hv : s.void = true) : live s t = .fault .excursion := by
  simp [live, liveAny, hv]

theorem liveAny_within {s t : State} (hv : s.void = false) : liveAny s t = .next t := by simp [liveAny, hv]

theorem liveAny_void {s t : State} (hv : s.void = true) : liveAny s t = .fault .excursion := by simp [liveAny, hv]

/-- What a meaning through `live` can answer. -/
theorem live_cases {s t u : State} (h : live s t = .next u) :
    s.void = false ∧ ((asleep s = true ∧ u = s) ∨ (asleep s = false ∧ u = t)) := by
  unfold live liveAny at h
  cases hv : s.void <;> cases ha : asleep s <;> simp [hv, ha] at h <;> simp [h]

/-! ### Register accesses (R458 to R465) -/

/-- An access of Benchmark is asked of no owner (R464); its register or window must have its clock (R67). -/
theorem swAccess_bmk (s : State) (a : Nat) (w : Bool) (f : State → State) (hc : clocked s a = true) : swAccess s .bmk a w f = f s := by
  simp [swAccess, hc]

/-- An access of Benchmark to the window of a gated tile pair is refused. -/
theorem swAccess_bmk_gated (s : State) (a : Nat) (w : Bool) (f : State → State) (hc : clocked s a = false) :
    swAccess s .bmk a w f = refuseAccess s (pageSrc a) .bmk a w false := by simp [swAccess, hc]

/-- An access that ownership and clock permit is performed. -/
theorem swAccess_pass (s : State) (c : Fin 4) (a : Nat) (w : Bool) (f : State → State) (hr : coreRuns s c.val = true)
    (hp : permitted s c.val a w = true) : swAccess s (.core c) a w f = f s := by simp [swAccess, hr, hp]

/-- A refused access is discarded, or answered with an error response, and logged (R459, R463). -/
theorem swAccess_denied (s : State) (c : Fin 4) (a : Nat) (w : Bool) (f : State → State) (hr : coreRuns s c.val = true)
    (hp : permitted s c.val a w = false) :
    swAccess s (.core c) a w f = refuseAccess s (pageSrc a) (.core c) a w false := by simp [swAccess, hr, hp]

/-- A core that does not run makes no access. -/
theorem swAccess_off (s : State) (c : Fin 4) (a : Nat) (w : Bool) (f : State → State) (hr : coreRuns s c.val = false) :
    swAccess s (.core c) a w f = s := by simp [swAccess, hr]

/-- Everything a register access can do. -/
theorem swAccess_cases (s : State) (who : Who) (a : Nat) (w : Bool) (f : State → State) :
    swAccess s who a w f = f s ∨ swAccess s who a w f = s ∨
      swAccess s who a w f = refuseAccess s (pageSrc a) who a w false := by
  cases who with
  | bmk =>
    cases hc : clocked s a with
    | true => exact .inl (swAccess_bmk s a w f hc)
    | false => exact .inr (.inr (swAccess_bmk_gated s a w f hc))
  | core c =>
    cases hr : coreRuns s c.val with
    | false => exact .inr (.inl (swAccess_off s c a w f hr))
    | true =>
      cases hp : permitted s c.val a w with
      | true => exact .inl (swAccess_pass s c a w f hr hp)
      | false => exact .inr (.inr (swAccess_denied s c a w f hr hp))

end Sys2Proof.Machine
end

