-- ==== Sys2Proof/Laws/Memory.lean ====
section
/-! SUPPORT. The laws of the memories: bytes read back as written, other bytes stay, and every memory operation keeps the canonical form. -/

namespace Sys2Proof.Machine

/-! ### Bytes -/

@[simp] theorem length_getBytes (m : List Host.Cell) (k n : Nat) : (getBytes m k n).length = n := by
  induction n generalizing k with
  | zero => rfl
  | succ n ih => simp [getBytes, ih]

/-- A write leaves every byte outside it alone. -/
theorem get_putBytes_out (bs : List Byte) : ∀ (m : List Host.Cell) (k a : Nat), a < k ∨ k + bs.length ≤ a →
    SMap.get 0 (putBytes m k bs) a = SMap.get 0 m a := by
  induction bs with
  | nil => intros; rfl
  | cons b t ih =>
    intro m k a h
    simp only [List.length_cons] at h
    unfold putBytes
    rw [ih _ _ _ (by omega), SMap.get_put_other _ _ _ _ _ _ (by omega)]

/-- A byte read where a write stored gives the byte written. -/
theorem get_putBytes_in (bs : List Byte) : ∀ (m : List Host.Cell) (k i : Nat), (h : i < bs.length) →
    SMap.get 0 (putBytes m k bs) (k + i) = bs[i] := by
  induction bs with
  | nil => intro _ _ i h; exact absurd h (by simp)
  | cons b t ih =>
    intro m k i h
    unfold putBytes
    cases i with
    | zero =>
      rw [get_putBytes_out _ _ _ _ (by omega)]
      simp
    | succ j =>
      have := ih (SMap.put 0 m k b) (k + 1) j (by simpa using h)
      rw [show k + (j + 1) = k + 1 + j by omega, this]
      simp

/-- Bytes read where they were written are the bytes written. -/
theorem getBytes_putBytes_same (bs : List Byte) (m : List Host.Cell) (k : Nat) : getBytes (putBytes m k bs) k bs.length = bs := by
  have key : ∀ n o, o + n = bs.length → getBytes (putBytes m k bs) (k + o) n = bs.drop o := by
    intro n
    induction n with
    | zero =>
      intro o h
      simp [getBytes, List.drop_of_length_le (show bs.length ≤ o by omega)]
    | succ n ih =>
      intro o h
      have ho : o < bs.length := by omega
      rw [getBytes, get_putBytes_in bs m k o ho, show k + o + 1 = k + (o + 1) by omega, ih (o + 1) (by omega)]
      exact (List.drop_eq_getElem_cons ho).symm
  simpa using key bs.length 0 (by simp)

/-- Bytes apart from a write are read as before it. -/
theorem getBytes_putBytes_apart (bs : List Byte) (m : List Host.Cell) (k j n : Nat) (h : j + n ≤ k ∨ k + bs.length ≤ j) :
    getBytes (putBytes m k bs) j n = getBytes m j n := by
  induction n generalizing j with
  | zero => rfl
  | succ n ih => rw [getBytes, getBytes, get_putBytes_out _ _ _ _ (by omega), ih _ (by omega)]

/-! ### The canonical form -/

theorem Memory.wf_nil : Memory.wf [] = true := rfl

/-- Writing bytes keeps the canonical form. -/
theorem Memory.wf_putBytes (bs : List Byte) : ∀ (m : List Host.Cell) (k : Nat), Memory.wf m = true →
    Memory.wf (putBytes m k bs) = true := by
  induction bs with
  | nil => intro m k h; exact h
  | cons b t ih =>
    intro m k h
    exact ih _ _ (SMap.wf_put (fun _ => 0) m k b h)

theorem reset_memOk : MemOk State.reset := ⟨rfl, rfl⟩

theorem memOk_congr {s t : State} (h : MemOk s) (hs : t.sram = s.sram) (hd : t.dram = s.dram) : MemOk t := by
  unfold MemOk
  rw [hs, hd]
  exact h

theorem memOk_sramPut {s : State} (h : MemOk s) (o : Nat) (bs : List Byte) : MemOk (sramPut s o bs) :=
  ⟨Memory.wf_putBytes bs _ _ h.1, h.2⟩

theorem memOk_putBlock {s : State} (h : MemOk s) (ch p : Nat) (bs : List Byte) : MemOk (putBlock s ch p bs) :=
  ⟨h.1, Memory.wf_putBytes bs _ _ h.2⟩

end Sys2Proof.Machine
end

