-- ==== Sys2Proof/Laws/MemPort.lean ====
section
/-! SUPPORT. What the memory accesses of the engines can touch: registers of the DRAM controller and of rings, DRAM, shared SRAM, the DRAM controller, error records, the stamps of rings, the last answer and the draws; and they keep the canonical form of both memories. One lemma per operation says both. -/

namespace Sys2Proof.Machine

/-- The registers an engine's memory access may change: status, error and counting registers of the DRAM controller, and the CFG, PROD and interrupt registers of rings. -/
def memRegs : List Nat :=
  [Reg.DMC_STAT, Reg.DMC_ECC_CORR, Reg.DMC_ECC_UNC, Reg.DMC_INT_STAT, Reg.DMC_ERR_LOC_LO, Reg.DMC_ERR_LOC_HI, Reg.DMC_ERR_INFO,
   Reg.DMC_RETRAIN_COUNT, Reg.DMC_FREQ, Reg.DMC_FREQ_COUNT] ++ (List.range 16).map Reg.DMC_PORT_LATE ++
  (allRings.map (fun r => [(ringDesc r).cfg, (ringDesc r).prod, (ringDesc r).int])).flatten

/-- `t` differs from `s` at most where an engine's memory access may. -/
def MemOnly (s t : State) : Prop :=
  { t with regs := s.regs, dram := s.dram, sram := s.sram, dmc := s.dmc, err := s.err, ringSince := s.ringSince, resp := s.resp,
           freeCtr := s.freeCtr } = s ∧ RegsBut s t memRegs

/-- What a memory access does: nothing elsewhere, and the memories keep their canonical form. -/
def MemEff (s t : State) : Prop := MemOnly s t ∧ (MemOk s → MemOk t)

theorem MemEff.refl (s : State) : MemEff s s := ⟨⟨rfl, fun _ _ => rfl⟩, id⟩

theorem MemOnly.trans {s t u : State} (h : MemOnly s t) (k : MemOnly t u) : MemOnly s u := by
  obtain ⟨h, h'⟩ := h
  obtain ⟨k, k'⟩ := k
  refine ⟨?_, fun a ha => (k' a ha).trans (h' a ha)⟩
  clear h' k'
  cases s; cases t; cases u
  simp_all

theorem MemEff.trans {s t u : State} (h : MemEff s t) (k : MemEff t u) : MemEff s u := ⟨h.1.trans k.1, k.2 ∘ h.2⟩

theorem MemEff.ite {s t u : State} {p : Prop} [Decidable p] (h : p → MemEff s t) (k : ¬ p → MemEff s u) : MemEff s (if p then t else u) := by
  split
  · exact h ‹_›
  · exact k ‹_›

theorem memEff_foldS {α : Type} (f : State → α → State) (l : List α) (h : ∀ s, ∀ a ∈ l, MemEff s (f s a)) (s : State) : MemEff s (foldS f l s) := by
  induction l generalizing s with
  | nil => exact MemEff.refl s
  | cons a l ih => exact (h s a (by simp)).trans (ih (fun s b hb => h s b (by simp [hb])) _)

theorem memEff_wr (s : State) (a : Nat) (v : Word) (ha : a ∈ memRegs) : MemEff s (wr s a v) :=
  ⟨⟨rfl, fun _ hb => rd_wr_other _ _ _ _ (fun h => hb (h ▸ ha))⟩, id⟩
theorem memEff_wrb (s : State) (a n : Nat) (b : Bool) (ha : a ∈ memRegs) : MemEff s (wrb s a n b) := memEff_wr _ _ _ ha
theorem memEff_wrf (s : State) (a hi lo x : Nat) (ha : a ∈ memRegs) : MemEff s (wrf s a hi lo x) := memEff_wr _ _ _ ha
theorem memEff_orr (s : State) (a : Nat) (v : Word) (ha : a ∈ memRegs) : MemEff s (orr s a v) := memEff_wr _ _ _ ha
theorem memEff_inc (s : State) (a : Nat) (ha : a ∈ memRegs) : MemEff s (inc s a) := memEff_wr _ _ _ ha
theorem memEff_wr2 (s : State) (a b v : Nat) (ha : a ∈ memRegs) (hb : b ∈ memRegs) : MemEff s (wr2 s a b v) :=
  (memEff_wr _ _ _ ha).trans (memEff_wr _ _ _ hb)
theorem memEff_raise (s : State) (r : ErrIn) : MemEff s (raise s r) := ⟨⟨rfl, fun _ _ => rfl⟩, id⟩
theorem memEff_reply (s : State) (r : Resp) : MemEff s (reply s r) := ⟨⟨rfl, fun _ _ => rfl⟩, id⟩
theorem memEff_drawn (s : State) : MemEff s (drawn s) := ⟨⟨rfl, fun _ _ => rfl⟩, id⟩
theorem memEff_putBlock (s : State) (c p : Nat) (bs : List Byte) : MemEff s (putBlock s c p bs) :=
  ⟨⟨rfl, fun _ _ => rfl⟩, fun h => ⟨h.1, Memory.wf_putBytes bs _ _ h.2⟩⟩
theorem memEff_setDmc (s : State) (d : Dmc) : MemEff s { s with dmc := d } := ⟨⟨rfl, fun _ _ => rfl⟩, id⟩
theorem memEff_setChkCache (s : State) (c : Nat) (x : List ChkBlock) : MemEff s (setChkCache s c x) := memEff_setDmc _ _
theorem memEff_setBank (s : State) (i : Nat) (b : Bank) : MemEff s (setBank s i b) := memEff_setDmc _ _
theorem memEff_setDmcQueue (s : State) (c : Nat) (q : List DmcReq) : MemEff s (setDmcQueue s c q) := memEff_setDmc _ _
theorem memEff_setDmcHeld (s : State) (p : Nat) (q : List PortReq) : MemEff s (setDmcHeld s p q) := memEff_setDmc _ _
theorem memEff_sramPut (s : State) (o : Nat) (bs : List Byte) : MemEff s (sramPut s o bs) :=
  ⟨⟨rfl, fun _ _ => rfl⟩, fun h => memOk_sramPut h o bs⟩

/-- The registers of the DRAM controller among them. -/
theorem memRegs_dmc {a : Nat} (h : a ∈ [Reg.DMC_STAT, Reg.DMC_ECC_CORR, Reg.DMC_ECC_UNC, Reg.DMC_INT_STAT, Reg.DMC_ERR_LOC_LO, Reg.DMC_ERR_LOC_HI,
    Reg.DMC_ERR_INFO, Reg.DMC_RETRAIN_COUNT, Reg.DMC_FREQ, Reg.DMC_FREQ_COUNT]) : a ∈ memRegs :=
  List.mem_append_left _ (List.mem_append_left _ h)

/-- The lateness counter of a port is among them. -/
theorem memRegs_late {p : Nat} (h : p < 16) : Reg.DMC_PORT_LATE p ∈ memRegs :=
  List.mem_append_left _ (List.mem_append_right _ (List.mem_map.2 ⟨p, List.mem_range.2 h, rfl⟩))

/-- The registers of a ring are among them. -/
theorem memRegs_ring (r : RingRef) : (ringDesc r).cfg ∈ memRegs ∧ (ringDesc r).prod ∈ memRegs ∧ (ringDesc r).int ∈ memRegs := by
  have h : r ∈ allRings := by cases r <;> simp [allRings]
  refine ⟨?_, ?_, ?_⟩ <;>
  exact List.mem_append_right _ (List.mem_flatten.2 ⟨_, List.mem_map.2 ⟨r, h, rfl⟩, by simp⟩)

/-! ### Queues and banks -/

theorem memEff_answerReq (s : State) (p c : Nat) (a : Resp) : MemEff s (answerReq s p c a) := (memEff_setDmc s _).trans (memEff_reply _ _)

theorem memEff_activate (s : State) (i row : Nat) : MemEff s (activate s i row) :=
  ((memEff_setBank _ _ _).trans (memEff_drawn _)).trans (memEff_setDmc _ _)

theorem memEff_completeReq (s : State) (r : DmcReq) : MemEff s (completeReq s r) := by
  unfold completeReq
  simp only []
  have h : MemEff s (if decide (r.port < 16) && decide (target2 s r.port < reqAge s r * 2) then
      orr (inc s (Reg.DMC_PORT_LATE r.port)) Reg.DMC_INT_STAT 2 else s) := by
    refine MemEff.ite (fun hl => ?_) (fun _ => MemEff.refl s)
    have hp : r.port < 16 := by simp at hl; exact hl.1
    exact (memEff_inc _ _ (memRegs_late hp)).trans (memEff_orr _ _ _ (memRegs_dmc (by simp)))
  split
  · exact h.trans (memEff_answerReq _ _ _ _)
  · exact h

theorem memEff_columnAccess (s : State) (ch i : Nat) (r : DmcReq) : MemEff s (columnAccess s ch i r) := by
  have h : MemEff s (completeReq (setDmcQueue s ch ((dmcQueue s ch).eraseIdx i)) r) :=
    (memEff_setDmcQueue _ _ _).trans (memEff_completeReq _ _)
  unfold columnAccess
  simp only []
  split
  · exact h.trans (memEff_setBank _ _ _)
  · split
    · exact h.trans (memEff_setBank _ _ _)
    · exact h.trans (memEff_setBank _ _ _)

theorem memEff_issueCommand (s : State) (ch i : Nat) (r : DmcReq) : MemEff s (issueCommand s ch i r) := by
  unfold issueCommand
  simp only []
  split
  · exact memEff_activate _ _ _
  · split
    · exact memEff_columnAccess _ _ _ _
    · exact memEff_setBank _ _ _

theorem memEff_runChannel (ch : Nat) (stop : List DmcReq → Bool) (n : Nat) (s : State) : MemEff s (runChannel ch stop n s) := by
  induction n generalizing s with
  | zero => exact MemEff.refl s
  | succ n ih =>
    unfold runChannel
    split
    · exact MemEff.refl s
    · split
      · exact (memEff_issueCommand _ _ _ _).trans (ih _)
      · exact MemEff.refl s

theorem memEff_enter (s : State) (r : DmcReq) : MemEff s (enter s r) :=
  ((memEff_runChannel _ _ _ s).trans (memEff_setBank _ _ _)).trans (memEff_setDmcQueue _ _ _)

theorem memEff_enterWrite (s : State) (rq : Requester) (ch l : Nat) : MemEff s (enterWrite s rq ch l) := memEff_enter _ _

theorem memEff_serveRead (s : State) (rq : Requester) (ch l : Nat) : MemEff s (serveRead s rq ch l) :=
  (memEff_enter _ _).trans (memEff_runChannel _ _ _ _)

theorem memEff_completeQueues (s : State) : MemEff s (completeQueues s) :=
  memEff_foldS _ _ (fun s ch _ => (memEff_setDmcQueue s ch []).trans (memEff_foldS _ _ (fun _ _ _ => memEff_completeReq _ _) _)) s

/-! ### Check blocks -/

theorem memEff_chkWriteBack (ch : Nat) (s : State) (e : ChkBlock) : MemEff s (chkWriteBack ch s e) :=
  MemEff.ite (fun _ => memEff_putBlock _ _ _ _) (fun _ => MemEff.refl _)

theorem memEff_chkEvict (rq : Requester) (ch : Nat) (s : State) (e : ChkBlock) : MemEff s (chkEvict rq ch s e) :=
  MemEff.ite (fun _ => (memEff_chkWriteBack _ _ _).trans (memEff_enterWrite _ _ _ _)) (fun _ => MemEff.refl _)

theorem memEff_chkFetch (s : State) (rq : Requester) (ch b : Nat) : MemEff s (chkFetch s rq ch b).2 := by
  unfold chkFetch
  split
  · exact memEff_setChkCache _ _ _
  · have h := memEff_serveRead s rq ch (b * 64)
    generalize serveRead s rq ch (b * 64) = u at h
    simp only []
    split
    · simp only []
      refine MemEff.trans ?_ (memEff_setChkCache _ _ _)
      split
      · exact h.trans (memEff_chkEvict _ _ _ _)
      · exact h
    · exact h.trans (memEff_setChkCache _ _ _)

theorem memEff_chkByte (s : State) (rq : Requester) (ch l : Nat) : MemEff s (chkByte s rq ch l).2 := memEff_chkFetch _ _ _ _

theorem memEff_setChkByte (s : State) (rq : Requester) (ch l : Nat) (b : Byte) : MemEff s (setChkByte s rq ch l b) :=
  (memEff_chkFetch _ _ _ _).trans (memEff_setChkCache _ _ _)

theorem memEff_chkFlushAll (s : State) : MemEff s (chkFlushAll s) :=
  memEff_foldS _ _ (fun _ _ _ => (memEff_foldS _ _ (fun _ _ _ => memEff_chkWriteBack _ _ _) _).trans (memEff_setChkCache _ _ _)) _

/-! ### Freeze and errors -/

theorem memEff_refusePort (s : State) (p : Nat) : MemEff s (refusePort s p) :=
  (memEff_setDmcHeld _ _ _).trans (memEff_foldS _ _ (fun _ _ _ => memEff_answerReq _ _ _ _) _)

theorem memEff_dmcFreeze (s : State) : MemEff s (dmcFreeze s) := by
  have h : MemEff s (dmcReady (wrb s Reg.DMC_STAT 4 true)) :=
    (memEff_wrb _ _ _ _ (memRegs_dmc (by simp))).trans (memEff_wrb _ _ _ _ (memRegs_dmc (by simp)))
  unfold dmcFreeze
  simp only []
  generalize dmcReady (wrb s Reg.DMC_STAT 4 true) = u at h
  exact ((h.trans (memEff_completeQueues u)).trans (memEff_chkFlushAll _)).trans (memEff_foldS _ _ (fun _ _ _ => memEff_refusePort _ _) _)

theorem memEff_dmcFreezeWith (s : State) (a b : Nat) : MemEff s (dmcFreezeWith s a b) := by
  unfold dmcFreezeWith
  refine MemEff.ite (fun _ => MemEff.refl _) (fun _ => MemEff.trans ?_ (memEff_dmcFreeze _))
  exact (memEff_wr2 _ _ _ _ (memRegs_dmc (by simp)) (memRegs_dmc (by simp))).trans (memEff_wr _ _ _ (memRegs_dmc (by simp)))

theorem memEff_fixCodeword (s : State) (rq : Requester) (ch l w bit : Nat) : MemEff s (fixCodeword s rq ch l w bit) := by
  unfold fixCodeword
  refine MemEff.trans ?_ (memEff_raise _ _)
  refine MemEff.trans ?_ (memEff_orr _ _ _ (memRegs_dmc (by simp)))
  refine MemEff.trans ?_ (memEff_inc _ _ (memRegs_dmc (by simp)))
  refine ((memEff_putBlock s ch l (leBytes 8 w)).trans (memEff_enterWrite _ rq ch l)).trans ?_
  exact MemEff.ite (fun _ => memEff_setChkByte _ _ _ _ _) (fun _ => MemEff.refl _)

theorem memEff_checkWord (s : State) (rq : Requester) (ch l : Nat) : MemEff s (checkWord s rq ch l).2.2 := by
  unfold checkWord
  simp only []
  split
  · exact memEff_chkByte _ _ _ _
  · exact (memEff_chkByte _ _ _ _).trans (memEff_fixCodeword _ _ _ _ _ _)
  · exact memEff_chkByte _ _ _ _

theorem memEff_checkWords (rq : Requester) (n : Nat) (s : State) (ch l : Nat) : MemEff s (checkWords rq n s ch l).2.2 := by
  induction n generalizing s l with
  | zero => exact MemEff.refl _
  | succ n ih => exact (memEff_checkWord s rq ch l).trans (ih _ _)

theorem memEff_uncorrectable (s : State) (rq : Requester) (c l : Nat) : MemEff s (uncorrectable s rq c l) :=
  (((memEff_inc _ _ (memRegs_dmc (by simp))).trans (memEff_orr _ _ _ (memRegs_dmc (by simp)))).trans (memEff_raise _ _)).trans
    (memEff_dmcFreezeWith _ _ _)

/-! ### Blocks -/

theorem memEff_readBlockAt (s : State) (rq : Requester) (ch l : Nat) : MemEff s (readBlockAt s rq ch l).2 := by
  unfold readBlockAt
  split
  · have h := memEff_checkWords rq 8 s ch l
    generalize checkWords rq 8 s ch l = x at h
    obtain ⟨d, b, u⟩ := x
    cases b with
    | none => exact h
    | some b => exact h.trans (memEff_uncorrectable _ _ _ _)
  · generalize getBytes s.dram (cellOf s ch l) 64 = x
    exact MemEff.refl _

theorem memEff_writeWords (rq : Requester) (ch : Nat) (n l : Nat) (bs : List Byte) (s : State) : MemEff s (writeWords rq ch l n bs s) := by
  induction n generalizing l bs s with
  | zero => exact MemEff.refl _
  | succ n ih => exact ((memEff_putBlock _ _ _ _).trans (memEff_setChkByte _ _ _ _ _)).trans (ih _ _ _)

theorem memEff_portRefuse (s : State) (c : PortCheck) (p a : Nat) (w : Bool) : MemEff s (portRefuse s c p a w) := by
  unfold portRefuse
  split
  · exact memEff_raise _ _
  · exact MemEff.refl _

theorem memEff_blockData (s : State) (rq : Requester) (b : Nat) : MemEff s (blockData s rq b).2 := by
  unfold blockData
  split
  · exact memEff_readBlockAt _ _ _ _
  · exact memEff_portRefuse _ _ _ _ _

theorem memEff_dramReadBlock (s : State) (rq : Requester) (b : Nat) : MemEff s (dramReadBlock s rq b).2 := by
  unfold dramReadBlock
  have h := memEff_blockData s rq b
  generalize blockData s rq b = x at h
  rcases x with ⟨_ | d, u⟩
  · exact h
  · exact h.trans (memEff_serveRead _ _ _ _)

theorem memEff_dramWriteBlock (s : State) (rq : Requester) (a : Nat) (bs : List Byte) : MemEff s (dramWriteBlock s rq a bs).2 := by
  unfold dramWriteBlock
  split
  · simp only []
    split
    · exact (memEff_writeWords _ _ _ _ _ _).trans (memEff_enterWrite _ _ _ _)
    · have h := (memEff_serveRead s rq (chanOf s a) (localOf s a / 64 * 64)).trans
        (memEff_readBlockAt (serveRead s rq (chanOf s a) (localOf s a / 64 * 64)) rq (chanOf s a) (localOf s a / 64 * 64))
      generalize readBlockAt (serveRead s rq (chanOf s a) (localOf s a / 64 * 64)) rq (chanOf s a) (localOf s a / 64 * 64) = x at h
      rcases x with ⟨_ | d, u⟩
      · exact h
      · exact (h.trans (memEff_writeWords rq (chanOf s a) 8 (localOf s a / 64 * 64) (patch d (localOf s a % 64) bs) u)).trans (memEff_enterWrite _ rq (chanOf s a) (localOf s a / 64 * 64))
  · exact memEff_portRefuse _ _ _ _ _

/-! ### A port's turn, and the end of a frequency change -/

theorem memEff_enterQueue (s : State) (r : PortReq) : MemEff s (enterQueue s r) := by
  unfold enterQueue
  split
  · exact (memEff_dramWriteBlock s r.rq r.addr r.data).trans (memEff_answerReq _ _ _ _)
  · have h := memEff_blockData s r.rq (r.addr / 64)
    generalize blockData s r.rq (r.addr / 64) = x at h
    rcases x with ⟨_ | d, u⟩
    · exact h.trans (memEff_answerReq _ _ _ _)
    · exact (h.trans (memEff_enter _ _)).trans (memEff_reply _ _)

theorem memEff_awaitFreq (s : State) : MemEff s (awaitFreq s) := by
  unfold awaitFreq
  split
  · unfold finishFreq
    refine MemEff.trans ?_ (memEff_orr _ _ _ (memRegs_dmc (by simp)))
    refine MemEff.trans ?_ (memEff_inc _ _ (memRegs_dmc (by simp)))
    refine MemEff.trans ?_ (memEff_wrb _ _ _ _ (memRegs_dmc (by simp)))
    refine MemEff.trans ?_ (memEff_foldS _ _ (fun s ch _ => ?_) _)
    · exact ((memEff_wrf s _ _ _ _ (memRegs_dmc (by simp))).trans (memEff_wrb _ _ _ _ (memRegs_dmc (by simp)))).trans (memEff_setDmc _ _)
    · simp only [List.getElem?_nil, moveDelay]
      exact (memEff_inc s _ (memRegs_dmc (by simp))).trans (memEff_setDmc _ _)
  · exact MemEff.refl _

theorem memEff_portTurn (s : State) (rq : Requester) : MemEff s (portTurn s rq) :=
  ((memEff_awaitFreq s).trans (memEff_setDmcHeld _ _ _)).trans (memEff_foldS _ _ (fun _ _ _ => memEff_enterQueue _ _) _)

/-! ### Accesses of engines -/

theorem memEff_readBlocks (rq : Requester) (n b : Nat) (s : State) : MemEff s (readBlocks rq n b s).2 := by
  induction n generalizing b s with
  | zero => exact MemEff.refl _
  | succ n ih =>
    unfold readBlocks
    have h := memEff_dramReadBlock s rq b
    generalize dramReadBlock s rq b = x at h
    rcases x with ⟨_ | d, u⟩
    · exact h
    · have k := ih (b + 1) u
      simp only []
      generalize readBlocks rq n (b + 1) u = y at k
      rcases y with ⟨_ | d, v⟩
      · exact h.trans k
      · exact h.trans k

theorem memEff_writeBlocks (rq : Requester) (n a : Nat) (bs : List Byte) (s : State) : MemEff s (writeBlocks rq n a bs s).2 := by
  induction n generalizing a bs s with
  | zero => exact MemEff.refl _
  | succ n ih =>
    unfold writeBlocks
    simp only []
    have h := memEff_dramWriteBlock s rq a (bs.take (64 - a % 64))
    generalize dramWriteBlock s rq a (bs.take (64 - a % 64)) = r at h
    rcases r with ⟨_ | _, u⟩
    · exact h
    · refine h.trans ?_
      simp only []
      split
      · exact MemEff.refl _
      · exact ih _ _ _

theorem memEff_ringNotice (s : State) (r : RingRef) : MemEff s (ringNotice s r) := by
  have h : MemEff s (if (rd s (ringDesc r).prod).toNat = ringNext s r then ringStamp s r else s) :=
    MemEff.ite (fun _ => ⟨⟨rfl, fun _ _ => rfl⟩, id⟩) (fun _ => MemEff.refl _)
  obtain ⟨hc, hp, hi⟩ := memRegs_ring r
  unfold ringNotice
  simp only []
  refine h.trans ?_
  generalize (if (rd s (ringDesc r).prod).toNat = ringNext s r then ringStamp s r else s) = u
  split
  · exact ((memEff_wr _ _ _ hp).trans (memEff_wrb _ _ _ _ hc)).trans (memEff_orr _ _ _ hi)
  · exact memEff_wr _ _ _ hp

theorem memEff_sramWrite (s : State) (o : Nat) (bs : List Byte) : MemEff s (sramWrite s o bs) :=
  (memEff_sramPut s o bs).trans (memEff_foldS _ _ (fun _ _ _ => MemEff.ite (fun _ => memEff_ringNotice _ _) (fun _ => MemEff.refl _)) _)

/-- A read of an engine. -/
theorem memEff_memRead (s : State) (rq : Requester) (a n : Nat) : MemEff s (memRead s rq a n).2 := by
  unfold memRead
  split
  · exact MemEff.refl _
  · split
    · have h := (memEff_portTurn s rq).trans (memEff_readBlocks rq ((a + n - 1) / 64 + 1 - a / 64) (a / 64) _)
      generalize readBlocks rq ((a + n - 1) / 64 + 1 - a / 64) (a / 64) (portTurn s rq) = x at h
      rcases x with ⟨_ | d, u⟩
      · exact h
      · exact h
    · split
      · exact MemEff.refl _
      · exact memEff_raise _ _

/-- A write of an engine. -/
theorem memEff_memWrite (s : State) (rq : Requester) (a : Nat) (bs : List Byte) : MemEff s (memWrite s rq a bs).2 := by
  unfold memWrite
  split
  · exact MemEff.refl _
  · split
    · exact (memEff_portTurn s rq).trans (memEff_writeBlocks _ _ _ _ _)
    · split
      · exact memEff_sramWrite s (a - sramBase) bs
      · exact memEff_raise _ _

theorem memEff_memWrite_ (s : State) (rq : Requester) (a : Nat) (bs : List Byte) : MemEff s (memWrite_ s rq a bs) := memEff_memWrite _ _ _ _

/-- Several writes in a row. -/
theorem memEff_memWrites (rq : Requester) (ws : List (Nat × List Byte)) (s : State) : MemEff s (memWrites rq ws s).2 := by
  induction ws generalizing s with
  | nil => exact MemEff.refl _
  | cons w ws ih =>
    obtain ⟨a, b⟩ := w
    unfold memWrites
    have h := memEff_memWrite s rq a b
    generalize memWrite s rq a b = x at h
    rcases x with ⟨_ | _, u⟩
    · exact h
    · exact h.trans (ih _)

/-- The blocks that an engine's access leaves alone, one by one. -/
theorem MemOnly.blocks {s t : State} (h : MemOnly s t) :
    t.tiles = s.tiles ∧ t.pipes = s.pipes ∧ t.trv = s.trv ∧ t.jq = s.jq ∧ t.sre = s.sre ∧ t.bil = s.bil ∧ t.dfl = s.dfl ∧ t.cip = s.cip ∧
    t.dtm = s.dtm ∧ t.bmk = s.bmk ∧ t.pkt = s.pkt ∧ t.fab = s.fab ∧ t.pwr = s.pwr ∧ t.mono = s.mono ∧ t.ringNext = s.ringNext ∧
    t.pulses = s.pulses ∧ t.void = s.void ∧ t.pending = s.pending := by
  obtain ⟨h, -⟩ := h
  cases s; cases t
  simp_all

end Sys2Proof.Machine
end

