-- ==== Sys2Proof/Laws/Tile.lean ====
section
/-! SUPPORT. What issue can do: a bundle of one instruction that meets no fault and waits for nothing issues; an instruction on registers alone does exactly its effect and the PC's advance. -/

namespace Sys2Proof.Machine

/-- A tile that can issue waits for nothing. -/
theorem canIssue_wait {s : State} {n : Nat} (h : canIssue s n = true) : (tileAt s n).wait = none := by
  unfold canIssue at h
  cases hw : (tileAt s n).wait with
  | none => rfl
  | some w => simp [hw] at h

theorem issueRow_off {s : State} {n : Nat} {op : SlotOp} {raw : Bundle} (h : canIssue s n = false) :
    issueRow s n op raw = s := by simp [issueRow, h]

/-! ### The pipeline -/

theorem tileAt_modPipe (s : State) (n m : Nat) (f : Pipe → Pipe) : tileAt (modPipe s n f) m = tileAt s m := rfl

theorem pipeAt_modPipe_other (s : State) (n m : Nat) (f : Pipe → Pipe) (h : m ≠ n) : pipeAt (modPipe s n f) m = pipeAt s m := by
  simp [pipeAt, modPipe, SMap.get_put_other _ _ _ _ _ _ h]

theorem pipeAt_modPipe_self (s : State) (n : Nat) (f : Pipe → Pipe) : pipeAt (modPipe s n f) n = f (pipeAt s n) := by
  simp [pipeAt, modPipe]

@[simp] theorem rd_modPipe (s : State) (n a : Nat) (f : Pipe → Pipe) : rd (modPipe s n f) a = rd s a := rd_congr rfl a

/-- `t` differs from `s` in the pipeline of tile `n` alone. -/
def PipeOnly (s t : State) (n : Nat) : Prop := { t with pipes := s.pipes } = s ∧ ∀ m, m ≠ n → pipeAt t m = pipeAt s m

theorem PipeOnly.tileAt {s t : State} {n : Nat} (h : PipeOnly s t n) (m : Nat) : tileAt t m = tileAt s m := by
  have := congrArg State.tiles h.1
  simp only [Machine.tileAt]
  exact congrArg (fun q => SMap.get Tile.reset q m) this

theorem modPipe_only (s : State) (n : Nat) (f : Pipe → Pipe) : PipeOnly s (modPipe s n f) n :=
  ⟨rfl, fun m h => pipeAt_modPipe_other s n m f h⟩

theorem PipeOnly.modPipe {s t : State} {n : Nat} (h : PipeOnly s t n) (f : Pipe → Pipe) : PipeOnly s (modPipe t n f) n :=
  ⟨h.1, fun m hm => (pipeAt_modPipe_other t n m f hm).trans (h.2 m hm)⟩

/-- Whatever the pipeline does after a bundle, it does to the pipeline alone. -/
theorem pipeAfter_only (s : State) (n : Nat) (ops : List SlotOp) (lit : Bool) (old : Tile) :
    PipeOnly s (pipeAfter s n ops lit old) n := by
  have (c : Bool) (k : Nat) (d : Demand) :
      PipeOnly s (if c then Machine.modPipe s n (pipeIssue d k) else Machine.modPipe (Machine.modPipe s n (pipeIssue d k)) n pipeDrain) n := by
    cases c
    · exact (modPipe_only _ _ _).modPipe _
    · exact modPipe_only _ _ _
  exact this _ _ _

/-- The state in which a bundle of one instruction issues: its pipeline has let it through. -/
def entered (s : State) (n : Nat) (op : SlotOp) : State := modPipe s n (pipeEnter (demandOf (tileAt s n) [op] false))

@[simp] theorem entered_tileAt (s : State) (n m : Nat) (op : SlotOp) : tileAt (entered s n op) m = tileAt s m := rfl
@[simp] theorem rd_entered (s : State) (n a : Nat) (op : SlotOp) : rd (entered s n op) a = rd s a := rd_congr rfl a

theorem enterPipe_one {s : State} {n : Nat} {op : SlotOp} (h : canIssue s n = true) : enterPipe s n [op] false = entered s n op := by
  simp [enterPipe, canIssue_wait h, entered]

/-- A bundle of one instruction without a fault and without a wait issues. -/
theorem issueRow_go {s : State} {n : Nat} {op : SlotOp} {raw : Bundle} (h : canIssue s n = true)
    (hf : issueFault (entered s n op) n (tileAt s n) [op] false = none) (hb : op.block (tileAt s n) = none) :
    issueRow s n op raw = complete (entered s n op) n [op] none none := by
  simp [issueRow, h, issueOps, enterPipe_one, issueNow, hf, hb]

/-- A bundle of one instruction that faults at issue. -/
theorem issueRow_fault {s : State} {n : Nat} {op : SlotOp} {raw : Bundle} {c sl i : Nat} (h : canIssue s n = true)
    (hf : issueFault (entered s n op) n (tileAt s n) [op] false = some (c, sl, i)) :
    issueRow s n op raw = tileFault (entered s n op) n (tileAt s n).pc.toNat c sl i (tileLoc n 0 0 0) := by
  simp [issueRow, h, issueOps, enterPipe_one, issueNow, hf]

/-- The slots of a bundle of one instruction: its effect. -/
theorem runSlots_one (s : State) (n : Nat) (op : SlotOp) (ans : Option Answer) (old : Tile) :
    runSlots s n [op] ans old = op.eff n ans old s := by
  unfold runSlots
  cases hl : op.load <;> cases hs : op.slot == slotA <;> simp [hl, hs, bne, foldS]

/-- A bundle of one instruction with its effect done. -/
theorem complete_one {s : State} {n : Nat} (op : SlotOp) (hw : (tileAt s n).wait = none) :
    complete s n [op] none none =
      pipeAfter (advancePc (op.eff n none (tileAt s n) (clearWait s n)) n [op] (tileAt s n)) n [op] false (tileAt s n) := by
  unfold complete
  simp [runSlots_one, hw, settleAfter]

/-- No register stands twice in a list without repeats. -/
theorem clashes_one {op : SlotOp} (hd : op.writes.Nodup) : clashes [op] false op = false := by
  unfold clashes
  simp only [List.any_eq_false, decide_eq_true_eq, not_lt]
  intro r _
  cases hl : op.legal with
  | true => simpa [hl] using List.nodup_iff_count_le_one.mp hd r
  | false => simp [hl]

/-- A legal instruction with distinct destinations, without a fault of its own, that may stand at the end of a repeat's body. -/
theorem issueFault_one {s : State} {n : Nat} {t : Tile} {op : SlotOp} (hl : op.legal = true) (hd : op.writes.Nodup)
    (hy : op.dyn s n t = none) (hc : op.ctl = true → endsLoop t t.pc.toNat = false) :
    issueFault s n t [op] false = none := by
  have hcl := clashes_one hd
  unfold issueFault
  have h2 : op.ctl = true → endsLoop t t.pc.toNat = true → op.slot = 0 := fun a b => by simp [hc a] at b
  simpa [slotsWhere, hl, hcl, hy] using h2

theorem loopNext_late (pc : Nat) (l : List Nat) : ∀ t : Tile, (loopNext pc l t).late = t.late := by
  induction l with
  | nil => intro t; rfl
  | cons k ks ih =>
    intro t
    unfold loopNext
    simp only []
    split
    · split
      · rfl
      · rw [ih]
        rfl
    · exact ih t

@[simp] theorem advanced_late (o t : Tile) : (advanced o t).late = t.late := by
  unfold advanced
  split
  · exact loopNext_late _ _ t
  · rfl

/-- Outside the end bundle of an active repeat the PC goes to the next bundle (R36). -/
theorem advanced_plain {o : Tile} (h : endsLoop o o.pc.toNat = false) (t : Tile) :
    advanced o t = { t with pc := BitVec.ofNat 11 (o.pc.toNat + 1) } := by simp [advanced, h]

/-- An instruction that issues and does not branch: the whole next state. -/
theorem issueRow_next {s : State} {n : Nat} {op : SlotOp} {raw : Bundle} (h : canIssue s n = true)
    (hl : op.legal = true) (hd : op.writes.Nodup) (hc : op.ctl = true → endsLoop (tileAt s n) (tileAt s n).pc.toNat = false)
    (hy : op.dyn (entered s n op) n (tileAt s n) = none)
    (hb : op.block (tileAt s n) = none) (hn : op.next (tileAt s n) = none) :
    PipeOnly (modTile (op.eff n none (tileAt s n) (clearWait (entered s n op) n)) n (advanced (tileAt s n))) (issueRow s n op raw) n := by
  rw [issueRow_go h (issueFault_one hl hd hy hc) hb, complete_one op (by rw [entered_tileAt]; exact canIssue_wait h)]
  have e : advancePc (op.eff n none (tileAt s n) (clearWait (entered s n op) n)) n [op] (tileAt s n) =
      modTile (op.eff n none (tileAt s n) (clearWait (entered s n op) n)) n (advanced (tileAt s n)) := by
    simp [advancePc, hn]
  rw [entered_tileAt, e]
  exact pipeAfter_only _ _ _ _ _

/-- No late fault: the memory instruction is done with its bundle. -/
theorem settleLate_none {s : State} {n pc : Nat} (h : (tileAt s n).late = none) : settleLate s n pc = s := by simp [settleLate, h]

theorem issueMem_eq {s : State} {n : Nat} {op : SlotOp} (h : (tileAt (issueRow s n op 0) n).late = none) :
    issueMem s n op = issueRow s n op 0 := settleLate_none h

/-! ### One tile alone -/

theorem OnlyTile.refl (s : State) (n : Nat) : OnlyTile s s n := ⟨rfl, fun _ _ => ⟨rfl, rfl⟩⟩

theorem OnlyTile.modTile {s t : State} {n : Nat} (h : OnlyTile s t n) (f : Tile → Tile) : OnlyTile s (modTile t n f) n :=
  ⟨h.1, fun m hm => ⟨by rw [tileAt_modTile_other _ _ _ _ hm, (h.2 m hm).1], (h.2 m hm).2⟩⟩

theorem OnlyTile.modPipe {s t : State} {n : Nat} (h : OnlyTile s t n) (f : Pipe → Pipe) : OnlyTile s (modPipe t n f) n :=
  ⟨h.1, fun m hm => ⟨(h.2 m hm).1, by rw [pipeAt_modPipe_other _ _ _ _ hm, (h.2 m hm).2]⟩⟩

theorem OnlyTile.pipe {s t u : State} {n : Nat} (h : OnlyTile s t n) (k : PipeOnly t u n) : OnlyTile s u n := by
  refine ⟨?_, fun m hm => ⟨(k.tileAt m).trans (h.2 m hm).1, (k.2 m hm).trans (h.2 m hm).2⟩⟩
  have := congrArg (fun q : State => { q with tiles := s.tiles, pipes := s.pipes }) k.1
  exact this.trans h.1

theorem OnlyTile.trans {s t u : State} {n : Nat} (h : OnlyTile s t n) (k : OnlyTile t u n) : OnlyTile s u n := by
  refine ⟨?_, fun m hm => ⟨(k.2 m hm).1.trans (h.2 m hm).1, (k.2 m hm).2.trans (h.2 m hm).2⟩⟩
  have := congrArg (fun q : State => { q with tiles := s.tiles, pipes := s.pipes }) k.1
  exact this.trans h.1

theorem OnlyTile.rd {s t : State} {n : Nat} (h : OnlyTile s t n) (a : Nat) : rd t a = rd s a := by
  have := congrArg State.regs h.1
  exact rd_congr this a

theorem entered_only (s : State) (n : Nat) (op : SlotOp) : OnlyTile s (entered s n op) n := (OnlyTile.refl s n).modPipe _

theorem satNote_only {s t : State} {n : Nat} (h : OnlyTile s t n) (l : Nat) (m : BitVec 16) : OnlyTile s (satNote t n l m) n := by
  unfold satNote
  split
  · exact h
  · exact h.modPipe _

@[simp] theorem satNote_tileAt (s : State) (n l m : Nat) (x : BitVec 16) : tileAt (satNote s n l x) m = tileAt s m := by
  unfold satNote
  split <;> rfl

theorem tileAt_clearWait (s : State) (n : Nat) :
    tileAt (clearWait s n) n = { tileAt s n with wait := none, answer := none, late := none } := by simp [clearWait]

/-! ### No register write raises a late fault -/

@[simp] theorem putV_late (t : Tile) (i x) : (putV t i x).late = t.late := rfl
@[simp] theorem putS_late (t : Tile) (i x) : (putS t i x).late = t.late := rfl
@[simp] theorem putP_late (t : Tile) (i x) : (putP t i x).late = t.late := by unfold putP; split <;> rfl
@[simp] theorem putAcc_late (t : Tile) (n i x) : (putAcc t n i x).late = t.late := rfl
@[simp] theorem putAcce_late (t : Tile) (n x) : (putAcce t n x).late = t.late := rfl
@[simp] theorem putAccv_late (t : Tile) (n x) : (putAccv t n x).late = t.late := rfl
@[simp] theorem setAccvBit_late (t : Tile) (n i x) : (setAccvBit t n i x).late = t.late := rfl
@[simp] theorem setSat_late (t : Tile) (m) : (setSat t m).late = t.late := rfl
@[simp] theorem accAdd_late (t : Tile) (n i x) : (accAdd t n i x).late = t.late := by
  unfold accAdd; simp only []; split <;> simp
@[simp] theorem accClearLane_late (t : Tile) (n i) : (accClearLane t n i).late = t.late := by unfold accClearLane; simp
@[simp] theorem writeTenth_late (t : Tile) (m d mask n xs k tag) : (writeTenth t m d mask n xs k tag).late = t.late := by
  unfold writeTenth; simp only []; split <;> simp
@[simp] theorem writePair_late (t : Tile) (m d mask n xs k tag) : (writePair t m d mask n xs k tag).late = t.late := by
  unfold writePair; simp only []; split <;> simp
theorem eachLane_late (mask : BitVec 16) (f : Tile → Nat → Tile) (hf : ∀ t i, (f t i).late = t.late) (ls : List Nat) :
    ∀ t, (eachLane mask f ls t).late = t.late := by
  induction ls with
  | nil => intro t; rfl
  | cons i l ih =>
    intro t
    have : eachLane mask f (i :: l) t = eachLane mask f l (if mask.getLsbD i then f t i else t) := rfl
    rw [this, ih]; split <;> simp [hf]

/-- How a SlotDone is shown of an instruction that touches its tile alone. -/
theorem slotDone_op {c : Instr} {s : State} {n : Nat} {op : SlotOp} {raw : Bundle} {f : Nat → Tile → Tile → Tile}
    (hr : Ready s n) (he : exec c s = live s (issueRow s n op raw)) (hl : op.legal = true) (hd : op.writes.Nodup)
    (hc : op.ctl = false) (hy : op.dyn (entered s n op) n (tileAt s n) = none) (hb : op.block (tileAt s n) = none)
    (hn : op.next (tileAt s n) = none)
    (ho : OnlyTile (clearWait (entered s n op) n) (op.eff n none (tileAt s n) (clearWait (entered s n op) n)) n)
    (ht : tileAt (op.eff n none (tileAt s n) (clearWait (entered s n op) n)) n =
      f (rdf s (Reg.TILE_CTRL n) 11 10) (tileAt s n) (tileAt (clearWait s n) n)) : SlotDone c s n f := by
  have e := issueRow_next (raw := raw) hr.2 hl hd (by simp [hc]) hy hb hn
  refine ⟨_, he.trans (live_awake hr.1.1 hr.1.2), ?_, ?_⟩
  · exact ((((entered_only s n op).modTile _).trans ho).modTile _).pipe e
  · rw [e.tileAt, tileAt_modTile_self, ht, tileAt_clearWait]
    rfl

/-- The tile after such an instruction. -/
theorem slotTile_late {s : State} {n : Nat} {f : Nat → Tile → Tile → Tile} (h : ∀ m o t, (f m o t).late = t.late) :
    (slotTile s n f).late = none := by simp [slotTile, h]

/-- The same of a memory instruction. -/
theorem slotDone_mem {c : Instr} {s : State} {n : Nat} {op : SlotOp} {f : Nat → Tile → Tile → Tile}
    (hr : Ready s n) (he : exec c s = live s (issueMem s n op)) (hl : op.legal = true) (hd : op.writes.Nodup)
    (hc : op.ctl = false) (hy : op.dyn (entered s n op) n (tileAt s n) = none) (hb : op.block (tileAt s n) = none)
    (hn : op.next (tileAt s n) = none)
    (ho : OnlyTile (clearWait (entered s n op) n) (op.eff n none (tileAt s n) (clearWait (entered s n op) n)) n)
    (ht : tileAt (op.eff n none (tileAt s n) (clearWait (entered s n op) n)) n =
      f (rdf s (Reg.TILE_CTRL n) 11 10) (tileAt s n) (tileAt (clearWait s n) n))
    (hlate : (f (rdf s (Reg.TILE_CTRL n) 11 10) (tileAt s n) (tileAt (clearWait s n) n)).late = none) : SlotDone c s n f := by
  have e := issueRow_next (raw := 0) hr.2 hl hd (by simp [hc]) hy hb hn
  rw [issueMem_eq (by rw [e.tileAt, tileAt_modTile_self, ht, advanced_late, hlate])] at he
  exact slotDone_op hr he hl hd hc hy hb hn ho ht

/-- How a SlotDone is shown of an instruction on registers alone (R40, R41). -/
theorem slotDone_regOp {c : Instr} {s : State} {n slot lat : Nat} {rs : List Nat} {legal : Bool} {ws : List Nat}
    {f g : Nat → Tile → Tile → Tile} {raw : Bundle}
    (hr : Ready s n) (he : exec c s = live s (issueRow s n (regOp slot lat rs legal ws f) raw))
    (hl : legal = true) (hd : ws.Nodup)
    (hfg : ∀ m t, f m (tileAt s n) t = g m (tileAt s n) t) : SlotDone c s n g := by
  refine slotDone_op hr he hl hd rfl rfl rfl rfl ((OnlyTile.refl _ n).modTile _) ?_
  simp [regOp, clearWait, rdf, hfg]

/-- The same of one that narrows and so may set SATF (R28). -/
theorem slotDone_satOp {c : Instr} {s : State} {n slot lat : Nat} {rs : List Nat} {legal : Bool} {ws : List Nat}
    {f g : Nat → Tile → Tile → Tile} {raw : Bundle}
    (hr : Ready s n) (he : exec c s = live s (issueRow s n (satOp slot lat rs legal ws f) raw))
    (hl : legal = true) (hd : ws.Nodup)
    (hfg : ∀ m t, f m (tileAt s n) t = g m (tileAt s n) t) : SlotDone c s n g := by
  refine slotDone_op hr he hl hd rfl rfl rfl rfl (satNote_only ((OnlyTile.refl _ n).modTile _) _ _) ?_
  simp [satOp, clearWait, rdf, hfg]

end Sys2Proof.Machine
end

