-- ==== Sys2Proof/Laws/TileMem.lean ====
section
/-! SUPPORT. What reads and writes of tile memory do where no error stands in them, and what a tile fault does. -/

namespace Sys2Proof.Machine

/-- The signed value of a bit vector is its `toInt`. -/
theorem sint_eq {w : Nat} (v : BitVec w) : sint v = v.toInt := by
  unfold sint sext
  rw [BitVec.toInt_eq_toNat_cond]
  have h := v.isLt
  simp only [Nat.mod_eq_of_lt h]
  rcases w with _ | w
  · simp at h ⊢; simp [h]
  · have : 2 ^ (w + 1) = 2 * 2 ^ w := by rw [pow_succ, mul_comm]
    simp only [this, Nat.add_sub_cancel]
    split <;> split <;> first | rfl | omega

/-- A word without an error is read as it stands, and the read leaves no trace. -/
theorem tmRead_holds {s : State} {n a r : Nat} {w : BitVec 167} (h : Holds s n a w) : tmRead s n a r = (some w, s) := by
  unfold Holds at h
  unfold tmRead
  rw [h]
  simp

/-- The pipeline notes nothing for it. -/
theorem loadRead_holds {s : State} {n a : Nat} {w : BitVec 167} (h : Holds s n a w) : loadRead s n a = (some w, s) := by
  unfold loadRead
  rw [show eccDecode 167 8 (SMap.get 0 (tileAt s n).dmem a).toNat = .good w.toNat from h]
  exact tmRead_holds h

/-- Clearing the wait does not touch memory. -/
theorem holds_clear {s : State} {n a : Nat} {w : BitVec 167} (h : Holds s n a w) : Holds (clearWait s n) n a w := by
  unfold Holds at *
  simpa [clearWait] using h

/-- A load of a word without an error and without a trapped tag. -/
theorem tileLoad_holds {s : State} {n a : Nat} {w : BitVec 167} (h : Holds s n a w) (ht : rdb s (Reg.TILE_CTRL n) 15 = true → tagOf w = 0) :
    tileLoad s n a = (some w, s) := by
  unfold tileLoad
  rw [loadRead_holds h]
  cases hb : rdb s (Reg.TILE_CTRL n) 15 with
  | false => simp [hb]
  | true => simp [ht hb]

/-- A store in the words of Safety. -/
theorem tmWrite_eq (s : State) (n a : Nat) (x) : tmWrite s n a x = modTile s n (fun t => stored167 t a x) := rfl

/-- A store under a predicate. -/
theorem tileStoreP_holds {s : State} {n a : Nat} {m : BitVec 16} {x w : BitVec 167} (h : m = 0xFFFF ∨ m = 0 ∨ Holds s n a w) :
    tileStoreP s n a m x = if m = 0xFFFF then modTile s n (fun t => stored167 t a x) else if m = 0 then s else modTile s n (fun t => stored167 t a (laneMerge m x w)) := by
  unfold tileStoreP
  split
  · rfl
  · split
    · rfl
    · have h := (h.resolve_left ‹_›).resolve_left ‹_›
      unfold tilePartial
      rw [tmRead_holds h]; rfl

/-- A partial store into a word without an error. -/
theorem tilePartial_holds {s : State} {n a : Nat} {w : BitVec 167} (f) (h : Holds s n a w) :
    tilePartial s n a f = modTile s n (fun t => stored167 t a (f w)) := by
  unfold tilePartial
  rw [tmRead_holds h]; rfl

/-- A store leaves every other word. -/
theorem holds_stored {s : State} {n a b : Nat} {w x : BitVec 167} (h : Holds s n a w) (hab : a ≠ b) : Holds (modTile s n (fun t => stored167 t b x)) n a w := by
  unfold Holds at *
  rw [tileAt_modTile_self]
  simp only [stored167]
  rw [SMap.get_put_other _ _ _ _ _ _ hab, h]

/-- The registers after a tile fault (R132). -/
theorem rd_tileFault (s : State) (n pc code slots info loc a : Nat) (h0 : a ≠ Reg.TRV_TFAULT (n / 32))
    (h1 : a ≠ Reg.TILE_CTRL n) (h2 : a ≠ Reg.TILE_FAULT n) (h3 : a ≠ Reg.TILE_FAULT_INFO n)
    (h4 : a ≠ Reg.TILE_FAULT_COUNT n) : rd (tileFault s n pc code slots info loc) a = rd s a := by
  unfold tileFault
  simp only []
  rw [rd_orr_other _ _ _ _ h0, rd_raise, rd_inc_other _ _ _ h4, rd_wr_other _ _ _ _ h3, rd_wr_other _ _ _ _ h2, rd_modTile,
    rd_modPipe, rd_wrb_other _ _ _ _ _ h1]

/-- The tile after a fault (R132). -/
theorem tileAt_tileFault (s : State) (n pc code slots info loc : Nat) :
    tileAt (tileFault s n pc code slots info loc) n =
      { tileAt s n with faulted := true, wait := none, answer := none, late := none } := by simp [tileFault, tileAt_modPipe]

/-- The other tiles after a fault. -/
theorem tileAt_tileFault_other (s : State) (n pc code slots info loc m : Nat) (h : m ≠ n) :
    tileAt (tileFault s n pc code slots info loc) m = tileAt s m := by
  simp [tileFault, tileAt_modTile_other _ _ _ _ h, tileAt_modPipe]

end Sys2Proof.Machine
end

