-- ==== Sys2Proof/WellFormed.lean ====
section
/-! DEFINITION. Which operand values of a command are ones its sender can give. Commands take any operands all the same; an ill-formed one is no statement of the spec's. -/

namespace Sys2Proof

/-- A write request stays within one 64-byte block and carries 1 to 64 bytes (R255). -/
def inBlock (addr : Addr) (data : List Byte) : Bool :=
  decide (1 ≤ data.length) && decide (addr.toNat % 64 + data.length ≤ 64)

/-- The operands are ones the sender can give. -/
def WellFormed : Instr → Bool
  | .sensorSample readings => readings.length == 40
  | .mgmtCommandFrame _ _ _ frame => decide (frame.data.length ≤ 1024)
  | .dramWrite _ _ _ addr data => inBlock addr data
  | .dramCommandIssue _ ready => decide ready.Nodup && ready.all (fun i => decide (i < 96))
  | .frameArrival _ frame _ _ => decide (14 ≤ frame.length)
  | .wakeMatch _ frame _ => decide (14 ≤ frame.length)
  | .bootComplete _ _ _ _ _ image => decide (image.length ≤ 15723008)
  | _ => true

end Sys2Proof
end

