-- ==== Sys2Proof/Tests/Slice0.lean ====
section
/-! SUPPORT. Tests: ill-formed commands are refused, fixed values by hand, and for every statement of Obligations.lean a witness that its hypotheses can be met. `premises_<Statement>` lists, clause by clause, whether the hypotheses of that statement hold of a state and operands; `witness_<Statement>` gives for every clause a state and operands where they all hold. -/

namespace Sys2Proof.Tests
open Sys2Proof Sys2Proof.Machine

-- Theorems are checked one after another: the kernel evaluates each, and many at a time would take too much memory.
set_option Elab.async false

/-- Registers set to values. -/
def setR (l : List (Nat × Nat)) (s : State) : State := l.foldl (fun s x => wr s x.1 (BitVec.ofNat 32 x.2)) s

/-- The part after reset, in M4. -/
def awake : State := setR [(Reg.PWR_MODE, 4)] State.reset

/-- The hypotheses of Safety.lean, spelled so that `decide` sees through them. -/
abbrev Awake' (s : State) : Prop := s.void = false ∧ asleep s = false
abbrev Ready' (s : State) (n : Nat) : Prop := Awake' s ∧ canIssue s n = true
abbrev Holds' (s : State) (n a : Nat) (w : BitVec 167) : Prop := eccDecode 167 8 (SMap.get 0 (tileAt s n).dmem a).toNat = .good w.toNat

/-- Each of `n` clauses but those in `but` has its hypotheses met at one of the points: a point names the clauses it meets. -/
def metBut (but : List Nat) (n : Nat) (l : List (List Nat × List Bool)) : Bool :=
  l.all (fun x => x.2.length == n) && (List.range n).all (fun k => but.contains k || l.any (fun x => x.1.contains k && x.2.getD k false))
abbrev met (n : Nat) (l : List (List Nat × List Bool)) : Bool := metBut [] n l

/-- What the statements say with a quantifier over what an inductive constructor holds. -/
def isNode : Entry → Bool
  | .node _ => true
  | _ => false
def isChanging : FreqPhase → Bool
  | .changing _ => true
  | _ => false
def isTimer : Entry → Bool
  | .timer _ => true
  | _ => false
def isLate : Entry → Bool
  | .timer y => y.late
  | _ => false
def worksHeld : Instr → Bool
  | .sensorSample .. => true
  | .logFlashCopy => true
  | .mgmtCommandFrame .. => true
  | .warmReset .. => true
  | .pllLossOfLock .. => true
  | _ => false
def actsAsleep : Instr → Bool
  | .errorRecord .. => true
  | .wakeMatch .. => true
  | .wake .. => true
  | _ => false
def isGood : EccResult → Bool
  | .good _ => true
  | _ => false

/-- A ring of 16 entries at the start of the general SRAM region, with one entry to fetch. -/
def fed (r : RingRef) (entry : List Byte) (s : State) : State :=
  let s := setR [((ringDesc r).cfg, 0x1004), ((ringDesc r).base, 0x6C0000), ((ringDesc r).prod, 1)] s
  sramPut s (ringEntry s r 0) entry
def cipState (f : Cip → Cip) (s : State := setR [(Reg.CIP_CTRL, 0x141)] awake) : State := { s with cip := { f s.cip with seeded := true } }
def anIngress : Ingress := ⟨3, 63, 12, 0x10006F0000, 100, 1, 2, 3, 4⟩
/-- Port 15 is on and its link is up. -/
def portUp (s : State := awake) : State := setR [(Reg.ETH_CTRL 15, 2), (Reg.ETH_STAT 15, 5)] s
def pktState (f : Pkt → Pkt) (s : State) : State := { s with pkt := f s.pkt }
/-- The DRAM controller enabled, with no neighbour refresh. -/
def dramOn (s : State) : State := setR [(Reg.DMC_CTRL, 1), (Reg.DMC_NREF, 0)] s
/-- 32 bytes of zeros wrapped by the KEK 00 01 … 1F (RFC 5649). -/
def badBlob : List Byte := beBytes 40 1164599302468433442358087861176257297397483191334103412038911844455178202035989867399350123893161

def premises_Accumulate (s : State) (n : Fin 96) (d a b : BitVec 5) (mod : BitVec 8) : List Bool :=
  if decide (Ready' s n.val) then
    [decide (d.toNat < 4 ∧ mod.getLsbD 4 = false),
     decide (d.toNat < 4 ∧ a.toNat % 2 = 0 ∧ b.toNat % 2 = 0 ∧ modIn mod 0xA3 = true),
     decide (d.toNat < 4 ∧ modIn mod 0xA3 = true),
     decide (d.toNat < 4 ∧ b = 0 ∧ modIn mod 0x80 = true)]
  else []

def premises_Product (s : State) (n : Fin 96) (d a b : BitVec 5) (mod : BitVec 8) : List Bool :=
  if decide (Ready' s n.val) then
    [decide (modIn mod 0xCF = true),
     decide (d.toNat % 2 = 0 ∧ a.toNat % 2 = 0 ∧ b.toNat % 2 = 0 ∧ modIn mod 3 = true),
     decide (a.toNat < 4 ∧ b = 0 ∧ mod.getLsbD 6 = false),
     decide (d.toNat % 2 = 0 ∧ a.toNat < 4 ∧ b = 0 ∧ mod.getLsbD 6 = false)]
  else []

def premises_AccumulatorSet (s : State) (n : Fin 96) (d a b : BitVec 5) (p : BitVec 3) (mod : BitVec 8) : List Bool :=
  if decide (Ready' s n.val ∧ d.toNat < 4) then
    [decide (a = 0 ∧ b = 0 ∧ p = 0),
     decide (b = 0 ∧ p = 0),
     decide (a.toNat % 2 = 0 ∧ b = 0 ∧ p = 0),
     decide (a.toNat < 4 ∧ b.toNat < 4 ∧ mod.toNat < 3)]
  else []

def premises_VectorArithmetic (s : State) (n : Fin 96) (b : BitVec 5) (mod : BitVec 7) : List Bool :=
  if decide (Ready' s n.val) then
    [decide (mod.toNat < 8),
     decide ((mod = 0 ∨ mod = 2)),
     decide (modIn mod 6 = true),
     decide (((mod.getLsbD 6 = true → b.toNat < 16))),
     decide (mod = 0),
     decide (True)]
  else []

def premises_Predicate (s : State) (n : Fin 96) (d a b : BitVec 5) (p : BitVec 3) (mod : BitVec 7) : List Bool :=
  if decide (Ready' s n.val) then
    [decide (d.toNat < 8 ∧ mod.toNat < 16 ∧ fld mod 2 0 < 6 ∧ ((mod.getLsbD 3 = true → b = 0))),
     decide (d.toNat < 8 ∧ a.toNat < 8 ∧ b.toNat < 8 ∧ mod.toNat < 4 ∧ p = 0),
     decide (d.toNat < 8),
     decide (d.toNat < 16 ∧ a.toNat < 8 ∧ mod = 1 ∧ p = 0),
     decide (d.toNat < 8 ∧ a.toNat < 16 ∧ mod = 0 ∧ p = 0),
     decide (mod.toNat < 4 ∧ getP (tileAt s n.val) p.toNat = 0xFFFF),
     decide (mod = 0)]
  else []

def premises_Shuffle (s : State) (n : Fin 96) (d : BitVec 5) (mod : BitVec 7) : List Bool :=
  if decide (Ready' s n.val) then
    [decide (mod.toNat < 16),
     decide (mod = 0),
     decide (mod.toNat < 2),
     decide (d.toNat % 2 = 0 ∧ mod = 0)]
  else []

def premises_Convert (s : State) (n : Fin 96) (d a b : BitVec 5) (mod : BitVec 7) : List Bool :=
  if decide (Ready' s n.val ∧ mod.toNat < 8 ∧ mod.toNat % 4 < 3 ∧ (mod.toNat % 4 = 2 → b.toNat % 2 = 0 ∧ b.toNat ≤ 8) ∧ b.toNat ≤ 24) then
    [decide (a.toNat % 2 = 0 ∧ mod.getLsbD 2 = false),
     decide (a.toNat % 2 = 0 ∧ d.toNat % 2 = 0 ∧ mod.getLsbD 2 = true),
     decide (d.toNat % 2 = 0 ∧ ((mod.getLsbD 2 = true → a.toNat % 2 = 0)))]
  else []

def premises_Scalar (s : State) (n : Fin 96) (d a b : BitVec 5) (p : BitVec 3) (mod : BitVec 7) : List Bool :=
  if decide (Ready' s n.val) then
    [decide (d.toNat < 16 ∧ a.toNat < 16 ∧ b.toNat < 16 ∧ mod.toNat < 12 ∧ p = 0),
     decide (d.toNat < 16 ∧ a.toNat < 16),
     decide (d.toNat < 16),
     decide (d.toNat < 16 ∧ mod.toNat < 16 ∧ p = 0),
     decide (a.toNat < 16 ∧ mod.toNat < 16 ∧ p = 0),
     decide (d.toNat < 16 ∧ mod = 0 ∧ p = 0),
     decide (d = 0 ∧ a.toNat < 8 ∧ b = 0 ∧ mod = 0 ∧ p = 0),
     decide (d = 0 ∧ a.toNat < 8 ∧ b = 0 ∧ mod = 0 ∧ p = 0 ∧ (pipeAt s n.val).flights = []),
     decide (d.toNat < 16 ∧ a = 0 ∧ b = 0 ∧ mod = 0 ∧ p = 0)]
  else []

def premises_Load (s : State) (n : Fin 96) (r : BitVec 5) (a p : BitVec 3) (inc : BitVec 6) (imm : BitVec 13) (x : BitVec 4) (w u : BitVec 167) : List Bool :=
  let o := tileAt s n.val
  let ea := (getA o a.toNat).toNat
  if decide (Ready' s n.val ∧ (rdb s (Reg.TILE_CTRL n.val) 15 = true → tagOf w = 0 ∧ tagOf u = 0)) then
    [decide (Holds' s n.val ea w),
     decide (Holds' s n.val (ring o a.toNat inc.toInt) w),
     decide (p = 0 ∧ imm = 0 ∧ Holds' s n.val (ring o a.toNat (getS o x.toNat).toInt) w),
     decide (r.toNat % 2 = 0 ∧ p = 0 ∧ x = 0 ∧ ea % 2 = 0 ∧ Holds' s n.val ea w ∧ Holds' s n.val (ea + 1) u)]
  else []

def premises_Store (s : State) (n : Fin 96) (r : BitVec 5) (a p : BitVec 3) (imm : BitVec 13) (x : BitVec 4) (w u : BitVec 167) : List Bool :=
  let o := tileAt s n.val
  let ea := (getA o a.toNat).toNat
  let ex := ring o a.toNat (getS o x.toNat).toInt
  let m := getP o p.toNat
  if decide (Ready' s n.val) then
    [decide (True),
     decide (x = 0 ∧ ((m = 0xFFFF ∨ m = 0 ∨ Holds' s n.val ea w))),
     decide (imm = 0 ∧ ((m = 0xFFFF ∨ m = 0 ∨ Holds' s n.val ex w))),
     decide (r.toNat % 2 = 0 ∧ x = 0 ∧ ea % 2 = 0 ∧ ((m = 0xFFFF ∨ m = 0 ∨ (Holds' s n.val ea w ∧ Holds' s n.val (ea + 1) u))))]
  else []

def premises_ScalarMemory (s : State) (n : Fin 96) (r : BitVec 5) (a p : BitVec 3) (imm : BitVec 13) (x : BitVec 4) (w : BitVec 167) : List Bool :=
  let o := tileAt s n.val
  let ea := ring o a.toNat imm.toInt
  if decide (Ready' s n.val) then
    [decide (r.toNat < 5 ∧ p = 0 ∧ Holds' s n.val ea w),
     decide (r = 0 ∧ p = 0 ∧ x = 0),
     decide (r.toNat < 3 ∧ p = 0 ∧ imm = 0),
     decide (r.toNat < 3 ∧ p = 0 ∧ x = 0)]
  else []

def premises_LoadErrorsHandled_1 (s : State) (n : Fin 96) (r : BitVec 5) (a p : BitVec 3) (x : BitVec 4) (w : BitVec 167) : List Bool :=
  let o := tileAt s n.val
  let ea := (getA o a.toNat).toNat
  if decide (Ready' s n.val) then
    [decide (((o.imem = [])) ∧ eccDecode 167 8 (SMap.get 0 o.dmem ea).toNat = .bad),
     decide (((o.imem = [])) ∧ Holds' s n.val ea w ∧ tagOf w = 1 ∧ rdb s (Reg.TILE_CTRL n.val) 15 = true),
     decide (((o.imem = [])) ∧ r.toNat % 2 = 0 ∧ p = 0 ∧ x = 0 ∧ ea % 2 = 1),
     decide (((o.imem = [])) ∧ r.toNat % 2 = 0 ∧ x = 0 ∧ ea % 2 = 1)]
  else []

def premises_LoadErrorsHandled_2 (s : State) (n : Fin 96) (a : BitVec 3) (d word bit : Nat) : List Bool :=
  let ea := (getA (tileAt s n.val) a.toNat).toNat
  if decide (Ready' s n.val) then
    [decide (eccDecode 167 8 (SMap.get 0 (tileAt s n.val).dmem ea).toNat = .fixed d word bit ∧ ((rdb s (Reg.TILE_CTRL n.val) 15 = true → tagOf (BitVec.ofNat 167 d) = 0)))]
  else []

def premises_Dma_1 (s : State) (n : Fin 96) (r : BitVec 5) (a p : BitVec 3) (imm : BitVec 13) (x : BitVec 4) (who : Who) (c : Fin 2) : List Bool :=
  if decide (Ready' s n.val) then
    [decide (r.toNat < 16 ∧ a = 0 ∧ p = 0 ∧ imm.toNat < 2 ∧ x.toNat % 4 = 0),
     decide (passes s who (Reg.TILE_DMA_CTRL n.val c.val) true = true)]
  else []

def premises_Dma_2 (s : State) (n : Fin 96) (r : BitVec 5) (a p : BitVec 3) (imm : BitVec 13) (x : BitVec 4) : List Bool :=
  let chan (c : Nat) : DmaChan := SMap.get DmaChan.reset (tileAt s n.val).dma c
  let busy (c : Nat) : Prop := ¬ ((chan c).active = none ∧ (chan c).waiting = none)
  if decide (Ready' s n.val ∧ a = 0 ∧ p = 0 ∧ x = 0 ∧ imm.toNat < 4) then
    [decide (r.toNat < 16),
     decide (r = 0 ∧ ¬ busy (imm.toNat % 2) ∧ ((2 ≤ imm.toNat → ¬ busy 0 ∧ ¬ busy 1))),
     decide (r = 0 ∧ ((busy (imm.toNat % 2) ∨ (2 ≤ imm.toNat ∧ (busy 0 ∨ busy 1)))))]
  else []

def premises_Flow (s : State) (n : Fin 96) (f : BitVec 18) : List Bool :=
  let o := tileAt s n.val
  let k := fld f 17 14
  let target := fld f 10 0
  let holds : Bool :=
      match fld f 13 11 with
      | 0 => true
      | 1 => getS o k == 0
      | 2 => getS o k != 0
      | 3 => decide ((getS o k).toInt < 0)
      | 4 => decide (0 ≤ (getS o k).toInt)
      | 5 => getP o k != 0
      | 6 => getP o k == 0
      | _ => getP o k == 0xFFFF
  let lv := fld f 17 16
  let c := fld (getS o (fld f 15 12)) 15 0
  let start := (o.pc.toNat + 1) % 2048
  let stop := start + target
  if decide (Ready' s n.val) then
    [decide (endsLoop o o.pc.toNat = false ∧ ((fld f 13 11 = 0 → k = 0)) ∧ ((5 ≤ fld f 13 11 → k < 8)) ∧ holds = true),
     decide (endsLoop o o.pc.toNat = false ∧ ((fld f 13 11 = 0 → k = 0)) ∧ ((5 ≤ fld f 13 11 → k < 8)) ∧ holds = false),
     decide (endsLoop o o.pc.toNat = false ∧ fld f 13 11 = 0),
     decide (endsLoop o o.pc.toNat = false ∧ fld f 13 0 = 0),
     decide (endsLoop o o.pc.toNat = false ∧ lv < 3 ∧ f.getLsbD 11 = false ∧ stop < 2048 ∧ (getLp o lv).active = false ∧ ((∀ h ∈ List.range 3, lv < h → (getLp o h).active = false)) ∧ ((∀ h ∈ List.range lv, (getLp o h).active = true → (getLp o h).start ≤ start ∧ stop ≤ (getLp o h).stop)) ∧ c ≠ 0),
     decide (endsLoop o o.pc.toNat = false ∧ lv < 3 ∧ f.getLsbD 11 = false ∧ stop < 2048 ∧ (getLp o lv).active = false ∧ ((∀ h ∈ List.range 3, lv < h → (getLp o h).active = false)) ∧ ((∀ h ∈ List.range lv, (getLp o h).active = true → (getLp o h).start ≤ start ∧ stop ≤ (getLp o h).stop)) ∧ c = 0)]
  else []

def premises_Stop (s : State) (n : Fin 96) : List Bool :=
  if decide (Ready' s n.val) then
    [decide (True),
     decide (rdb s (Reg.TILE_DBG_CTRL n.val) 1 = true),
     decide (rdb s (Reg.TILE_DBG_CTRL n.val) 1 = false)]
  else []

def premises_Request (s : State) (n : Fin 96) (f : BitVec 18) : List Bool :=
  let o := tileAt s n.val
  let task := rd s (Reg.TILE_TASK n.val)
  let v := getS o (fld f 15 12)
  if decide (Ready' s n.val) then
    [decide (fld f 13 0 = 0 ∧ task.getLsbD 31 = true),
     decide (fld f 17 16 = 0 ∧ fld f 11 0 = 0 ∧ fld v 31 26 = 0 ∧ fld v 25 18 ≠ 0),
     decide (fld f 17 16 = 1 ∧ fld f 11 0 = 0 ∧ v.toNat < 64),
     decide (endsLoop o o.pc.toNat = false ∧ fld f 13 0 = 0 ∧ fld f 17 14 % 2 = 0),
     decide (fld f 9 0 = 0),
     decide (fld f 9 0 = 0 ∧ fld f 17 14 = 0),
     decide (fld f 6 0 = 0 ∧ fld f 9 7 ≠ 0)]
  else []

def premises_Answer (s : State) (n : Fin 96) (f : BitVec 18) (a : Answer) (w0 w1 : Word) (b : Bool) : List Bool :=
  let o := tileAt s n.val
  let waits (op : Nat) : Prop :=
      o.wait = some ⟨BitVec.ofNat 128 (2 ^ 124 + 2 ^ 18 * op + f.toNat), true, false, .run⟩ ∧ o.answer = some a
  let d := fld f 17 14
  if decide (Awake' s ∧ frozen s = false) then
    [decide (endsLoop o o.pc.toNat = false ∧ waits 0x10 ∧ a = .dispatch w0 w1 ∧ fld f 13 0 = 0 ∧ d % 2 = 0),
     decide (endsLoop o o.pc.toNat = false ∧ waits 0x18 ∧ a = .item w0 ∧ fld f 9 0 = 0),
     decide (endsLoop o o.pc.toNat = false ∧ waits 0x19 ∧ a = .peek b w0 ∧ fld f 6 0 = 0 ∧ fld f 9 7 ≠ 0),
     decide (endsLoop o o.pc.toNat = false ∧ waits 0x1A ∧ a = .code w0 ∧ fld f 9 0 = 0),
     decide (endsLoop o o.pc.toNat = false ∧ waits 0x1B ∧ a = .ack ∧ fld f 9 0 = 0 ∧ d = 0),
     decide (endsLoop o o.pc.toNat = false ∧ waits 0x1C ∧ a = .code w0 ∧ fld f 9 0 = 0),
     decide (endsLoop o o.pc.toNat = false ∧ waits 0x18 ∧ a = .queueFault ∧ fld f 9 0 = 0)]
  else []

def premises_Bundle (s : State) (n : Fin 96) (b : Bundle) : List Bool :=
  if decide (Ready' s n.val) then
    [decide (True),
     decide (3 ≤ fld b 127 124),
     decide (eccDecode 128 8 (SMap.get 0 (tileAt s n.val).imem (tileAt s n.val).pc.toNat).toNat = .bad)]
  else []

def premises_TileControl (s : State) (who : Who) (n : Fin 96) (v : Word) : List Bool :=
  let c := Reg.TILE_CTRL n.val
  let o := tileAt s n.val
  let fault := rdb s (Reg.TILE_FAULT n.val) 31
  if decide (Awake' s ∧ passes s who (Reg.TILE_CTRL n.val) true = true ∧ (tileAt s n.val).wait = none ∧ v.getLsbD 2 = false) then
    [decide (fault = false ∧ o.fill = false),
     decide (fault = true ∧ rdb s c 0 = false),
     decide (fault = false ∧ o.fill = true ∧ rdb s c 0 = false),
     decide (True),
     decide ((v.getLsbD 0 = false ∨ fault = true)),
     decide (v.getLsbD 0 = true ∧ fault = false ∧ o.fill = false),
     decide (v.getLsbD 0 = false ∧ v.getLsbD 1 = false)]
  else []

def premises_TileUpkeep (s : State) (who : Who) (n : Fin 96) (b : Bundle) (a : Fin 8192) : List Bool :=
  let c := Reg.TILE_CTRL n.val
  let o := tileAt s n.val
  if decide (Awake' s) then
    [decide (o.fill = true ∧ rdb s (Reg.PWR_PGATE_STAT (n.val / 64)) (n.val / 2 % 32) = false ∧ o.dmem = [] ∧ o.heldAcc = [.window who (.data a 0) none]),
     decide (o.fill = true ∧ o.heldAcc = [] ∧ rdb s (Reg.PWR_PGATE_STAT (n.val / 64)) (n.val / 2 % 32) = false),
     decide (passes s who (Reg.TILE_FAULT n.val) true = true),
     decide (passes s who (Reg.TILE_DBG_CTRL n.val) true = true ∧ rdb s c 0 = false ∧ rdb s (Reg.TILE_FAULT n.val) 31 = false ∧ o.wait = none ∧ o.fill = false ∧ frozen s = false ∧ fld b 127 124 = 0 ∧ eccDecode 128 8 (SMap.get 0 o.imem o.pc.toNat).toNat = .good b.toNat),
     decide (passes s who (Reg.TILE_SCRUB_CTRL n.val) true = true)]
  else []

def premises_TileWindow (s : State) (who : Who) (n : Fin 96) (a : Fin 8192) (k : Fin 8) (b : Fin 2048) (j : Fin 4) (x : BitVec 167) (y : Bundle) (ws : List Word) : List Bool :=
  let o := tileAt s n.val
  if decide (Awake' s) then
    [decide (o.fill = false ∧ Holds' s n.val a.val x),
     decide (o.fill = false ∧ k.val ≠ 0 ∧ k.val < 6 ∧ o.latchD = some (a.val, ws)),
     decide (o.fill = false ∧ 6 ≤ k.val),
     decide (o.fill = false ∧ eccDecode 128 8 (SMap.get 0 o.imem b.val).toNat = .good y.toNat),
     decide (o.fill = false ∧ j.val ≠ 0 ∧ o.latchI = some (b.val, ws)),
     decide (o.fill = false ∧ k.val < 5),
     decide (o.fill = false),
     decide (o.fill = false ∧ rdb s (Reg.TILE_CTRL n.val) 0 = false ∧ j.val < 3),
     decide (o.fill = false ∧ rdb s (Reg.TILE_CTRL n.val) 0 = false),
     decide (o.fill = true ∧ passes s who (windowAddr n.val (.data a k)) false = true),
     decide (o.fill = false ∧ rdb s (Reg.TILE_CTRL n.val) 0 = true ∧ passes s who (windowAddr n.val (.code b j)) true = true)]
  else []

def premises_TileBackground (s u : State) (n : Fin 96) (w : WriteBack) (rest : List WriteBack) (bank : Fin 8) (x : BitVec 167) (y : Bundle) (c : Fin 2) (d : DmaDesc) (q : Option DmaDesc) (k : Nat) (bs : List Byte) : List Bool :=
  let o := tileAt s n.val
  let due := o.scrubSince + 3 * 2 ^ (rdf s (Reg.TILE_SCRUB_CTRL n.val) 4 0 - 1)
  let ready : Prop := rdb s (Reg.TILE_SCRUB_CTRL n.val) 8 = true ∧ o.fill = false ∧ Holds' s n.val o.scrubD x ∧ due < 2 ^ 64 ∧
      eccDecode 128 8 (SMap.get 0 o.imem o.scrubI).toNat = .good y.toNat
  if decide (Awake' s ∧ tileOff s n.val = false) then
    [decide (o.writeBacks = w :: rest),
     decide (o.writeBacks = w :: rest ∧ w.imem = false ∧ w.addr % 8 = bank.val),
     decide (o.fill = false ∧ frozen s = false ∧ SMap.get DmaChan.reset o.dma c.val = ⟨some d, q, k⟩ ∧ d.out = false ∧ k < dmaWords d ∧ d.len = dmaWords d * dmaUnit d ∧ (d.addr + k) % 8 = bank.val ∧ dmaWords d ≤ 8192 ∧ memRead s (dmaPort n.val c.val d.cls) (d.ext + k * dmaUnit d) (dmaUnit d) = (some bs, u) ∧ u.tiles = s.tiles ∧ u.pipes = s.pipes),
     decide (ready ∧ o.scrubD % 8 = bank.val),
     decide (o.writeBacks = []),
     decide (ready),
     decide (True)]
  else []

def premises_Withdrawal (s : State) (n : Fin 96) (b : Bundle) : List Bool :=
  let o := tileAt s n.val
  if decide (Awake' s ∧ frozen s = false) then
    [decide (o.wait = some ⟨b, true, true, .stop⟩ ∧ s.trv.inbox = [.ask n.val none, .withdraw n.val] ∧ o.answer = none),
     decide (o.wait = some ⟨b, true, true, .stop⟩ ∧ s.trv.inbox = [.withdraw n.val] ∧ o.answer ≠ none),
     decide (o.wait = some ⟨b, true, true, .stop⟩ ∧ s.trv.inbox = [] ∧ n.val ∈ s.jq.withdraws ∧ o.answer = none)]
  else []

def premises_Transfer (s u : State) (n : Fin 96) (c : Fin 2) (d : DmaDesc) (q : Option DmaDesc) (bs : List Byte) (x : BitVec 167) : List Bool :=
  let o := tileAt s n.val
  let size := dmaUnit d
  if decide (Awake' s) then
    [decide (o.fill = false ∧ o.wait = none ∧ d.len = size ∧ SMap.get DmaChan.reset o.dma c.val = ⟨some d, q, 0⟩ ∧ d.out = false ∧ memRead s (dmaPort n.val c.val d.cls) d.ext size = (some bs, u) ∧ u.tiles = s.tiles),
     decide (o.fill = false ∧ o.wait = none ∧ d.len = size ∧ SMap.get DmaChan.reset o.dma c.val = ⟨some d, q, 0⟩ ∧ d.out = true ∧ Holds' s n.val d.addr x ∧ memWrite s (dmaPort n.val c.val d.cls) d.ext (leBytes 20 (x.toNat % 2 ^ 160) ++
        (if d.data20 then [] else BitVec.ofNat 8 (x.toNat / 2 ^ 160) :: List.replicate 11 0)) = (true, u) ∧ u.tiles = s.tiles),
     decide (o.fill = false ∧ o.wait = none ∧ d.len = size ∧ SMap.get DmaChan.reset o.dma c.val = ⟨some d, q, 0⟩ ∧ d.out = false ∧ memRead s (dmaPort n.val c.val d.cls) d.ext size = (none, u) ∧ u.tiles = s.tiles)]
  else []

def premises_Token (s : State) (x : Fin 97) (e p k : Nat) (rest : List TrvMsg) (n : NodeE) (g : GraphE) : List Bool :=
  let c := n.counts.getD p 0
  let cs := n.counts.set p (c + k)
  let full : Prop := n.state = .idle ∧ ∀ q ∈ List.zip cs n.thr, q.2 = 0 ∨ q.2 ≤ q.1
  if decide (Awake' s ∧ frozen s = false ∧ s.trv.inbox = .tokens x.val e p k :: rest ∧ s.trv.cycle = none) then
    [decide ((isNode (getE s e) = false)),
     decide (getE s e = .node n ∧ n.ext = false ∧ n.counts.length = 4 ∧ n.thr.length = 4 ∧ p < 4 ∧ getE s n.graph = .graph g ∧ (n.state = .cancelPending ∨ n.state = .cancelled ∨ n.thr.getD p 0 = 0 ∨ 255 < c + k ∨ g.free < k) ∧ ((n.state = .idle → ∃ q ∈ List.zip n.counts n.thr, q.2 ≠ 0 ∧ q.1 < q.2))),
     decide (getE s e = .node n ∧ n.ext = false ∧ n.counts.length = 4 ∧ n.thr.length = 4 ∧ p < 4 ∧ getE s n.graph = .graph g ∧ n.state ≠ .cancelPending ∧ n.state ≠ .cancelled ∧ n.thr.getD p 0 ≠ 0 ∧ c + k ≤ 255 ∧ k ≤ g.free ∧ ¬ full),
     decide (getE s e = .node n ∧ n.ext = false ∧ n.counts.length = 4 ∧ n.thr.length = 4 ∧ p < 4 ∧ getE s n.graph = .graph g ∧ n.state ≠ .cancelPending ∧ n.state ≠ .cancelled ∧ n.thr.getD p 0 ≠ 0 ∧ c + k ≤ 255 ∧ k ≤ g.free ∧ full)]
  else []

def premises_Dispatch (s : State) (tile : Fin 96) (cl : Fin 12) (d w p i : Nat) (us vs ws q : List Nat) (rest : List TrvMsg) (n : NodeE) : List Bool :=
  let asking (s : State) (c : Nat) : List Nat := SMap.get [] s.trv.asking c
  let asked (u : Nat) : Nat := SMap.get 0 s.trv.askedAt u
  let now := s.mono.toNat / 2 + 1
  let before (u : Nat) : Prop := asked u < now ∨ u < tile.val
  if decide (Awake' s) then
    [decide (frozen s = false ∧ s.trv.inbox = .ask tile.val none :: rest ∧ asking s (tile.val / 8) = us ++ vs ∧ ((∀ u ∈ us, before u)) ∧ ((∀ v ∈ vs.head?, ¬ before v))),
     decide (frozen s = false ∧ rdb s Reg.TRV_CTRL 0 = true ∧ asking s cl.val = w :: ws ∧ p < 64 ∧ ((∀ j ∈ List.range p, readyAtKey s (64 * cl.val + j) = [])) ∧ readyAtKey s (64 * cl.val + p) = i :: q ∧ i ∉ q ∧ getE s i = .node n ∧ n.cluster = cl.val ∧ n.prio = p ∧ n.readyAt + 2 ≤ now ∧ asked w < now ∧ ((∀ x ∈ s.trv.picks, x.cluster = cl.val → x.cycle < now))),
     decide (frozen s = false ∧ rdb s Reg.TRV_CTRL 0 = true ∧ asking s cl.val = w :: ws ∧ p < 64 ∧ ((∀ j ∈ List.range p, readyAtKey s (64 * cl.val + j) = [])) ∧ readyAtKey s (64 * cl.val + p) = i :: q ∧ i ∉ q ∧ getE s i = .node n ∧ n.cluster = cl.val ∧ n.prio = p ∧ q = [] ∧ ((∀ j ∈ List.range 64, j ≠ p → readyAtKey s (64 * cl.val + j) = [])) ∧ ((∀ x ∈ s.trv.picks, x.cluster ≠ cl.val)) ∧ n.readyAt < 2 ^ 62 ∧ asked w < 2 ^ 62),
     decide (s.trv.inbox = .hostDb tile.val d :: rest)]
  else []

def premises_NodeEnd (s : State) (tile : Fin 96) (i st : Nat) (rest : List TrvMsg) (n : NodeE) (g : GraphE) : List Bool :=
  if decide (Awake' s ∧ frozen s = false ∧ s.trv.inbox = .nodeEnd tile.val i st :: rest ∧ s.trv.cycle = none ∧ getE s i = .node n ∧ n.ext = false ∧ n.counts.length = 4 ∧ n.thr.length = 4 ∧ getE s n.graph = .graph g) then
    [decide (n.state = .running ∧ st = 0 ∧ (∃ q ∈ List.zip n.counts n.thr, q.2 ≠ 0 ∧ q.1 < q.2)),
     decide (n.state = .running ∧ st = 1),
     decide (n.state = .running ∧ 2 ≤ st),
     decide (n.state = .cancelPending)]
  else []

def premises_Timer (s : State) (cl : Fin 12) (i f : Nat) (is js ks held : List Nat) (x : TimerE) (n : NodeE) (g : GraphE) : List Bool :=
  let mult := rdf s Reg.TRV_TICK_CFG 8 0
  let now := 2 * s.mono.toNat / (78125 * mult)
  let start (k : Nat) : Nat := (k * mult * 78125 + 1) / 2
  let k := if s.trv.tick ≠ now ∧ s.mono.toNat = start now then now else now + 1
  let on := rdb s Reg.TRV_CTRL 0
  let late (j : Nat) : Bool := !inFuture (wakeOf s j) now
  let dist (j : Nat) : Nat := (wakeOf s j + 2 ^ 32 - now % 2 ^ 32) % 2 ^ 32
  let before (j : Nat) : Prop := if late i = true then isLate (getE s j) = true else late j = true ∨ dist j ≤ dist i
  if decide (Awake' s ∧ frozen s = false) then
    [decide (0 < mult ∧ start k < 2 ^ 64),
     decide (placings s cl.val = i :: is ∧ getE s i = .timer x ∧ firings s cl.val = [] ∧ delayList s cl.val = js ++ ks ∧ i ∉ js ++ ks ∧ ((∀ j ∈ js, before j)) ∧ ((∀ j ∈ ks.head?, ¬ before j))),
     decide (let c := n.counts.getD x.port 0; on = true ∧ firings s cl.val = [⟨f, some (i :: is), held⟩] ∧ getE s i = .timer x ∧ s.trv.cycle = none ∧ placings s cl.val = [] ∧ getE s x.target = .node n ∧ n.ext = false ∧ n.counts.length = 4 ∧ n.thr.length = 4 ∧ getE s n.graph = .graph g ∧ x.port < 4 ∧ n.state = .running ∧ n.thr.getD x.port 0 ≠ 0 ∧ c + x.count ≤ 255 ∧ x.count ≤ g.free),
     decide (on = true ∧ firings s cl.val = [⟨f, some [i], []⟩] ∧ getE s i = .timer x ∧ s.trv.cycle = none ∧ placings s cl.val = [] ∧ x.late = false ∧ (isNode (getE s x.target) = false))]
  else []

def premises_TraverseCommand (s u : State) (who : Who) (i : BitVec 15) (n : NodeE) (g : GraphE) (x : TimerE) (img : List Byte) (code w : Nat) (oc : TrvCycle) (rec arg : Word) : List Bool :=
  let e := getE s i.toNat
  let addr := (rd s Reg.TRV_CMD_ARG0).toNat + 2 ^ 32 * rdf s Reg.TRV_CMD_ARG1 15 0
  let plain (n : NodeE) : Prop := n.ext = false ∧ n.counts.length = 4 ∧ n.thr.length = 4
  let counts := n.counts.sum
  let total := n.thr.sum
  let now := s.mono.toNat / 2 + 1
  let alone : Prop := s.trv.cycle = none ∧ s.trv.picks = []
  if decide (Awake' s ∧ frozen s = false ∧ passes s who Reg.TRV_CMD true = true) then
    [decide (s.trv.loading ≠ none),
     decide (s.trv.loading = none ∧ loadCheck s i.toNat addr = (0, img, u)),
     decide (s.trv.loading = none ∧ loadCheck s i.toNat addr = (code, img, u) ∧ code ≠ 0 ∧ code < 32),
     decide (s.trv.loading = none ∧ addr % 64 ≠ 0),
     decide (s.trv.loading = none ∧ e = .graph g ∧ (g.cancelled = true ∧ g.busy = 0 ∧ g.free = g.total)),
     decide (s.trv.loading = none ∧ e = .graph g ∧ ¬ (g.cancelled = true ∧ g.busy = 0 ∧ g.free = g.total)),
     decide (s.trv.loading = none ∧ e = .node n ∧ plain n ∧ getE s n.graph = .graph g ∧ (n.state = .idle ∨ n.state = .halted)),
     decide (s.trv.loading = none ∧ e = .node n ∧ plain n ∧ getE s n.graph = .graph g ∧ n.state = .running ∧ s.trv.picks = []),
     decide (s.trv.loading = none ∧ e = .node n ∧ plain n ∧ getE s n.graph = .graph g ∧ (n.state = .cancelPending ∨ n.state = .cancelled)),
     decide (s.trv.loading = none ∧ e = .node n ∧ plain n ∧ getE s n.graph = .graph g ∧ n.state = .ready ∧ s.trv.cycle = none),
     decide (s.trv.loading = none ∧ e = .node n ∧ plain n ∧ getE s n.graph = .graph g ∧ n.state = .ready ∧ s.trv.cycle = some oc ∧ oc.number = now ∧ oc.after = books s ∧ n.readyAt = now ∧ .ends i.toNat 1 ∉ oc.evs),
     decide (s.trv.loading = none ∧ e = .node n ∧ plain n ∧ getE s n.graph = .graph g ∧ n.state = .running ∧ s.trv.picks = [⟨n.cluster, w, i.toNat, now⟩] ∧ (tileAt s w).answer = some (.dispatch rec arg)),
     decide (s.trv.loading = none ∧ e = .graph { g with length := 1 }),
     decide (s.trv.loading = none ∧ e = .graph { g with length := 2 } ∧ getE s (i.toNat + 1) = .node n ∧ plain n ∧ n.graph = i.toNat ∧ n.state = .idle),
     decide (s.trv.loading = none ∧ e = .node n ∧ plain n ∧ alone ∧ n.thr.getD (rdf s Reg.TRV_CMD_ARG0 2 0) 0 = 0 ∧ n.state = .running),
     decide (let p := rdf s Reg.TRV_CMD_ARG0 2 0; let k := rdf s Reg.TRV_CMD_ARG0 15 8; s.trv.loading = none ∧ e = .node n ∧ plain n ∧ alone ∧ getE s n.graph = .graph g ∧ n.state = .running ∧ p < 4 ∧ n.thr.getD p 0 ≠ 0 ∧ n.counts.getD p 0 + k ≤ 255 ∧ k ≤ g.free),
     decide (s.trv.loading = none ∧ e = .timer x ∧ getE s x.target = .node n ∧ firings s n.cluster = []),
     decide (s.trv.loading = none ∧ e = .timer x ∧ getE s x.target = .node n ∧ firings s n.cluster = [] ∧ s.trv.cycle = none),
     decide (s.trv.loading = none ∧ (isTimer e = true) ∧ s.trv.cycle = some oc ∧ oc.number = now ∧ oc.after = books s ∧ oc.evs = [.fire i.toNat] ∧ oc.before.regs.length = 5 ∧ SMap.get .free oc.before.entries i.toNat = .timer x ∧ SMap.get .free oc.before.entries x.target = .node n ∧ firings s n.cluster = []),
     decide (s.trv.loading = none ∧ e = .node n ∧ plain n ∧ n.state = .halted ∧ (∃ q ∈ List.zip n.counts n.thr, q.2 ≠ 0 ∧ q.1 < q.2)),
     decide (s.trv.loading = none ∧ e = .node n ∧ n.state ≠ .halted),
     decide (s.trv.loading = none ∧ 96 ≤ i.toNat),
     decide (let j := rdf s (Reg.TILE_TASK i.toNat) 14 0; s.trv.loading = none ∧ i.toNat < 96 ∧ rdb s (Reg.TILE_CTRL i.toNat) 0 = false ∧ (tileAt s i.toNat).wait = none ∧ rdb s (Reg.TILE_TASK i.toNat) 31 = true ∧ s.trv.cycle = none ∧ getE s j = .node n ∧ plain n ∧ getE s n.graph = .graph g ∧ n.state = .cancelPending),
     decide (let j := rdf s (Reg.TILE_TASK i.toNat) 14 0; s.trv.loading = none ∧ i.toNat < 96 ∧ rdb s (Reg.TILE_CTRL i.toNat) 0 = false ∧ (tileAt s i.toNat).wait = none ∧ rdb s (Reg.TILE_TASK i.toNat) 31 = true ∧ s.trv.cycle = none ∧ getE s j = .node n ∧ plain n ∧ getE s n.graph = .graph g ∧ n.state = .running ∧ rdf s Reg.TRV_CMD_ARG0 7 0 = 2),
     decide (s.trv.loading = none ∧ e = .free),
     decide (s.trv.loading = none ∧ e = .graph g),
     decide (s.trv.loading = none)]
  else []

def premises_TraverseControl (s : State) (who : Who) (v : Word) (base : Nat) (img : List Byte) : List Bool :=
  let c := Reg.TRV_CTRL
  let held : Prop := effMode s ∈ [0, 1, 2, 3, 11]
  if decide (Awake' s) then
    [decide (frozen s = false ∧ s.trv.loading = some ⟨base, img⟩ ∧ slice (imgW img 0 0) 15 0 = 2 ∧ imgKind img 0 = 1 ∧ imgKind img 1 = 2 ∧ (imgW img 1 0).testBit 15 = false ∧ (∃ q ∈ imgPorts img 1, q.2 ≠ 0 ∧ q.1 < q.2)),
     decide (passes s who c true = true ∧ v.getLsbD 0 = true ∧ ¬ held),
     decide (passes s who c true = true ∧ v.getLsbD 0 = true ∧ held),
     decide (passes s who c true = true ∧ v.getLsbD 0 = false),
     decide (passes s who Reg.TRV_TICK_CFG true = true ∧ rdb s c 0 = false),
     decide (passes s who Reg.TRV_TICK_CFG true = true ∧ rdb s c 0 = true),
     decide (passes s who Reg.TRV_AUD_SNAP true = true)]
  else []

def premises_QueuePush (s : State) (p : JqPush) (rest : List JqPush) (t0 : Nat) : List Bool :=
  let q := p.queue
  let x := queueAt s q
  if decide (Awake' s ∧ frozen s = false ∧ s.jq.disposal.length ≤ 768 ∧ s.jq.inbox = p :: rest ∧ p.frame = none ∧ (rest ≠ [] ∨ s.pkt.inq = [])) then
    [decide (x.en = false),
     decide (x.en = true ∧ x.fpend = false ∧ x.hi = 0 ∧ x.above = false ∧ x.mstate = .none ∧ x.rp ≤ x.wp ∧ x.rseq < 65536 ∧ x.place = false ∧ x.wp = x.rp ∧ s.jq.parked = [(t0, q)]),
     decide (x.en = true ∧ x.fpend = false ∧ x.hi = 0 ∧ x.above = false ∧ x.mstate = .none ∧ x.rp ≤ x.wp ∧ x.rseq < 65536 ∧ s.jq.parked = [] ∧ x.place = false ∧ x.wp - x.rp < depthOf x),
     decide (x.en = true ∧ x.fpend = false ∧ x.hi = 0 ∧ x.above = false ∧ x.mstate = .none ∧ x.rp ≤ x.wp ∧ x.rseq < 65536 ∧ s.jq.parked = [] ∧ x.place = false ∧ x.wp - x.rp = depthOf x),
     decide (let d := (p.seq + 65536 - x.rseq) % 65536; x.en = true ∧ x.fpend = false ∧ x.hi = 0 ∧ x.above = false ∧ x.mstate = .none ∧ x.rp ≤ x.wp ∧ x.rseq < 65536 ∧ s.jq.parked = [] ∧ x.place = true ∧ x.sync = true ∧ d < 32768 ∧ d < depthOf x ∧ x.rp + d < x.wp ∧ presentAt s x (x.rp + d) = false),
     decide (let d := (p.seq + 65536 - x.rseq) % 65536; x.en = true ∧ x.fpend = false ∧ x.hi = 0 ∧ x.above = false ∧ x.mstate = .none ∧ x.rp ≤ x.wp ∧ x.rseq < 65536 ∧ s.jq.parked = [] ∧ x.place = true ∧ x.sync = true ∧ d < 32768 ∧ d < depthOf x ∧ x.wp ≤ x.rp + d),
     decide (let d := (p.seq + 65536 - x.rseq) % 65536; x.en = true ∧ x.fpend = false ∧ x.hi = 0 ∧ x.above = false ∧ x.mstate = .none ∧ x.rp ≤ x.wp ∧ x.rseq < 65536 ∧ s.jq.parked = [] ∧ x.place = true ∧ x.sync = true ∧ d < 32768 ∧ d < depthOf x ∧ x.rp + d < x.wp ∧ presentAt s x (x.rp + d) = true),
     decide (let d := (p.seq + 65536 - x.rseq) % 65536; x.en = true ∧ x.fpend = false ∧ x.hi = 0 ∧ x.above = false ∧ x.mstate = .none ∧ x.rp ≤ x.wp ∧ x.rseq < 65536 ∧ s.jq.parked = [] ∧ x.place = true ∧ x.sync = true ∧ 32768 ≤ d)]
  else []

def premises_QueueRequest (s : State) (t0 : Nat) (op : JqOp) (sa : Nat) (rest : List JqReq) : List Bool :=
  let x := queueAt s sa
  let here := itemAtRp s x
  if decide (Awake' s ∧ frozen s = false ∧ s.jq.reqs = ⟨t0, op, sa⟩ :: rest) then
    [decide (s.jq.parked = [] ∧ ((65536 ≤ sa ∨ (queueAt s (sa % 65536)).en = false))),
     decide (s.jq.parked = [] ∧ sa < 65536 ∧ x.en = true ∧ x.hi = 0 ∧ x.above = false ∧ op = .take ∧ here = true),
     decide (s.jq.parked = [] ∧ sa < 65536 ∧ x.en = true ∧ x.hi = 0 ∧ x.above = false ∧ op = .take ∧ here = false),
     decide (s.jq.parked = [] ∧ sa < 65536 ∧ x.en = true ∧ x.hi = 0 ∧ x.above = false ∧ op = .peek),
     decide (s.jq.parked = [] ∧ sa < 65536 ∧ x.en = true ∧ x.hi = 0 ∧ x.above = false ∧ op = .skip ∧ x.rp = x.wp),
     decide (s.jq.parked = [] ∧ sa < 65536 ∧ x.en = true ∧ x.hi = 0 ∧ x.above = false ∧ op = .skip ∧ x.rp < x.wp ∧ presentAt s x x.rp = true),
     decide (s.jq.parked = [] ∧ sa < 65536 ∧ x.en = true ∧ x.hi = 0 ∧ x.above = false ∧ op = .skip ∧ x.rp < x.wp ∧ presentAt s x x.rp = false),
     decide (s.jq.parked = [] ∧ sa < 65536 ∧ x.en = true ∧ x.hi = 0 ∧ x.above = false ∧ op = .mark),
     decide (s.jq.parked = [] ∧ sa < 65536 ∧ x.en = true ∧ x.hi = 0 ∧ x.above = false ∧ op = .rewind ∧ x.mstate = .none),
     decide (s.jq.parked = [] ∧ sa < 65536 ∧ x.en = true ∧ x.hi = 0 ∧ x.above = false ∧ op = .rewind ∧ x.mstate = .lost),
     decide (s.jq.parked = [] ∧ sa < 65536 ∧ x.en = true ∧ x.hi = 0 ∧ x.above = false ∧ op = .rewind ∧ x.mstate = .valid ∧ x.place = false),
     decide (s.jq.parked = [(t0, sa)] ∧ x.hi = 0 ∧ x.above = false ∧ here = true)]
  else []

def premises_QueueCommand (s : State) (who : Who) (q : BitVec 16) : List Bool :=
  let x := queueAt s q.toNat
  let good : Prop := x.dcode ≤ 5 ∧ x.disc ≠ 3 ∧ x.hi ≤ depthOf x ∧ (x.hi = 0 ∨ x.lo < x.hi)
  let apart : Prop := ∀ e ∈ s.jq.queues, e.2.en = true → x.base + depthOf x ≤ e.2.base ∨ e.2.base + depthOf e.2 ≤ x.base
  if decide (Awake' s ∧ frozen s = false ∧ passes s who Reg.JQ_CMD true = true) then
    [decide (s.jq.heldPush ≠ none),
     decide (s.jq.heldPush = none ∧ 768 < s.jq.disposal.length),
     decide (s.jq.heldPush = none ∧ s.jq.disposal.length ≤ 768 ∧ s.jq.parked = [] ∧ ((x.hi = 0 → x.above = false)) ∧ x.en = false ∧ good ∧ x.base % depthOf x = 0 ∧ apart),
     decide (s.jq.heldPush = none ∧ s.jq.disposal.length ≤ 768 ∧ s.jq.parked = [] ∧ ((x.hi = 0 → x.above = false)) ∧ x.en = true),
     decide (s.jq.heldPush = none ∧ s.jq.disposal.length ≤ 768 ∧ s.jq.parked = [] ∧ ((x.hi = 0 → x.above = false)) ∧ x.en = false ∧ ¬ good),
     decide (s.jq.heldPush = none ∧ s.jq.disposal.length ≤ 768 ∧ s.jq.parked = [] ∧ ((x.hi = 0 → x.above = false)) ∧ x.en = false ∧ good ∧ x.base % depthOf x ≠ 0),
     decide (s.jq.heldPush = none ∧ s.jq.disposal.length ≤ 768 ∧ s.jq.parked = [] ∧ ((x.hi = 0 → x.above = false)) ∧ x.en = false ∧ good ∧ x.base % depthOf x = 0 ∧ ¬ apart),
     decide (s.jq.heldPush = none ∧ s.jq.disposal.length ≤ 768 ∧ s.jq.parked = [] ∧ ((x.hi = 0 → x.above = false)) ∧ x.en = true ∧ x.wp = x.rp ∧ x.above = false),
     decide (s.jq.heldPush = none ∧ s.jq.disposal.length ≤ 768 ∧ s.jq.parked = [] ∧ ((x.hi = 0 → x.above = false)) ∧ x.en = true ∧ x.fpend = false ∧ x.bnd = false),
     decide (s.jq.heldPush = none ∧ s.jq.disposal.length ≤ 768 ∧ s.jq.parked = [] ∧ ((x.hi = 0 → x.above = false)) ∧ x.en = true ∧ x.fpend = false ∧ x.bnd = true ∧ x.wp = x.rp ∧ x.hi = 0),
     decide (s.jq.heldPush = none ∧ s.jq.disposal.length ≤ 768 ∧ s.jq.parked = [] ∧ ((x.hi = 0 → x.above = false)) ∧ x.en = true ∧ x.wp = x.rp ∧ x.hi = 0),
     decide (s.jq.heldPush = none ∧ s.jq.disposal.length ≤ 768 ∧ s.jq.parked = [] ∧ ((x.hi = 0 → x.above = false)) ∧ x.en = true ∧ x.place = false ∧ x.wp - x.rp < depthOf x ∧ x.bind = false ∧ x.fpend = false ∧ x.hi = 0 ∧ x.mstate = .none),
     decide (s.jq.heldPush = none ∧ s.jq.disposal.length ≤ 768 ∧ s.jq.parked = [] ∧ ((x.hi = 0 → x.above = false)) ∧ x.en = true ∧ x.place = true ∧ x.wp = x.rp),
     decide (s.jq.heldPush = none ∧ s.jq.disposal.length ≤ 768 ∧ s.jq.parked = [] ∧ ((x.hi = 0 → x.above = false)) ∧ x.en = false),
     decide (s.jq.heldPush = none ∧ s.jq.disposal.length ≤ 768 ∧ s.jq.parked = [] ∧ ((x.hi = 0 → x.above = false)))]
  else []

def premises_QueueUpkeep (s : State) (who : Who) (q : BitVec 16) (d : Discard) (rest : List Discard) (e : Nat × Bool) (es : List (Nat × Bool)) : List Bool :=
  let k := rdf s Reg.JQ_DRING_CFG 3 0
  let head := (rd s Reg.JQ_DRING_HEAD).toNat
  if decide (Awake' s) then
    [decide (frozen s = false ∧ s.jq.disposal = d :: rest ∧ s.jq.heldPush = none ∧ 2 ≤ d.disc),
     decide (frozen s = false ∧ s.jq.disposal = d :: rest ∧ s.jq.heldPush = none ∧ d.disc = 1 ∧ ((rdb s Reg.JQ_DRING_CFG 8 = false ∨ (head + 2 * 2 ^ k - (rd s Reg.JQ_DRING_TAIL).toNat % (2 * 2 ^ k)) % (2 * 2 ^ k) = 2 ^ k))),
     decide (frozen s = false ∧ s.jq.disposal = d :: rest ∧ s.jq.heldPush = none ∧ d.disc = 1 ∧ rdb s Reg.JQ_DRING_CFG 8 = true ∧ (head + 2 * 2 ^ k - (rd s Reg.JQ_DRING_TAIL).toNat % (2 * 2 ^ k)) % (2 * 2 ^ k) ≠ 2 ^ k ∧ ((∀ r ∈ allRings, touches s (8 * rdf s Reg.JQ_DRING_BASE 22 3 + 8 * (head % 2 ^ k)) 8 r = false))),
     decide (passes s who Reg.JQ_EV_POP false = true ∧ s.jq.events = e :: es),
     decide (passes s who Reg.JQ_EV_POP false = true ∧ s.jq.events = []),
     decide (passes s who Reg.JQ_AUD_SNAP true = true),
     decide (passes s who (Reg.JQ_QREC_W0 q.toNat) false = true)]
  else []

def premises_Ring (s : State) (who : Who) (r : RingRef) (v : Word) : List Bool :=
  let d := ringDesc r
  let k := max 4 (min 10 (fld v 3 0))
  if decide (Awake' s) then
    [decide (passes s who d.cfg true = true ∧ v.getLsbD 12 = true ∧ ringOn s r = false ∧ ringFits (ringBase s r) d.esize k = true),
     decide (passes s who d.cfg true = true ∧ v.getLsbD 12 = true ∧ ringOn s r = false ∧ ringFits (ringBase s r) d.esize k = false),
     decide (passes s who (sramBase + ringBase s r) true = true ∧ inGeneral (sramBase + ringBase s r) 4 = false),
     decide (passes s who (sramBase + ringBase s r) true = true ∧ inGeneral (sramBase + ringBase s r) 4 = true ∧ ringOn s r = true)]
  else []

def premises_SampleRateJob (s u : State) (e : Fin 4) (r : Fin 16) (stage : SreStage) (code sat used out : Nat) (job : SreJob) (js : List SreJob) (h : List Byte) (sec : List (List Byte)) (b0 b1 : Byte) (ws : List MemOut) : List Bool :=
  let ring : RingRef := .sre r
  let i := ringNext s ring
  let off := ringEntry s ring i
  let entry := sramGet s off 64
  let j := job.entry
  let rq := srePort s job.engine job.ring
  if decide (Awake' s ∧ frozen s = false) then
    [decide (sreCanFetch s e.val = true ∧ bestRing s (sreRings s e.val) = some ring ∧ s.sre.load = none ∧ sreOpen s (srePort s e.val r) entry = (stage, u) ∧ u.sre = s.sre),
     decide (s.sre.jobs = job :: js ∧ job ∉ js ∧ job.engine = e.val ∧ job.stage = .ready h sec ∧ wdf j 3 31 16 = 1 ∧ wdf j 5 31 16 = 1 ∧ wd j 6 = 0 ∧ wd h 0 = 0x01005000 ∧ memRead s rq (wdAddr j 2) 2 = (some [b0, b1], u) ∧ u.sre = s.sre),
     decide (s.sre.jobs = job :: js ∧ job ∉ js ∧ job.engine = e.val ∧ job.stage = .ready h sec ∧ memRead s rq (wdAddr j 2) (sreBufLen (wdf h 0 15 14) (wdf j 3 31 16)) = (none, u) ∧ u.sre = s.sre),
     decide (s.sre.jobs = job :: js ∧ job.engine = e.val ∧ job.stage = .ended code sat used out ws ∧ memWrites rq ws s = (true, u) ∧ u.sre = s.sre)]
  else []

def premises_CoefficientLoad (s u : State) (who : Who) (b a : Nat) (img : List Byte) : List Bool :=
  let from' := 64 * rdf s Reg.SRE_CMD_ARG0 31 6 + 2 ^ 32 * rdf s Reg.SRE_CMD_ARG1 15 0
  if decide (Awake' s) then
    [decide (passes s who Reg.SRE_CMD true = true ∧ s.sre.load = none ∧ rdf s Reg.SRE_CMD_ARG0 5 4 = 0 ∧ inDram s from' 8192 = true),
     decide (passes s who Reg.SRE_CMD true = true ∧ s.sre.load = none ∧ ((rdf s Reg.SRE_CMD_ARG0 5 4 ≠ 0 ∨ inDram s from' 8192 = false))),
     decide (passes s who Reg.SRE_CMD true = true ∧ s.sre.load ≠ none),
     decide (s.sre.load = some (b, a) ∧ ((∀ j ∈ s.sre.jobs, b ∉ j.banks ∧ j.stage ≠ .waiting)) ∧ memRead s ⟨13, 1, none⟩ a 8192 = (some img, u) ∧ u.sre = s.sre),
     decide (s.sre.load = some (b, a) ∧ ((∀ j ∈ s.sre.jobs, b ∉ j.banks ∧ j.stage ≠ .waiting)) ∧ memRead s ⟨13, 1, none⟩ a 8192 = (none, u) ∧ u.sre = s.sre)]
  else []

def premises_BilletJob (s u : State) (ring : Fin 16) (code : Nat) (good : Bool) (job : BilJob) (js : List BilJob) (w : Nat → BitVec 167) (bs : List Byte) : List Bool :=
  let rr : RingRef := .bil ring
  let i := ringNext s rr
  let off := ringEntry s rr i
  let entry := sramGet s off 32
  let j := job.entry
  let tile := bilTile j
  let wa := bilWa j + 4 * job.done
  let size := bilBytes (bilRatio j)
  let at' := bilAddr j + job.done * size
  let lone : Prop := s.bil.jobs = job :: js ∧ job.ring = ring ∧ ∀ x ∈ js, x.ring ≠ ring
  let ready : Prop := lone ∧ job.ended = none ∧ (tileAt s tile).fill = false ∧ job.done + 1 = bilCount j
  if decide (Awake' s ∧ frozen s = false) then
    [decide (rdb s Reg.BIL_CTRL 0 = true ∧ gateAsked s 83 = false ∧ s.bil.jobs.length < 4 ∧ bestRing s (bilRings s) = some rr),
     decide (ready ∧ wdf j 3 31 31 = 0 ∧ gated s (tile / 2) = false ∧ ((∀ k ∈ List.range 4, Holds' s tile (wa + k) (w k))) ∧ memWrite s (bilPort j) at' (bilEncode (bilRatio j) (bilRnd j) (wdf j 3 9 0) [w 0, w 1, w 2, w 3]).1 = (true, u) ∧ u.bil = s.bil),
     decide (ready ∧ wdf j 3 31 31 = 1 ∧ gated s (tile / 2) = false ∧ memRead s (bilPort j) at' size = (some bs, u) ∧ u.bil = s.bil ∧ bilDecode (bilRatio j) bs = some ([w 0, w 1, w 2, w 3], good) ∧ ((good = true ∨ wdf j 3 26 26 = 0))),
     decide (ready ∧ wdf j 3 31 31 = 1 ∧ gated s (tile / 2) = false ∧ memRead s (bilPort j) at' size = (some bs, u) ∧ u.bil = s.bil ∧ bilDecode (bilRatio j) bs = some ([w 0, w 1, w 2, w 3], false) ∧ wdf j 3 26 26 = 1),
     decide (ready ∧ wdf j 3 31 31 = 1 ∧ gated s (tile / 2) = false ∧ memRead s (bilPort j) at' size = (some bs, u) ∧ u.bil = s.bil ∧ bilDecode (bilRatio j) bs = none),
     decide (lone ∧ job.ended = none ∧ (tileAt s tile).fill = true ∧ .billet ring ∉ (tileAt s tile).heldAcc ∧ wdf j 3 31 31 = 0),
     decide (ready ∧ gated s (tile / 2) = true ∧ wdf j 3 31 31 = 0),
     decide (ready ∧ gated s (tile / 2) = true ∧ wdf j 3 31 31 = 1),
     decide (lone ∧ job.ended = some code)]
  else []

def premises_DeflateJob (s v u : State) (ring : Fin 4) (code used out : Nat) (job : DflJob) (inp : List Byte) : List Bool :=
  let rr : RingRef := .dfl ring
  let i := ringNext s rr
  let off := ringEntry s rr i
  let entry := sramGet s off 64
  let j := job.entry
  let r := dflResult s j inp
  let rq := accelPort 6 (wdf j 8 21 20)
  let read : Prop := s.dfl.job = some job ∧ job.ended = none ∧ memRead s rq (wdAddr j 2) (wdf j 4 23 0) = (some inp, v) ∧ v.dfl = s.dfl ∧
      memWrite v rq (wdAddr j 5) r.1 = (true, u) ∧ u.dfl = s.dfl
  let lost : Prop := s.dfl.job = some job ∧ job.ended = none ∧ memRead s rq (wdAddr j 2) (wdf j 4 23 0) = (none, v) ∧ v.dfl = s.dfl
  if decide (Awake' s ∧ frozen s = false) then
    [decide (rdb s Reg.DFL_CTRL 0 = true ∧ gateAsked s 84 = false ∧ s.dfl.job = none ∧ bestRing s ((after 4 s.dfl.last.val).map (fun r => .dfl (Fin.ofNat 4 r))) = some rr),
     decide (read ∧ wdf j 8 31 30 = 0),
     decide (read ∧ wdf j 8 31 30 = 1),
     decide (True),
     decide (lost ∧ wdf j 8 31 30 = 0),
     decide (lost ∧ wdf j 8 31 30 = 1),
     decide (s.dfl.job = some job ∧ job.ring = ring ∧ job.ended = some (code, used, out))]
  else []

def premises_DramRequest (s : State) (port : Fin 16) (src : Nat) (cls : Option (BitVec 2)) (addr : Addr) (data : List Byte) : List Bool :=
  let a := addr.toNat
  let p := port.val
  let rq : Requester := ⟨p, src, cls.map (·.toNat)⟩
  let d := data.take (64 - a % 64)
  let ch := chanOf s a
  let blk := localOf s a / 64 * 64
  let cell := cellOf s ch blk
  let word (k : Nat) : Nat := leNat (getBytes s.dram (cell + 8 * k) 8) + 2 ^ 64 * (chkByte s rq ch (blk + 8 * k)).1.toNat
  let good (k : Nat) : Prop := isGood (eccDecode 64 7 (word k)) = true
  let seeded' : Prop := blk < SMap.get 0 s.dmc.seedPos ch
  let cached : Prop := ∃ e ∈ chkCache s ch, e.blk = chkAddr s blk / 64
  let inside : Prop := a / 64 * 64 + 64 ≤ installed s
  let enabled := rdb s Reg.DMC_CTRL 0
  let on : Prop := (dmcFrozen s = false ∨ p = 15) ∧ enabled = true ∧ inside
  let free : Prop := dmcHeld s p = [] ∧ entryFree (dmcQueue s ch) p = true ∧ isChanging s.dmc.freq = false
  if decide (Awake' s) then
    [decide (on ∧ free ∧ ((¬ seeded' ∨ (cached ∧ ∀ k ∈ List.range 8, good k)))),
     decide (on ∧ free ∧ seeded' ∧ cached ∧ dmcFrozen s = false),
     decide (on ∧ free ∧ 0 < data.length ∧ cached ∧ a % 8 = 0 ∧ d.length % 8 = 0),
     decide (on ∧ free ∧ 0 < data.length ∧ cached ∧ ¬ seeded'),
     decide (on ∧ ¬ free),
     decide (((dmcFrozen s = false ∨ p = 15)) ∧ ((enabled = false ∨ ¬ inside))),
     decide (dmcFrozen s = true ∧ p ≠ 15)]
  else []

def premises_DramScheduling (s : State) (ch : Fin 4) (kind : Fin 5) (port : Fin 16) (ready : List Nat) (i : Nat) (r : DmcReq) : List Bool :=
  let q := dmcQueue s ch.val
  let bi := bankIx s ch.val r.loc
  let b := bank s bi
  let chosen : Prop := i ∈ ready ∧ q[i]? = some r ∧
      ∀ j ∈ ready, ∀ r' ∈ q[j]?.toList, j ≠ i → reqKey s ch.val i r < reqKey s ch.val j r'
  let worn : Bool := decide (rdf s Reg.DMC_SCHED 7 0 ≤ b.hits) && otherRowWaits s ch.val i r
  if decide (Awake' s) then
    [decide (s.dmc.held = [] ∧ ((∀ j ∈ ready, q.length ≤ j))),
     decide (s.dmc.held = [] ∧ chosen ∧ b.openRow = none),
     decide (s.dmc.held = [] ∧ chosen ∧ r.ch = ch.val ∧ r.port < 16 ∧ b.openRow = some (reqRow s r) ∧ worn = false),
     decide (s.dmc.held = []),
     decide (kind.val = 0),
     decide (kind.val ≠ 0 ∧ dmcFrozen s = false)]
  else []

def premises_DramUpkeep (s : State) (ch : Fin 4) (rank : Fin 2) (bk : Fin 16) (postpone : Bool) (who : Who) (v : Word) (t0 tg iv : Nat) : List Bool :=
  let rk := ch.val * 2 + rank.val
  let i := rk * 16 + bk.val
  let b := bank s i
  let fresh' := max b.due s.dmc.allRefreshed + iv
  let awake' : Prop := rankExists s ch.val rank.val = true ∧ s.dmc.selfRefresh = false ∧ rdb s Reg.DMC_CTRL 0 = true
  let r := retrain s ch.val
  let due := r.last + retrainInterval s
  let u := notBefore s due
  let stat := Reg.DMC_STAT
  let asked : Prop := passes s who Reg.DMC_FREQ true = true ∧ v.getLsbD 8 = true
  let fits : Prop := rdf s (Reg.DMC_TSET_W (shadowSet s) 3) 11 10 = fld v 5 4
  let p := SMap.get 0 s.dmc.scrubPos ch.val
  let l := SMap.get 0 s.dmc.seedPos ch.val
  if decide (Awake' s) then
    [decide (¬ awake'),
     decide (awake' ∧ postpone = false ∧ 0 < b.owed),
     decide (awake' ∧ fresh' < 2 ^ 64 ∧ postpone = true ∧ dmcQueue s ch.val ≠ [] ∧ b.owed < 8),
     decide (awake' ∧ fresh' < 2 ^ 64 ∧ ((postpone = false ∨ dmcQueue s ch.val = [] ∨ 8 ≤ b.owed)) ∧ ((postpone = true ∨ b.owed = 0))),
     decide (rankExists s ch.val rank.val = true ∧ SMap.get 0 s.dmc.mr4Last rk + 40000000 < 2 ^ 64),
     decide (rdb s Reg.DMC_RETRAIN 31 = true ∧ rdb s Reg.DMC_CTRL 0 = true ∧ r.gather = none ∧ s.dmc.freq = .idle ∧ ch.val < dmcChans s ∧ foreground u ch.val = false),
     decide (rdb s Reg.DMC_RETRAIN 31 = true ∧ rdb s Reg.DMC_CTRL 0 = true ∧ r.gather = none ∧ s.dmc.freq = .idle ∧ ch.val < dmcChans s ∧ foreground u ch.val = true),
     decide (s.dmc.freq ≠ .idle),
     decide (r.gather = some t0),
     decide (asked ∧ freqBusy s = true),
     decide (asked ∧ freqBusy s = false ∧ ¬ fits),
     decide (asked ∧ freqBusy s = false ∧ fits ∧ dmcFrozen s = true),
     decide (asked ∧ freqBusy s = false ∧ fits ∧ dmcFrozen s = false ∧ fld v 5 4 = rdf s Reg.DMC_FREQ 1 0),
     decide (asked ∧ freqBusy s = false ∧ fits ∧ dmcFrozen s = false ∧ fld v 5 4 ≠ rdf s Reg.DMC_FREQ 1 0),
     decide (s.dmc.freq = .deferred tg),
     decide (s.dmc.freq = .changing tg ∧ tg < 4 ∧ s.dmc.held = []),
     decide (ch.val < dmcChans s ∧ rdb s Reg.DMC_SCRUB_CTRL 16 = true ∧ rdb s Reg.DMC_CTRL 0 = true ∧ dmcFrozen s = false ∧ dmcData s ≤ l ∧ ((isChanging s.dmc.freq = false)) ∧ p < dmcData s),
     decide (ch.val < dmcChans s ∧ rdb s Reg.DMC_SCRUB_CTRL 16 = true ∧ rdb s Reg.DMC_CTRL 0 = true ∧ dmcFrozen s = false ∧ dmcData s ≤ l ∧ ((isChanging s.dmc.freq = false)) ∧ dmcData s ≤ p),
     decide (rdb s stat 5 = true ∧ ch.val < dmcChans s ∧ l < dmcData s ∧ ((isChanging s.dmc.freq = false))),
     decide (passes s who Reg.DMC_CTRL true = true ∧ rdb s Reg.DMC_CTRL 31 = false ∧ rdb s Reg.DMC_CTRL 0 = false ∧ v.getLsbD 0 = true),
     decide (passes s who Reg.DMC_CTRL true = true ∧ rdb s Reg.DMC_CTRL 31 = true),
     decide (passes s who Reg.DMC_CTRL true = true ∧ rdb s Reg.DMC_CTRL 31 = false ∧ rdb s Reg.DMC_CTRL 0 = true ∧ v.getLsbD 0 = false),
     decide (passes s .bmk (Reg.DMC_RNG_SEED 1) true = true),
     decide (True)]
  else []

def premises_CipherCommand (s u : State) (who : Who) (page : Fin 64) (kek : Fin 16) (slot : BitVec 12) (v : Word) (b p : List Byte) (k : Keys) (rtcp : Bool) : List Bool :=
  let p' := page.val
  let n := slot.toNat
  let st := Reg.CIP_U_CMD_STAT p'
  let addr := rd2 s (Reg.CIP_U_ARG0 p') (Reg.CIP_U_ARG1 p')
  let len := rdf s (Reg.CIP_U_ARG2 p') 7 0
  let may : Prop := passes s who (Reg.CIP_U_CMD p') true = true ∧ frozen s = false
  let heard : Prop := may ∧ rdb s st 31 = false ∧ s.cip.cmds = []
  let alone : Prop := heard ∧ cipRunning s = true
  let ready : Prop := alone ∧ ∃ c ∈ List.range 8, coreOpen s c = true
  let waits : Prop := heard ∧ s.cip.seeded = true ∧ ∀ c ∈ List.range 8, (if cipRunning s then coreOpen s c else coreFree s c) = false
  let s1 := wrb s st 31 true
  let key := SMap.get [] s.cip.keks kek.val
  let placed (m : Nat) : Prop := addr % 8 = 0 ∧ inMem s addr m = true
  let sized : Prop := len = 40 ∨ len = 48 ∨ len = 56 ∨ len = 64 ∨ len = 80
  let fetched : Prop := ready ∧ inRange s p' n = true ∧ placed len ∧ sized ∧ kekValid s kek.val = true
  let got : Prop := fetched ∧ memRead s1 cipPort addr len = (some b, u)
  let mine := slotBytes s n
  let x := slotSuite mine
  let pair : Prop := (x = 3 ∨ x = 4) ∧ slotSecond mine = false
  let own : Prop := ownsSlot s p' n x = true
  let full : Prop := 1 ≤ x ∧ x ≤ 6 ∧ slotSecond mine = false
  let size := blobLen (plainLen x true)
  let base := fld v 11 0
  let count := fld v 28 16
  if decide (Awake' s) then
    [decide (ready ∧ inRange s p' n = false),
     decide (ready ∧ inRange s p' n = true ∧ ¬ placed len),
     decide (ready ∧ inRange s p' n = true ∧ placed len ∧ ¬ sized),
     decide (ready ∧ inRange s p' n = true ∧ placed len ∧ sized ∧ kekValid s kek.val = false),
     decide (fetched ∧ memRead s1 cipPort addr len = (none, u)),
     decide (got ∧ keyUnwrap key b = none),
     decide (got ∧ keyUnwrap key b = some p ∧ blobKeys p len = none),
     decide (got ∧ keyUnwrap key b = some p ∧ blobKeys p len = some (k, rtcp) ∧ ownsSlot u p' n k.suite = false),
     decide (got ∧ keyUnwrap key b = some p ∧ blobKeys p len = some (k, rtcp) ∧ ownsSlot u p' n k.suite = true),
     decide (alone ∧ inRange s p' n = true ∧ ((pair → inRange s p' (n + 1) = true))),
     decide (alone ∧ ((inRange s p' n = false ∨ (pair ∧ inRange s p' (n + 1) = false)))),
     decide (ready ∧ inRange s p' n = true ∧ full ∧ own ∧ placed size ∧ kek.val ≠ 0 ∧ kekValid s kek.val = true),
     decide (ready ∧ ((inRange s p' n = false ∨ (full ∧ ¬ own)))),
     decide (ready ∧ inRange s p' n = true ∧ full ∧ own ∧ ¬ placed size),
     decide (ready ∧ inRange s p' n = true ∧ full ∧ own ∧ placed size ∧ ((kek.val = 0 ∨ kekValid s kek.val = false))),
     decide (ready ∧ inRange s p' n = true ∧ ((x = 0 ∨ slotSecond mine = true)) ∧ placed 0 ∧ kek.val ≠ 0 ∧ kekValid s kek.val = true),
     decide (waits),
     decide (may ∧ rdb s st 31 = true),
     decide (may ∧ rdb s st 31 = false ∧ s.cip.seeded = false),
     decide (may ∧ rdb s st 31 = false),
     decide (passes s who (Reg.CIP_U_CMD p') true = true ∧ frozen s = true),
     decide (passes s who (Reg.CIP_PAGE_SLOTS p') true = true ∧ slotsRefusal s p' base count = 0),
     decide (passes s who (Reg.CIP_PAGE_SLOTS p') true = true ∧ slotsRefusal s p' base count ≠ 0),
     decide (True)]
  else []

def premises_CipherJob (s u v : State) (core : Fin 8) (pg : Fin 64) (i : Ingress) (rest : List Ingress) (j : CipJob) (js : List CipJob) (e : CipEnd) (x : CipCmd) (xs : List CipCmd) (p c : List Byte) : List Bool :=
  let ring : RingRef := .cip pg
  let mayRun := (cipOrder s).filter (headStarts s)
  let picks (ps : List (Fin 64)) : Option RingRef := bestRing s (ps.map .cip)
  let ctx := rd2 s Reg.PKT_FLOW_BASE_LO Reg.PKT_FLOW_BASE_HI + 64 * i.flow + 32
  let held (unprot : Bool) : Prop := s.cip.jobs = j :: js ∧ j ∉ js ∧ j.core = core.val ∧ j.ended = none ∧ j.req.unprot = unprot
  let read : Prop := j.pre = 0 ∧ memRead s (jobPort j.req) j.req.inAddr j.req.inLen = (some p, u) ∧ u.cip = s.cip
  let apart : Prop := flowBusy s i.flow = false ∧ ctxBusy s ctx = false
  let none' : Prop := picks (mayRun.filter (aged s)) = none
  if decide (Awake' s ∧ frozen s = false) then
    [decide (coreFree s core.val = true ∧ s.cip.cmds = x :: xs),
     decide (coreFree s core.val = true ∧ s.cip.cmds = [] ∧ picks (mayRun.filter (aged s)) = some ring),
     decide (coreFree s core.val = true ∧ s.cip.cmds = [] ∧ none' ∧ s.cip.ingress = i :: rest ∧ apart),
     decide (coreFree s core.val = true ∧ s.cip.cmds = [] ∧ none' ∧ ((s.cip.ingress = [] ∨ (s.cip.ingress = i :: rest ∧ ¬ apart))) ∧ picks mayRun = some ring),
     decide (coreFree s core.val = true ∧ s.cip.cmds = [] ∧ ((s.cip.ingress = [] ∨ (s.cip.ingress = i :: rest ∧ ¬ apart))) ∧ picks mayRun = none ∧ none'),
     decide (coreFree s core.val = false ∧ coreOpen s core.val = true ∧ s.cip.cmds = x :: xs ∧ x.taken = true),
     decide (coreFree s core.val = false ∧ coreOpen s core.val = true ∧ s.cip.cmds = [] ∧ s.cip.ingress = i :: rest ∧ apart),
     decide (coreFree s core.val = false ∧ coreOpen s core.val = false),
     decide (held false ∧ j.pre ≠ 0),
     decide (held true ∧ j.pre ≠ 0),
     decide (held false ∧ read),
     decide (held true ∧ read ∧ memRead u (jobPort j.req) j.req.ctx 32 = (some c, v) ∧ v.cip = s.cip),
     decide (held false ∧ j.pre = 0 ∧ memRead s (jobPort j.req) j.req.inAddr j.req.inLen = (none, u) ∧ u.cip = s.cip),
     decide (s.cip.jobs = j :: js ∧ j.ended = some e ∧ j.ingress = none ∧ memWrites (jobPort j.req) e.writes s = (true, u) ∧ u.cip = s.cip),
     decide (s.cip.jobs = j :: js ∧ j.ended = some e ∧ j.ingress = some i ∧ e.code ≠ 0),
     decide (let s2 := inc { s with cip := { s.cip with jobs := js, results := s.cip.results ++ [(i, e)] } } Reg.CIP_INGRESS_JOBS; s.cip.jobs = j :: js ∧ j.ended = some e ∧ j.ingress = some i ∧ e.code = 0 ∧ memWrites (jobPort j.req) (e.writes.take 1) s2 = (true, u) ∧ u.cip = s2.cip)]
  else []

def premises_FrameReception (s u v : State) (port : Fin 16) (frame : List Byte) (good : Bool) (raw : BitVec 80) (plan : Nat × Nat × Nat) (fid f q tc : Nat) (entry : List Byte) (udp : Parsed) (i : Ingress) (e : CipEnd) (us : List Ingress) (rs : List (Ingress × CipEnd)) (gs : List Nat) : List Bool :=
  let n := port.val
  let up : Prop := 3 ≤ mode s ∧ portOn s n = true ∧ linkUp s n = true
  let counted := addc (inc s (Reg.ETH_RX_FRAMES n)) (Reg.ETH_RX_BYTES n) (frame.length + 4)
  let plain : Prop := isFabric frame = false
  let x := corrX raw.toNat (rxCorr s n)
  let kept := (storeFrame counted ⟨n, frame, 0, 0, 0, 1, x, ntAtX counted x⟩ plan).2
  let planned : Prop := cellPlan s (arrivalCells frame) n (frame.length + 4) = some plan
  let idle : Prop := s.pkt.inq = [] ∧ s.jq.inbox = []
  let s1 : State := { s with pkt := { s.pkt with inq := [] } }
  let fr := frameAt s fid
  let p := udpPay fr.data udp
  let rtp : Prop := frozen s = false ∧ s.pkt.inq = [(fid, .rtp f entry)] ∧ rtpWaits s f entry = false
  let bad : Prop := p.length < 12 ∨ be p 0 1 / 64 ≠ 2
  let pt := be p 1 1 % 128
  let good' : Prop := ¬ bad ∧ (pt < 72 ∨ 76 < pt)
  let known : Prop := wdf entry 0 29 29 = 0 ∨ srcOk entry udp = true
  let room := granSize s - 8
  let fits : Prop := (wdf entry 0 30 30 = 0 ∧ (queueAt s (wdf entry 0 15 0)).place = false) ∨ p.length ≤ room
  let need := (p.length + granSize s - 9) / room
  let take : Prop := granAllocs need s1 = (gs, u) ∧ writeGrans u (monoOf fr.x) gs p = (true, v)
  let none' : Prop := s.pkt.flowCmd = none ∧ frozen s = false
  if decide (Awake' s) then
    [decide (¬ up),
     decide (up ∧ frozen s = true ∧ plain),
     decide (up ∧ frozen s = false ∧ plain ∧ cellPlan s .port n (frame.length + 4) = none),
     decide (up ∧ frozen s = false ∧ planned ∧ ((good = false ∨ frame.length + 4 < 64 ∨ 9216 < frame.length + 4))),
     decide (up ∧ frozen s = false ∧ mode s ≠ 3 ∧ planned ∧ good = true ∧ 60 ≤ frame.length ∧ frame.length ≤ 9212 ∧ isFabric frame = true ∧ idle),
     decide (up ∧ frozen s = false ∧ planned ∧ idle ∧ classify kept n frame good = (some (.forward q tc), u) ∧ u.pkt.inq = [] ∧ u.jq.inbox = []),
     decide (up ∧ frozen s = false ∧ planned ∧ idle ∧ classify kept n frame good = (some (.rtp f entry), u) ∧ u.pkt.inq = []),
     decide (up ∧ frozen s = false ∧ mode s = 3 ∧ planned ∧ good = true ∧ 60 ≤ frame.length ∧ frame.length ≤ 9212 ∧ (((isHello frame = false ∧ (isFabric frame = true ∨ isPause frame = true ∨ ptpOff frame = none)) ∨ tokens s n = 0))),
     decide (rtp ∧ parseUdp fr.data = some udp ∧ bad),
     decide (rtp ∧ parseUdp fr.data = some udp ∧ good' ∧ ¬ known),
     decide (rtp ∧ parseUdp fr.data = some udp ∧ good' ∧ known ∧ ¬ fits),
     decide (rtp ∧ parseUdp fr.data = some udp ∧ good' ∧ known ∧ fits ∧ gFree s < need),
     decide (rtp ∧ parseUdp fr.data = some udp ∧ good' ∧ known ∧ fits ∧ need ≤ gFree s ∧ take ∧ wdf entry 0 30 30 = 0),
     decide (rtp ∧ parseUdp fr.data = some udp ∧ good' ∧ known ∧ fits ∧ need ≤ gFree s ∧ take ∧ wdf entry 0 30 30 = 1),
     decide (s.pkt.inq = [(fid, .rtp f entry)] ∧ ((frozen s = true ∨ rtpWaits s f entry = true))),
     decide (none' ∧ s.pkt.unprot = i :: us ∧ ingressAccepted s = true),
     decide (none' ∧ s.pkt.unprot = i :: us ∧ ingressAccepted s = false),
     decide (none' ∧ s.cip.results = (i, e) :: rs ∧ e.code = 0),
     decide (none' ∧ s.cip.results = (i, e) :: rs ∧ e.code ≠ 0),
     decide (s.pkt.refillAt + 1250000 < 2 ^ 64)]
  else []

def premises_PacketCommand (s u : State) (who : Who) (flow : BitVec 16) (v : Word) (ring : Fin 4) (code : Nat) (ok : Bool) : List Bool :=
  let st := Reg.PKT_FLOW_CMD_STAT
  let may : Prop := passes s who Reg.PKT_FLOW_CMD true = true
  let n := flow.toNat
  let addr := rd2 s Reg.PKT_FLOW_CMD_ARG0 Reg.PKT_FLOW_CMD_ARG1 % 2 ^ 48
  let entry := flowAddr s n
  let ready : Prop := may ∧ rdb s st 31 = false ∧ s.pkt.flowCmd = none ∧ flowInFlight s n = false ∧ frozen s = false
  let placed : Prop := addr % 64 = 0 ∧ inMem s addr 64 = true
  let inside : Prop := n < rdf s Reg.PKT_FLOW_CFG 16 0
  let s1 := wrb s st 31 true
  let r : RingRef := .gret ring
  let i := ringNext s r
  let item := leNat (sramGet s (ringEntry s r i) 4)
  if decide (Awake' s) then
    [decide (may ∧ rdb s st 31 = true),
     decide (may ∧ rdb s st 31 = false ∧ ((flowInFlight s n = true ∨ frozen s = true))),
     decide (ready ∧ ¬ placed),
     decide (ready ∧ placed ∧ ¬ inside),
     decide (ready ∧ ¬ inside),
     decide (ready ∧ placed ∧ inside ∧ copy64 s1 addr entry = (code, u)),
     decide (ready ∧ placed ∧ inside ∧ copy64 s1 entry addr = (code, u)),
     decide (ready ∧ inside ∧ memWrite s1 pktPort entry (List.replicate 64 0) = (ok, u) ∧ code = (if ok then 0 else 4)),
     decide (passes s who Reg.PKT_FWD_W2 true = true),
     decide (passes s who Reg.PKT_CTRL true = true ∧ rdb s Reg.PKT_CTRL 31 = false ∧ rdb s Reg.PKT_CTRL 0 = false ∧ v = 1 ∧ frozen s = false),
     decide (passes s who Reg.PKT_CTRL true = true ∧ rdb s Reg.PKT_CTRL 31 = false ∧ v = 1 ∧ frozen s = true),
     decide (passes s who Reg.PKT_CTRL true = true ∧ rdb s Reg.PKT_CTRL 31 = false ∧ v.getLsbD 0 = false),
     decide (frozen s = false ∧ ringReady s r = true ∧ (2 ^ 24 ≤ item ∨ granCount s ≤ item)),
     decide (frozen s = false ∧ ringReady s r = true ∧ item < granCount s),
     decide (passes s who Reg.PKT_AUD_SNAP true = true)]
  else []

def premises_FrameTransmission (s u v : State) (ring port : Fin 16) (cls : Fin 8) (x : TxFrame) (w : OnWire) (h : TxHold) (plan : Nat × Nat × Nat) (hd pl d g : List Byte) (lt : Nat) (ab : BitVec 8) : List Bool :=
  let r : RingRef := .txr ring
  let i := ringNext s r
  let off := ringEntry s r i
  let entry := sramGet s off 64
  let job : TxJob := ⟨ring.val, i, off, (wd entry 6).testBit 21⟩
  let s1 := setRingNext s r (i + 1)
  let cons := Reg.PKT_TXR_CONS ring.val
  let fetch : Prop := frozen s = false ∧ holdAt s ring.val = none ∧ ringReady s r = true
  let alone : Prop := s.pkt.done = [] ∧ (rd s cons).toNat = i ∧ ringBase s r + 8 ≤ off + 56
  let good : Prop := txJobBad s entry = false ∧ txAddrBad s entry (txPayLen entry) = false ∧ txGate entry = false
  let len := txPayLen entry
  let size := txHdrLen entry + len + 4
  let k := egKey (txPort entry) (txClass entry)
  let built : Prop := cellPlan s .shared 16 size = some plan ∧ memRead s1 pktPort (wdAddr entry 0) (txHdrLen entry) = (some hd, u) ∧
      memRead u pktPort (wdAddr entry 3) len = (some pl, v)
  let poll : Prop := frozen s = false ∧ holdAt s ring.val = some h ∧ h.len = none ∧ h.job.ring = ring.val ∧ s.pkt.done = [] ∧
      (rd u cons).toNat = h.job.index ∧ ringBase u r + 8 ≤ h.job.off + 56 ∧
      memRead (notBefore s (h.since + 1250 * (h.polls + 1))) pktPort (wdAddr h.bytes 9) 8 = (some g, u)
  let limit := rdf s Reg.PKT_TX_CFG 9 0
  let p := port.val
  let n := notBefore s (SMap.get 0 s.pkt.idleAt p)
  let heads : Prop := ∀ c ∈ List.range 8, ∀ y ∈ (egAt s (egKey p c)).head?.toList, y.judged = true
  let can (c : Nat) : Prop := ∃ y ∈ (egAt n (egKey p c)).head?.toList, offers n p c = true ∧ paused n p c = false ∧
      collides n p c (frameAt n y.fid).data.length = false
  let free : Prop := frozen s = false ∧ 3 ≤ mode s ∧ portOn s p = true ∧ linkUp s p = true ∧ wireAt s p = none
  let q := egKey p cls.val
  let last (y : TxFrame) : Prop := y.kind = .fwd ∧ (frameAt s y.fid).refs ≤ 1
  if decide (Awake' s) then
    [decide (fetch ∧ alone ∧ txJobBad s entry = true),
     decide (fetch ∧ alone ∧ txJobBad s entry = false ∧ txAddrBad s entry len = true),
     decide (fetch ∧ good ∧ txHdrLen entry + len ≤ 9212 ∧ cellPlan s .shared 16 size = none),
     decide (fetch ∧ good ∧ txHdrLen entry + len ≤ 9212 ∧ built ∧ txSums entry (hd ++ pl) = some d ∧ txLaunch entry = false ∧ egAt s k = []),
     decide (poll ∧ wdf g 0 31 31 = 0 ∧ h.polls + 1 < limit),
     decide (poll ∧ wdf g 0 31 31 = 0 ∧ limit ≤ h.polls + 1),
     decide (poll ∧ wdf g 0 31 31 = 1 ∧ wdf g 0 30 27 ≠ 0),
     decide (frozen s = false ∧ heads ∧ egAt s q = x :: [] ∧ rdb s (Reg.ETH_TC_CFG p cls.val) 0 = true ∧ x.launch = some lt),
     decide (free ∧ heads ∧ egAt s q = [x] ∧ x.kind = .fwd ∧ can cls.val ∧ ((∀ c ∈ List.range 8, cls.val < c → ¬ can c))),
     decide (free ∧ heads ∧ ((∀ c ∈ List.range 8, ¬ can c))),
     decide (¬ free),
     decide (wireAt s p = some w ∧ w.stop < 2 ^ 64 ∧ frozen s = false ∧ last w.tx),
     decide (wireAt s p = some w ∧ w.stop < 2 ^ 64 ∧ frozen s = true),
     decide (frozen s = false ∧ linkUp s p = false ∧ egAt s q = [x] ∧ last x),
     decide (((frozen s = true ∨ linkUp s p = true))),
     decide (3 ≤ mode s ∧ linkMode s p ab = 5 ∧ portLinks s (p + 1) = []),
     decide (3 ≤ mode s ∧ linkMode s p ab ≠ 0 ∧ linkMode s p ab ≠ 5),
     decide (3 ≤ mode s ∧ portLinks s p = []),
     decide (let z := SMap.get 0 s.pkt.pause q; z < 2 ^ 64)]
  else []

def premises_NetworkTime (s : State) (who : Who) (v lo hi : Word) : List Bool :=
  let d := s.dtm
  let own : Prop := srvSrc s = 0
  let step := Reg.DTM_STEP_CTRL
  let may (a : Nat) : Prop := passes s who a true = true
  let still : Prop := ∀ k ∈ List.range 5, (outAt s k).armed = false
  let later := laterThan s d.measAt
  let last := laterThan later d.tuneAt
  let begun (w : State) : Prop := d.m0 ≤ w.mono.toNat
  let o := sext 64 (lo.toNat + hi.toNat * 2 ^ 32)
  let meas : Prop := may Reg.DTM_SRV_MEAS_HI ∧ (srvSrc s = 1 ∨ srvSrc s = 4)
  let kept : Prop := meas ∧ frozen s = false ∧ d.stepAt ≠ some s.mono.toNat ∧ (d.state = 1 ∨ d.state = 2)
  let big : Prop := (rd s Reg.DTM_SRV_LIM).toNat * 65536 ≤ o.natAbs
  let back : Prop := 0 < o ∧ (rd s Reg.DTM_STEP_THRESH).toNat * 65536 < o
  let dm := s.mono.toNat - d.mPrev
  if decide (Awake' s) then
    [decide (passes s who Reg.DTM_NT_FRAC false = true),
     decide (may Reg.DTM_FFO ∧ own ∧ begun later),
     decide (may Reg.DTM_FFO ∧ ¬ own),
     decide (may Reg.DTM_SLEW_OFS ∧ own ∧ begun later ∧ v ≠ 0),
     decide (may Reg.DTM_SLEW_OFS ∧ ¬ own),
     decide (d.slew ≠ 0 ∧ slewRate s ≠ 0 ∧ slewEnd s < 2 ^ 64),
     decide (d.slew = 0),
     decide (may step ∧ still ∧ begun last),
     decide (may step ∧ still ∧ begun last ∧ d.pend = true),
     decide (may step ∧ d.pend = false),
     decide (may step),
     decide (may Reg.DTM_SRV_CFG),
     decide (may Reg.DTM_SRV_MEAS_HI ∧ srvSrc s ≠ 1 ∧ srvSrc s ≠ 4),
     decide (meas ∧ ((frozen s = true ∨ d.stepAt = some s.mono.toNat))),
     decide (kept ∧ big ∧ back ∧ d.pend = false),
     decide (kept ∧ big ∧ d.pend = true ∧ o ≠ -(2 ^ 63)),
     decide (kept ∧ big ∧ ¬ back ∧ d.pend = false ∧ still ∧ begun s),
     decide (kept ∧ ¬ big ∧ d.pend = false ∧ ((d.first = true ∨ dm = 0))),
     decide (kept ∧ ¬ big ∧ d.pend = false ∧ d.first = false ∧ dm ≠ 0),
     decide (d.state = 1),
     decide (d.state = 2 ∧ srvSrc s ≠ 3),
     decide (d.state ≠ 1 ∧ ((d.state ≠ 2 ∨ srvSrc s = 3)))]
  else []

def premises_TimePinsAndPlumb (s : State) (who : Who) (out : Fin 4) (k : Fin 5) (rising : Bool) (v : Word) (old : Word) (off : Option Word) (n : Nat) (cs : List (Bool × Nat)) : List Bool :=
  let o := out.val
  let a := Reg.DTM_EVO_START_S_HI o
  let low := Reg.DTM_EVO_START_S_LO o
  let w := plainWrite (takeStaged s low) a v
  let first := evoStart w o
  let runs (k : Nat) : Prop := (outAt s k).armed = true ∧ outPulses s k = true
  let i := k.val
  let c := inAt s i
  let soon : Prop := ∃ l, c.last = some l ∧ s.mono.toNat < l + 13
  let quiet : Prop := i ≠ 4 ∨ srvSrc s ≠ 2
  let u := notBefore s (s.dtm.synceStart + 2 ^ rdf s Reg.DTM_SYNCE_CFG 11 8 * 1250000000)
  let blind : Prop := off = none ∨ synceKept s = false
  let ens := notBefore s (s.dtm.ensStart + ensCounts s)
  let closed := s.dtm.peers.map (peerClose (ntNow ens))
  let has := (closed.filter peerHas).map peerFreq
  let keep := peerKeep (rdf s Reg.DTM_PLUMB_ENS_CFG 15 0) (wMedian has)
  let used := (closed.filter keep).map peerFreq
  let ensOn : Prop := s.dtm.state = 3 ∧ rdb s Reg.DTM_PLUMB_ENS_CFG 31 = true
  let few : Prop := used.length < rdf s Reg.DTM_PLUMB_ENS_CFG 21 16
  if decide (Awake' s) then
    [decide (passes s who a true = true ∧ ((outPulses s o = false ∨ ntDiff (ntNow s) first ≤ 0))),
     decide (passes s who a true = true ∧ outPulses s o = true ∧ 0 < ntDiff (ntNow s) first),
     decide (runs o),
     decide (¬ runs o),
     decide (runs 4),
     decide (¬ runs 4),
     decide ((outAt s i).high = true ∧ (outAt s i).stop < 2 ^ 64),
     decide ((outAt s i).high = false),
     decide (edgeWanted s i rising = true ∧ quiet ∧ ¬ soon ∧ c.fifo.length < 4),
     decide (edgeWanted s i rising = true ∧ ((soon ∨ 4 ≤ c.fifo.length))),
     decide (edgeWanted s i rising = false),
     decide (passes s who (Reg.DTM_EVI_TS0 i) false = true ∧ c.fifo = []),
     decide (passes s who (Reg.DTM_EVI_TS0 i) false = true ∧ c.fifo = (rising, n) :: cs),
     decide (rdb s Reg.DTM_SYNCE_CFG 0 = false),
     decide (rdb s Reg.DTM_SYNCE_CFG 0 = true ∧ synceKept s = true ∧ srvSrc s ≠ 3),
     decide (rdb s Reg.DTM_SYNCE_CFG 0 = true ∧ synceKept s = true ∧ srvSrc s = 3 ∧ s.dtm.state = 1 ∧ srvDiscards u = false),
     decide (rdb s Reg.DTM_SYNCE_CFG 0 = true ∧ blind ∧ ((srvSrc s ≠ 3 ∨ s.dtm.state ≠ 2))),
     decide (rdb s Reg.DTM_SYNCE_CFG 0 = true ∧ blind ∧ srvSrc s = 3 ∧ s.dtm.state = 2),
     decide (True),
     decide (s.dtm.ageDue = true ∧ s.dtm.c0Hist[24]? = some old),
     decide (s.dtm.ageDue = true ∧ s.dtm.c0Hist[24]? = none),
     decide (s.dtm.ageDue = false),
     decide (¬ ensOn),
     decide (ensOn ∧ few),
     decide (ensOn ∧ ¬ few)]
  else []

def premises_FabricLink (s : State) (who : Who) (j : Fin 64) (cls : Fin 4) (l : Link) (f : FabTx) (fs : List FabTx) (r : FabRx) (rest : List FabRx) (fid i port m : Nat) (fids : List Nat) (plan : Nat × Nat × Nat) (reports : List (Nat × Nat)) (rep at' : Nat) : List Bool :=
  let on : Prop := rdb s Reg.FAB_CTRL 0 = true ∧ 3 ≤ mode s
  let here : Prop := linkAt s j.val = some l
  let hs : State := let u := notBefore s (s.fab.helloAt + 125000000)
      { u with fab := { u.fab with helloAt := u.mono.toNat } }
  let bytes := fabFrame hs port 0x0300000088B5 1 0 (fabBytes hs 0 0 0 0 true (myHello hs port))
  let eg0 := egKey port (fabTc s 0)
  let hello := fabOwn hs (fabBytes hs 0 0 0 0 true (myHello hs port))
  let quiet : Prop := (∀ c ∈ [1, 2, 3], fabEg s j.val c = []) ∧ ∀ e ∈ s.pkt.eg, ∀ x ∈ e.2, ofLink j.val x = false
  let c := cls.val
  let u := unitsOf l (max 60 (14 + f.bytes.length))
  let sent := (clsOf l.sent c + u) % 2 ^ 32
  let credit : Prop := sub32 (clsOf l.sent c) (clsOf l.returned c) + u ≤ limOf l c
  let waiting : Prop := on ∧ here ∧ c ≠ 0 ∧ fabEg s j.val c = f :: fs ∧ l.state = 2
  let out := egKey l.port (fabTc s c)
  let fr := frameAt s fid
  let h := fabPart fr.data
  let came : Prop := s.fab.rx = fid :: fids
  let byLink : Prop := came ∧ on ∧ fhType h ≠ 0 ∧ mode s ≠ 3 ∧ linkOf s fr = some (i, l) ∧ hdrBad h l.ver h.length = false ∧ fhCls h ≠ 0 ∧
      linkAt s i = some l
  let units := unitsOf l fr.data.length
  let gap := sub32 (fhCsent h) (units + clsOf l.received (fhCls h))
  let mine : Prop := fhLl h = true ∨ (rdb s Reg.FAB_STAT 31 = true ∧ fhDst h = myAddr s)
  let local' (type : Nat) : Prop := s.fab.loc = r :: rest ∧ fhType (fabPart (frameAt s r.fid).data) = type
  let pay := fhPay (fabPart (frameAt s r.fid).data)
  let hi := parseHello pay
  let inPort := (frameAt s r.fid).port
  let known (k : Nat) : Prop := linkAt s k = some l ∧ l.port = inPort ∧ l.hello.serial = hi.serial ∧
      (portLinks s inPort).find? (fun x => match linkAt s x with
        | some y => y.hello.serial == hi.serial
        | none => false) = some k
  let stranger : Prop := ∀ k ∈ List.range 64, ∀ y ∈ (linkAt s k).toList, y.port = inPort → y.hello.serial ≠ hi.serial
  if decide (Awake' s ∧ frozen s = false) then
    [decide (¬ on),
     decide (on ∧ helloPorts s = [port] ∧ cellPlan s .shared 16 (bytes.length + 4) = some plan ∧ egAt s eg0 = []),
     decide (on ∧ local' 0 ∧ r.link = none ∧ r.up = none ∧ addrState s ≠ 1 ∧ rdb s Reg.FAB_ASSIGNER 31 = true ∧ stranger ∧ freeLink s inPort = some m),
     decide (on ∧ local' 0 ∧ r.up = none ∧ addrState s ≠ 1 ∧ rdb s Reg.FAB_ASSIGNER 31 = true ∧ stranger ∧ freeLink s inPort = none),
     decide (on ∧ local' 0 ∧ r.up = none ∧ addrState s ≠ 1 ∧ rdb s Reg.FAB_ASSIGNER 31 = true ∧ known m ∧ l.state = 1 ∧ l.ptag = none ∧ nextState s hi = 2),
     decide (here ∧ l.heard + 500000000 < 2 ^ 64 ∧ quiet),
     decide (linkAt s j.val = none),
     decide (waiting ∧ credit ∧ f.fid = some i ∧ egAt s out = []),
     decide (waiting ∧ ¬ credit),
     decide (on ∧ here ∧ l.state = 2 ∧ egAt s (egKey l.port (fabTc s 0)) = []),
     decide (local' 1 ∧ r.link = some i ∧ linkAt s i = some l ∧ l.returned.length = 3),
     decide (came ∧ ¬ on),
     decide (came ∧ on ∧ fhType h = 0 ∧ hdrBad h 1 h.length = true),
     decide (came ∧ on ∧ fhType h = 0 ∧ hdrBad h 1 h.length = false ∧ fhLl h = true),
     decide (came ∧ on ∧ fhType h ≠ 0 ∧ linkOf s fr = none),
     decide (byLink ∧ gap < 2 ^ 31 ∧ mine ∧ ((fhLl h = true ∨ fhSv h = true))),
     decide (byLink ∧ 2 ^ 31 ≤ gap),
     decide (on ∧ here ∧ l.state = 2 ∧ c ≠ 0 ∧ behind l c = (rep, at') :: reports),
     decide (on ∧ (fabEg s j.val c).find? (fun x => x.fid.isSome) = some f ∧ f.fid = some i ∧ f.up = none ∧ f.job = none),
     decide (passes s who Reg.FAB_CMD true = true ∧ linkAt s j.val = none),
     decide (passes s who Reg.FAB_CMD true = true ∧ here ∧ l.state ≠ 2),
     decide (passes s who Reg.FAB_AUD_SNAP true = true)]
  else []

def premises_FabricRouting (s : State) (who : Who) (j : Fin 64) (addr : BitVec 14) (r : FabRx) (rest : List FabRx) (l : Link) (i a hops tag since : Nat) (x : Areq) (xs : List Areq) : List Bool :=
  let on : Prop := rdb s Reg.FAB_CTRL 0 = true ∧ 3 ≤ mode s
  let local' (type : Nat) : Prop := s.fab.loc = r :: rest ∧ fhType (fabPart (frameAt s r.fid).data) = type ∧ r.up = none ∧ r.fid ≠ s.pkt.nextFid
  let h := fabPart (frameAt s r.fid).data
  let pay := fhPay h
  let calm : Prop := ∀ m ∈ List.range 16, (sessAt s m).state ≠ 2
  let rt := routeAt s a
  let cost := min (hops + 1) 15
  let told : Prop := local' 4 ∧ r.link = some i ∧ routeEntries pay = [(a, hops, tag)] ∧ ¬ (holdsAddr s = true ∧ a = myAddr s) ∧ rt.static = false
  let may : Prop := passes s who Reg.FAB_CMD true = true
  let asked := slice (rd s (Reg.FAB_CMD_ARG 0)).toNat 19 16
  let ix := ringNext s .fab
  let off := ringEntry s .fab ix
  let y := sramGet s off 32
  let type := wdf y 2 31 28
  let n := wdf y 2 13 0
  let typed : Prop := (type = 3 ∨ type = 6 ∨ type = 7) ∧ n ≤ 9170
  let placed : Prop := inMem s (wdAddr y 0) n = true
  let linked : Prop := rdb s Reg.FAB_STAT 31 = true ∧ (wdf y 3 15 15 = 0 ∨ isUp s (wdf y 4 5 0) = true)
  let fetch : Prop := on ∧ ringReady s .fab = true ∧ s.pkt.done = [] ∧ (rd s Reg.FAB_TXR_CONS).toNat = ix ∧ ringBase s .fab + 8 ≤ off + 24
  if decide (Awake' s ∧ frozen s = false) then
    [decide (((addrState s ≠ 3 ∨ ¬ on))),
     decide (addrState s = 3 ∧ on ∧ askLink s = some i ∧ linkAt s i = some l ∧ egAt s (egKey l.port (fabTc s 0)) = [] ∧ s.fab.addrAt + 1250000000 < 2 ^ 64),
     decide (local' 2 ∧ fhLl h = true ∧ rdb s Reg.FAB_CTRL 4 = false ∧ r.link = some i ∧ rdb s Reg.FAB_ASSIGNER 31 = true ∧ rdb s Reg.FAB_STAT 31 = true ∧ (s.fab.areqs.filter (fun x => x.serial != be pay 0 8)).length < 16),
     decide (local' 3 ∧ calm ∧ be pay 0 8 = serial ∧ addrState s = 3 ∧ (be pay 8 2).testBit 15 = true),
     decide (local' 3 ∧ be pay 0 8 ≠ serial ∧ s.fab.areqs.find? (fun z => z.serial == be pay 0 8) = some x),
     decide (s.fab.areqs = x :: xs),
     decide (s.fab.areqs = []),
     decide (addrState s = 1 ∧ on ∧ calm),
     decide (((addrState s ≠ 1 ∨ ¬ on))),
     decide (on ∧ upLinks s = [] ∧ s.fab.routeAt + 1250000000 < 2 ^ 64),
     decide (on),
     decide (¬ on),
     decide (told ∧ cost < rt.hops),
     decide (told ∧ cost = rt.hops ∧ cost < 15 ∧ rt.tag = some tag),
     decide (told ∧ cost = rt.hops ∧ cost < 15),
     decide (told ∧ rt.hops < cost ∧ ((∀ z ∈ rt.nh, z.1 ≠ i))),
     decide (told ∧ rt.hops < cost ∧ (∃ z ∈ rt.nh, z.1 = i) ∧ ((∀ z ∈ rt.nh, z.1 = i))),
     decide (local' 4 ∧ r.link = some i ∧ routeEntries pay = [(a, hops, tag)] ∧ holdsAddr s = true ∧ a = myAddr s ∧ 15 ≤ hops),
     decide (on ∧ (routeAt s addr.toNat).static = false ∧ (routeAt s addr.toNat).nh.find? (fun z => z.1 == j.val) = some (i, since) ∧ since + 5000000000 < 2 ^ 64),
     decide ((routeAt s addr.toNat).static = true),
     decide (on ∧ s.fab.timeAt + 156250000 < 2 ^ 64 ∧ upLinks s = []),
     decide (local' 5 ∧ r.link = some i ∧ linkAt s i = some l),
     decide (local' 7),
     decide (local' 6),
     decide (fetch ∧ ¬ typed),
     decide (fetch ∧ typed ∧ ¬ placed),
     decide (fetch ∧ typed ∧ placed ∧ ¬ linked),
     decide (fetch ∧ typed ∧ placed ∧ linked),
     decide (may ∧ ((asked = 0 ∨ asked = 15))),
     decide (may ∧ asked ≠ 0 ∧ asked ≠ 15),
     decide (may)]
  else []

def premises_Migration (s u : State) (who : Who) (n : Fin 16) (v : BitVec 31) (r : FabRx) (rest : List FabRx) : List Bool :=
  let k := n.val
  let cfg := Reg.FAB_MIG_CFG k
  let on : Prop := rdb s Reg.FAB_CTRL 0 = true ∧ 3 ≤ mode s
  let may : Prop := passes s who Reg.FAB_CMD true = true
  let window : Prop := inMem s (migBase s k) (migLen s k) = true
  let x := sessAt s k
  let a := (rd s (Reg.FAB_CMD_ARG 0)).toNat + 2 ^ 32 * slice (rd s (Reg.FAB_CMD_ARG 1)).toNat 15 0
  let len := (rd s (Reg.FAB_CMD_ARG 2)).toNat
  let placed : Prop := len ≠ 0 ∧ len ≤ 16777216 ∧ inMem s a len = true
  let q := slice (rd s (Reg.FAB_CMD_ARG 0)).toNat 15 0
  let queueOn : Prop := (queueAt s q).en = true
  let sends : Prop := migOpen s k = true ∧ migIn s k = false ∧ (x.state = 1 ∨ x.state = 2)
  let room : Prop := x.cmds.length + (!x.todo.isEmpty).toNat < 8
  let held : Prop := rdb s Reg.FAB_STAT 31 = false ∨ 32 ≤ x.unacked.length
  let local' (type : Nat) : Prop := s.fab.loc = r :: rest ∧ fhType (fabPart (frameAt s r.fid).data) = type ∧ r.up = none
  let s1 : State := { s with fab := { s.fab with loc := rest } }
  let h := fabPart (frameAt s r.fid).data
  let pay := fhPay h
  let mine : Prop := fhFlow h = k ∧ migOpen s k = true ∧ migIn s k = true ∧ x.state = 1 ∧ fhAux h = x.seq
  let nobody : Prop := ∀ m ∈ List.range 16, fhFlow h = m → ¬ (migOpen s m = true ∧ migIn s m = true ∧ (sessAt s m).state = 1 ∧ fhAux h = (sessAt s m).seq)
  let s2 := accepted s1 k
  let size := be pay 4 2
  let fl := be pay 4 1
  let pq := be pay 0 2
  let pqueue := queueAt s pq
  let base := (x.seq + 65536 - x.unacked.length % 65536) % 65536
  let acked := (be pay 0 4 % 65536 + 65536 - base) % 65536
  let hears : Prop := fhFlow h = k ∧ migOpen s k = true ∧ migIn s k = false
  let awaits : Prop := hears ∧ x.state = 2
  let named : Prop := rdb s Reg.FAB_STAT 31 = true
  if decide (Awake' s ∧ frozen s = false) then
    [decide (passes s who cfg true = true ∧ ((v.getLsbD 30 = false ∨ window))),
     decide (passes s who cfg true = true ∧ v.getLsbD 30 = true ∧ ¬ window),
     decide (passes s who cfg true = true),
     decide (may ∧ ¬ placed),
     decide (may ∧ placed ∧ ¬ sends),
     decide (may ∧ placed ∧ sends ∧ ¬ room),
     decide (may ∧ placed ∧ sends ∧ room ∧ held),
     decide (may ∧ ¬ queueOn),
     decide (may ∧ queueOn ∧ ¬ sends),
     decide (may ∧ queueOn ∧ sends ∧ ¬ room),
     decide (may ∧ queueOn ∧ sends ∧ room ∧ held),
     decide (local' 8 ∧ mine ∧ be pay 0 4 + size ≤ migLen s k ∧ memWrite s2 fabPort (migBase s k + be pay 0 4) (sub pay 8 size) = (true, u) ∧ x.toAck < 15),
     decide (local' 8 ∧ mine ∧ migLen s k < be pay 0 4 + size),
     decide (local' 8 ∧ nobody),
     decide (local' 9 ∧ dispBusy s = false ∧ mine ∧ fl.testBit 6 = false ∧ fl.testBit 7 = true ∧ fl.testBit 5 = false ∧ x.toAck < 15 ∧ pqueue.en = true ∧ pqueue.place = true ∧ pqueue.wp ≤ pqueue.rp),
     decide (local' 9 ∧ dispBusy s = false ∧ mine ∧ fl.testBit 7 = true ∧ fl.testBit 5 = false ∧ ((pqueue.en = false ∨ pqueue.place = false))),
     decide (local' 9 ∧ dispBusy s = false ∧ nobody),
     decide (local' 9 ∧ dispBusy s = true),
     decide (local' 10 ∧ awaits ∧ be pay 4 4 = 0 ∧ 1 ≤ acked ∧ acked ≤ x.unacked.length ∧ x.todo = [] ∧ x.cmds = []),
     decide (local' 10 ∧ awaits ∧ be pay 4 4 = 0 ∧ ((acked = 0 ∨ x.unacked.length < acked))),
     decide (local' 10 ∧ hears ∧ x.state ≠ 3 ∧ be pay 4 4 ≠ 0),
     decide (local' 10 ∧ 16 ≤ fhFlow h),
     decide (on ∧ named ∧ migOpen s k = true ∧ migIn s k = true ∧ x.toAck ≠ 0),
     decide (((x.toAck = 0 ∨ ¬ named))),
     decide (on ∧ named ∧ x.unacked ≠ [] ∧ x.state = 2 ∧ 8 ≤ x.rewinds),
     decide (on ∧ named ∧ x.unacked ≠ [] ∧ x.state = 2 ∧ x.rewinds < 8),
     decide (((x.unacked = [] ∨ x.state ≠ 2 ∨ ¬ on ∨ ¬ named)))]
  else []

def premises_BenchmarkCommand (s s1 u : State) (who : Who) (op : BitVec 8) (x y : Word) (data d key : List Byte) (l : List Nat) (up : Update) : List Bool :=
  let a0 := (rd s (Reg.BMK_MB_ARG 0)).toNat
  let a1 := (rd s (Reg.BMK_MB_ARG 1)).toNat
  let stat := Reg.BMK_MB_STAT
  let buf := mbBuf s
  let m := mode s
  let asked : Prop := asleep s = false ∧ passes s who Reg.BMK_MB_CMD true = true
  let free : Prop := asked ∧ rdb s stat 31 = false ∧ s.bmk.work = []
  let may : Prop := free ∧ 3 ≤ m
  let late : Prop := m = 9 ∨ m = 10
  let now : Prop := may ∧ ¬ late
  let s0 : State := { wrb s stat 31 true with bmk := { s.bmk with work := [], replies := [] } }
  let quiet := s0.bmk
  let placed (n : Nat) : Prop := mbPlaced s buf n = true
  let reads (n : Nat) : Prop := placed n ∧ memRead s0 bmkPort buf n = (some d, s1)
  let puts (v : State) (n : Nat) (bs : List Byte) : Prop := placed n ∧ memWrite v bmkPort buf bs = (true, u)
  let rec' := slotRec s
  let counts : Prop := rec'.seq ≠ 0xFFFFFFFF
  let session : Prop := may ∧ s.bmk.update = some up
  let inOrder : Prop := session ∧ a0 = up.next ∧ a1 ≠ 0 ∧ a1 ≤ 65536 ∧ a0 + a1 ≤ up.len
  let log := (logFrom s (a0 % 65536) a1).map recBytes
  let k := a0 % 16
  let f0 : State := { s with bmk := quiet }
  let served : Prop := 2 ≤ m ∧ mgmtOps s = some l ∧ data.length ≤ 1024
  let first : Prop := served ∧ op.toNat ∈ l ∧ s.bmk.work = []
  let code := mbCheck f0 op.toNat x.toNat y.toNat false
  if decide (s.void = false) then
    [decide (True),
     decide (may ∧ puts s0 8192 (identity s0)),
     decide (may ∧ ¬ placed 8192),
     decide (may ∧ puts s0 (32 * log.length) log.flatten),
     decide (may ∧ s.bmk.update = none ∧ trialPending s = false ∧ a0 ≤ slotSize),
     decide (may ∧ (s.bmk.update.isSome ∨ trialPending s = true)),
     decide (may ∧ s.bmk.update = none ∧ trialPending s = false ∧ slotSize < a0),
     decide (may ∧ s.bmk.update = none),
     decide (session ∧ (a0 ≠ up.next ∨ a1 = 0 ∨ 65536 < a1 ∨ up.len < a0 + a1)),
     decide (inOrder ∧ ¬ placed a1),
     decide (inOrder ∧ reads a1),
     decide (session ∧ counts),
     decide (session),
     decide (now ∧ s.bmk.trial = true ∧ counts),
     decide (now ∧ s.bmk.trial = false),
     decide (now ∧ ¬ (s.bmk.running.isSome = true ∧ hdrKey s.bmk.header = a0 % 2)),
     decide (now ∧ s.bmk.running.isSome = true ∧ hdrKey s.bmk.header = a0 % 2),
     decide (may ∧ reads 32 ∧ puts (quote s1 d).2 3565 (quote s1 d).1),
     decide (now ∧ puts s0 2048 (calFlash s)),
     decide (may ∧ (m = 3 ∨ m = 11) ∧ reads 2048 ∧ calGood d = false),
     decide (may ∧ (m = 3 ∨ m = 11) ∧ reads 2048 ∧ calGood d = true),
     decide (may ∧ m ≠ 3 ∧ m ≠ 11),
     decide (may ∧ m = 3 ∧ s.bmk.kek0 = none ∧ reads 32),
     decide (may ∧ m = 3 ∧ s.bmk.kek0.isSome),
     decide (may ∧ m ≠ 3),
     decide (now ∧ k ≠ 0 ∧ s.bmk.kek0.isSome ∧ reads 40 ∧ keyUnwrap (s.bmk.kek0.getD []) d = some key ∧ key.length = 32),
     decide (now ∧ k ≠ 0 ∧ s.bmk.kek0.isSome ∧ reads 40 ∧ keyUnwrap (s.bmk.kek0.getD []) d = none),
     decide (now ∧ k ≠ 0 ∧ s.bmk.kek0 = none),
     decide (now ∧ k = 0),
     decide (now ∧ k ≠ 0),
     decide ((mgmtOps s = none ∨ 1024 < data.length)),
     decide (served ∧ op.toNat ∉ l),
     decide (served ∧ op.toNat ∈ l ∧ s.bmk.work = []),
     decide (first ∧ code ≠ 0),
     decide (first ∧ code = 0 ∧ data.length < mbIn op.toNat y.toNat),
     decide (first ∧ code = 0 ∧ mbIn op.toNat y.toNat ≤ data.length),
     decide (first ∧ op = 0x22 ∧ s.bmk.recovery = true ∧ m = 2 ∧ s.bmk.update = some up ∧ counts)]
  else []

def premises_PowerCommand (s : State) (who : Who) (core : Fin 4) (v : Word) (dom : Fin 100) (unit : Fin 51) (j4 : Fin 4) (j2 : Fin 2) (frame : List Byte) (pin port0 good : Bool) (p : Nat) : List Bool :=
  let awake : Prop := asleep s = false
  let m := mode s
  let up : Prop := 2 ≤ m
  let may (a : Nat) : Prop := awake ∧ passes s who a true = true
  let q := fld v 3 0
  let req : Prop := may Reg.PWR_MODE_REQ
  let asFull : Prop := m = 10 ∨ dmcFrozen s = true
  let warms : Prop := up ∧ passes s who Reg.PWR_RST true = true
  let key : Prop := fld v 31 16 = 0xC1A5
  let busy : Prop := modeBusy s = true
  let armed : Prop := m = 1 ∨ busy
  let hit : Prop := (List.range 8).find? (wakeHit s frame) = some p ∧ good = true ∧ wakeWatched s port0 = true ∧ s.pwr.wake = false
  let wakes : Prop := s.pwr.wake = true ∨ pin = true ∧ rdb s Reg.PWR_STBY_CFG 1 = true
  let j := j4.val
  let gate := Reg.CLK_GATE j
  let barred : Prop := who ≠ .bmk ∧ j = 2 ∧ (v ^^^ rd s gate) &&& 0xF ≠ 0
  let d := dom.val
  let i := j2.val
  let pg := Reg.PWR_PGATE i
  let foreign : Prop := who ≠ .bmk ∧ i = 1 ∧ (v ^^^ rd s pg) &&& 0x70000 ≠ 0
  let u := unit.val
  let back (w k : Nat) : Prop := rdb s (Reg.PWR_PGATE_STAT w) k = true ∧ rdb s (Reg.PWR_PGATE w) k = false
  let k := core.val
  let ctl : Prop := may Reg.BMK_CORE_CTRL ∧ k ≠ 0
  let was : Prop := rdb s Reg.BMK_CORE_CTRL (4 + k) = true
  let offline : Prop := rdb s Reg.BMK_CORE_STAT (4 + k) = true
  let running : Prop := rdb s Reg.BMK_CORE_STAT k = true
  let dark : Prop := rdb s (Reg.PWR_PGATE_STAT 1) (15 + k) = true
  if decide (s.void = false) then
    [decide (req ∧ q = 0),
     decide (req ∧ q ≠ 0 ∧ modeRefusal s q ≠ 0),
     decide (req ∧ q = 1 ∧ modeRefusal s q = 0),
     decide (req ∧ 1 < q ∧ q ≠ 8 ∧ m = 7 ∧ modeRefusal s q = 0),
     decide (req ∧ q = 8 ∧ m ≠ 7 ∧ modeRefusal s q = 0),
     decide (req ∧ 1 < q ∧ (m = 7 ↔ q = 8) ∧ modeRefusal s q = 0),
     decide (True),
     decide (may Reg.PWR_RST ∧ key),
     decide (may Reg.PWR_RST ∧ ¬ key),
     decide (warms ∧ ¬ key),
     decide (warms ∧ key ∧ v.getLsbD 1 = true),
     decide (warms ∧ key ∧ v.getLsbD 1 = false ∧ ¬ asFull),
     decide (warms ∧ key ∧ v.getLsbD 1 = false ∧ asFull),
     decide (up ∧ ¬ asFull),
     decide (up ∧ asFull),
     decide (m = 2 ∧ s.bmk.recovery = false ∧ (s.bmk.select = true ∨ s.bmk.running = none)),
     decide ((m ≠ 2 ∨ s.bmk.recovery = true)),
     decide (awake ∧ busy),
     decide (awake ∧ ¬ busy),
     decide (armed ∧ hit),
     decide (¬ armed),
     decide (m = 1 ∧ wakes),
     decide (m = 1 ∧ ¬ wakes),
     decide (m ≠ 1 ∧ busy ∧ pin = true ∧ rdb s Reg.PWR_STBY_CFG 1 = true),
     decide (m ≠ 1 ∧ ¬ busy),
     decide (may gate ∧ barred),
     decide (may gate ∧ ¬ barred),
     decide (awake ∧ gateAsked s d = true ∧ domainIdle s d = true),
     decide (awake ∧ ¬ (gateAsked s d = true ∧ domainIdle s d = true)),
     decide (may pg ∧ foreign),
     decide (may pg ∧ ¬ foreign),
     decide (awake ∧ u < 48 ∧ back (u / 32) (u % 32)),
     decide (awake ∧ 48 ≤ u ∧ back 1 (u - 32)),
     decide (awake ∧ ((u < 48 ∧ ¬ back (u / 32) (u % 32)) ∨ (48 ≤ u ∧ ¬ back 1 (u - 32)))),
     decide (up),
     decide (ctl ∧ v.getLsbD (4 + k) = false ∧ ¬ was ∧ ¬ offline ∧ ¬ running),
     decide (ctl ∧ v.getLsbD (4 + k) = false ∧ ¬ was ∧ (offline ∨ running)),
     decide (ctl ∧ v.getLsbD (4 + k) = true ∧ ¬ was),
     decide (ctl ∧ v.getLsbD (4 + k) = false ∧ was ∧ ¬ dark),
     decide (ctl ∧ v.getLsbD (4 + k) = false ∧ was ∧ dark)]
  else []

def premises_UpkeepAndAccess (s u : State) (who : Who) (readings : List (BitVec 16)) (n i : Nat) (mem : List MemErr) (r : ErrIn) (top : ErrRec) (more : List ErrRec) (j : Fin 2) (v w : Word) (addr : Addr) (desc dlo dhi : RegDesc) (d : List Byte) (ok : Bool) : List Bool :=
  let awake : Prop := asleep s = false
  let m := mode s
  let up : Prop := 2 ≤ m
  let may (a : Nat) (write : Bool) : Prop := awake ∧ passes s who a write = true
  let val := corrected { s with freeCtr := s.freeCtr + i } i (readings.getD i 0)
  let ext := Reg.BMK_EXT_TEMP_CFG
  let l := recSort (s.err.arrivals.take n ++ mem.map memErrRec)
  let q := s.err.queue
  let on : Prop := m ≠ 0 ∧ s.bmk.recovery = false
  let one : Prop := on ∧ l = [r]
  let a := addr.toNat
  let runs : Prop := awake ∧ whoRuns s who = true
  let above : Prop := sramBase ≤ a
  let odd : Prop := above ∧ a % 4 ≠ 0
  let hole : Prop := 0x1000800000 ≤ a ∧ a % 4 = 0 ∧ windowAt a = none ∧ isReg a = false
  let enables := [Reg.TRV_INT_EN, Reg.JQ_INT_EN, Reg.SRE_INT_EN, Reg.BIL_INT_EN, Reg.DFL_INT_EN, Reg.DMC_INT_EN, Reg.DTM_INT_EN, Reg.FAB_INT_EN,
      Reg.BMK_INT_EN, Reg.PWR_INT_EN, Reg.ERR_INT_EN, Reg.PKT_INT_EN]
  let lows := [Reg.BMK_CORE_ENTRY_LO, Reg.BMK_MB_BUF_LO]
  let general : Prop := 0x10006C0000 ≤ a ∧ a < 0x1000800000 ∧ a % 4 = 0
  if decide (s.void = false) then
    [decide (up ∧ i < readings.length ∧ i < 40),
     decide (awake ∧ rdb s ext 31 = true),
     decide (awake ∧ rdb s ext 31 = false),
     decide (up),
     decide (awake ∧ 3 ≤ m),
     decide (awake ∧ m < 3),
     decide (awake ∧ 3 ≤ m ∧ s.bmk.trial = true),
     decide (awake ∧ (m < 3 ∨ s.bmk.trial = false)),
     decide (on ∧ ((∀ x, x ∈ l → recFreezes x.code = false))),
     decide (one ∧ recFreezes r.code = false ∧ r.sev ≤ 3),
     decide (one ∧ recFreezes r.code = true ∧ canFreeze s = true),
     decide (one ∧ recFreezes r.code = true ∧ canFreeze s = false),
     decide ((m = 0 ∨ s.bmk.recovery = true)),
     decide (may (Reg.ERR_REC 0) false ∧ q = top :: more),
     decide (may (Reg.ERR_REC 0) false ∧ q = []),
     decide (may Reg.ERR_AUD_SNAP true),
     decide (awake ∧ s.err.auditDue = true),
     decide (awake ∧ s.err.auditDue = false),
     decide (may (Reg.TRV_HDB_SET j.val) true),
     decide (True),
     decide (runs ∧ odd),
     decide (runs ∧ above),
     decide (runs ∧ hole),
     decide (a ∈ enables ∧ regAt a = some desc ∧ may a true),
     decide (a ∈ enables ∧ may a false),
     decide (a ∈ lows ∧ may a true),
     decide (a - 4 ∈ lows ∧ regAt (a - 4) = some dlo ∧ regAt a = some dhi ∧ may a true),
     decide (a ∈ lows ∧ may a false),
     decide (a - 4 ∈ lows ∧ may a false ∧ SMap.get (0, []) s.latches (a - 4) = (i, [w])),
     decide (a - 4 ∈ lows ∧ may a false ∧ SMap.get (0, []) s.latches (a - 4) = (0, [])),
     decide (runs ∧ general),
     decide (runs ∧ a < sramBase ∧ memWrite s (whoPort who) a (leBytes 4 v.toNat) = (ok, u)),
     decide (runs ∧ a < sramBase ∧ memRead s (whoPort who) a 4 = (some d, u))]
  else []

def premises_StepRunsCommand (s : State) (c : Instr) (rest : List Instr) : List Bool :=
  if decide (True) then
    [decide (s.pending = c :: rest),
     decide (s.pending = [])]
  else []

def premises_SleepAndExcursionHold (s : State) (c : Instr) : List Bool :=
  if decide (c ≠ .powerOnReset ∧ c ≠ .supplyRemoved ∧ c ≠ .excursion) then
    [decide (s.void = true),
     decide (s.void = false ∧ c ≠ .irqNChange ∧ actsAsleep c = false ∧ mode s ≤ 1),
     decide (s.void = false ∧ c ≠ .irqNChange ∧ actsAsleep c = false ∧ s.bmk.recovery = true ∧ worksHeld c = false)]
  else []



/-! ### Tiles -/

/-- Tile `n` runs in M4 with the tile's registers and memories as in `t`. -/
def onTile (n : Nat) (t : Tile) : State := setTile (setR [(Reg.TILE_CTRL n, 1)] awake) n { t with fill := false }
/-- `t` with data word `a` holding `w`, with its ECC. -/
def dataWord (a : Nat) (w : BitVec 167) (t : Tile) : Tile := { t with dmem := SMap.put 0 t.dmem a (BitVec.ofNat 176 (eccEncode 167 8 w.toNat)) }
/-- `t` with the bits of mask `m` of the stored data word `a` turned. -/
def turned (a : Nat) (m : BitVec 176) (t : Tile) : Tile := { t with dmem := SMap.put 0 t.dmem a (SMap.get 0 t.dmem a ^^^ m) }
/-- `t` waiting with a C-slot instruction of opcode `op`, answered with `a`. -/
def waiting (op f : Nat) (a : Answer) (t : Tile) : Tile :=
  { t with wait := some ⟨BitVec.ofNat 128 (2 ^ 124 + 2 ^ 18 * op + f), true, false, .run⟩, answer := some a }
/-- A word with tag, exponent -2 and lanes of 7. -/
def aWord (tag : Nat) : BitVec 167 := BitVec.ofNat 167 (tag * 2 ^ 166 + 62 * 2 ^ 160 + 7)

theorem witness_Accumulate : met 4 [([0], premises_Accumulate (onTile 0 Tile.reset) 0 3 31 31 0xEF), ([1, 2], premises_Accumulate (onTile 95 Tile.reset) 95 3 30 30 0xA3),
    ([3], premises_Accumulate (onTile 95 Tile.reset) 95 3 31 0 0x80)] = true := by decide +kernel

theorem witness_Product : met 4 [([0], premises_Product (onTile 95 Tile.reset) 95 31 31 31 0xCF), ([1], premises_Product (onTile 95 Tile.reset) 95 30 30 30 3),
    ([2, 3], premises_Product (onTile 95 Tile.reset) 95 30 3 0 0xBF)] = true := by decide +kernel

theorem witness_AccumulatorSet : met 4 [([0, 1, 2], premises_AccumulatorSet (onTile 95 Tile.reset) 95 3 0 0 0 0xFF), ([3], premises_AccumulatorSet (onTile 95 Tile.reset) 95 3 3 3 7 2)] = true := by decide +kernel

theorem witness_VectorArithmetic : met 6 [([0], premises_VectorArithmetic (onTile 95 Tile.reset) 95 31 7), ([1, 2, 5], premises_VectorArithmetic (onTile 95 Tile.reset) 95 31 2),
    ([3], premises_VectorArithmetic (onTile 95 Tile.reset) 95 15 0x7F), ([4], premises_VectorArithmetic (onTile 95 Tile.reset) 95 31 0)] = true := by decide +kernel

theorem witness_Predicate : met 7 [([0], premises_Predicate (onTile 0 Tile.reset) 0 7 31 0 7 13), ([1, 2], premises_Predicate (onTile 0 Tile.reset) 0 7 7 7 0 3),
    ([3], premises_Predicate (onTile 0 Tile.reset) 0 15 7 31 0 1), ([4, 6], premises_Predicate (onTile 0 Tile.reset) 0 7 15 31 0 0),
    ([5], premises_Predicate (onTile 0 (putP Tile.reset 7 0xFFFF)) 0 31 31 31 7 3)] = true := by decide +kernel

theorem witness_Shuffle : met 4 [([0], premises_Shuffle (onTile 95 Tile.reset) 95 31 15), ([1, 3], premises_Shuffle (onTile 95 Tile.reset) 95 30 0), ([2], premises_Shuffle (onTile 95 Tile.reset) 95 31 1)] = true := by decide +kernel

theorem witness_Convert : met 3 [([0, 2], premises_Convert (onTile 95 Tile.reset) 95 30 30 8 2), ([1], premises_Convert (onTile 95 Tile.reset) 95 30 30 24 5)] = true := by decide +kernel

theorem witness_Scalar : met 9 [([0, 1, 2], premises_Scalar (onTile 95 Tile.reset) 95 15 15 15 0 11), ([3, 4], premises_Scalar (onTile 95 Tile.reset) 95 15 15 31 0 15),
    ([5, 8], premises_Scalar (onTile 95 Tile.reset) 95 15 0 0 0 0), ([6, 7], premises_Scalar (onTile 95 Tile.reset) 95 0 7 0 0 0)] = true := by decide +kernel

theorem witness_Load : met 4 [([0], premises_Load (onTile 95 (dataWord 8191 (aWord 1) (putA Tile.reset 7 8191))) 95 31 7 7 31 1 15 (aWord 1) 0),
    ([1], premises_Load (onTile 95 (dataWord 0 (aWord 0) (putA Tile.reset 7 8191))) 95 31 7 7 1 1 15 (aWord 0) 0),
    ([2], premises_Load (onTile 95 (dataWord 8190 (aWord 0) (putS (putA Tile.reset 7 1) 15 0xFFFFFFFD))) 95 31 7 0 1 0 15 (aWord 0) 0),
    ([3], premises_Load (onTile 95 (dataWord 8191 (aWord 1) (dataWord 8190 (aWord 0) (putA Tile.reset 7 8190)))) 95 30 7 0 1 1 0 (aWord 0) (aWord 1))] = true := by decide +kernel

theorem witness_Store : met 4 [([0], premises_Store (onTile 95 Tile.reset) 95 31 7 7 1 15 0 0),
    ([1], premises_Store (onTile 95 (dataWord 8191 (aWord 1) (putP (putA Tile.reset 7 8191) 7 0xFF))) 95 31 7 7 0 0 (aWord 1) 0),
    ([2], premises_Store (onTile 95 (dataWord 0 (aWord 1) (putS (putP (putA Tile.reset 7 8191) 7 1) 15 1))) 95 31 7 7 0 15 (aWord 1) 0),
    ([3], premises_Store (onTile 95 (dataWord 8190 (aWord 1) (putP (putA Tile.reset 7 8190) 7 0xFF))) 95 30 7 7 0 0 (aWord 1) 0)] = true := by decide +kernel

theorem witness_ScalarMemory : met 4 [([0], premises_ScalarMemory (onTile 95 (dataWord 8190 (aWord 1) (putA Tile.reset 7 8191))) 95 4 7 0 0x1FFF 15 (aWord 1)),
    ([1], premises_ScalarMemory (onTile 95 Tile.reset) 95 0 7 0 0x1FFF 0 0), ([2, 3], premises_ScalarMemory (onTile 95 Tile.reset) 95 2 7 0 0 0 0)] = true := by decide +kernel

theorem witness_LoadErrors : met 4 [([0], premises_LoadErrorsHandled_1 (onTile 95 (turned 8191 3 (putA Tile.reset 7 8191))) 95 31 7 7 15 0),
    ([1], premises_LoadErrorsHandled_1 (setR [(Reg.TILE_CTRL 95, 0x8001)] (onTile 95 (dataWord 0 (aWord 1) Tile.reset))) 95 31 7 7 15 (aWord 1)),
    ([2, 3], premises_LoadErrorsHandled_1 (onTile 95 (putA Tile.reset 7 8191)) 95 30 7 0 0 0)] = true := by decide +kernel

theorem witness_LoadCorrected : met 1 [([0], premises_LoadErrorsHandled_2 (onTile 95 (turned 8191 16 (putA Tile.reset 7 8191))) 95 7
    (match eccDecode 167 8 16 with | .fixed d _ _ => d | _ => 0) (match eccDecode 167 8 16 with | .fixed _ w _ => w | _ => 0) (match eccDecode 167 8 16 with | .fixed _ _ b => b | _ => 0))] = true := by decide +kernel

theorem witness_DmaGo : met 2 [([0], premises_Dma_1 (onTile 95 Tile.reset) 95 15 0 0 1 12 .bmk 1), ([1], premises_Dma_1 (onTile 95 Tile.reset) 95 31 7 7 0x1FFF 15 .bmk 1)] = true := by decide +kernel

theorem witness_DmaWait : met 3 [([0, 1], premises_Dma_2 (onTile 95 Tile.reset) 95 0 0 0 3 0),
    ([2], premises_Dma_2 (onTile 95 { Tile.reset with dma := [(0, ⟨some ⟨0x6C0000, 0, 0, 32, 0, false, false⟩, none, 0⟩)] }) 95 0 0 0 3 0)] = true := by decide +kernel

theorem witness_Flow : met 6 [([0], premises_Flow (onTile 95 { putP Tile.reset 7 0xFFFF with pc := 2047 }) 95 0x1FFFF), ([1], premises_Flow (onTile 95 Tile.reset) 95 0x1FFFF),
    ([2, 3], premises_Flow (onTile 95 Tile.reset) 95 0), ([4], premises_Flow (onTile 95 (putS { Tile.reset with pc := 2045 } 15 1)) 95 0x2F001), ([5], premises_Flow (onTile 95 (putS Tile.reset 15 0x10000)) 95 0x2F001)] = true := by decide +kernel

theorem witness_Stop : met 3 [([0, 2], premises_Stop (onTile 95 Tile.reset) 95), ([1], premises_Stop (setR [(Reg.TILE_DBG_CTRL 95, 2)] (onTile 95 Tile.reset)) 95)] = true := by decide +kernel

theorem witness_Request : met 7 [([0, 3, 4, 5], premises_Request (setR [(Reg.TILE_TASK 95, 0x80000000)] (onTile 95 Tile.reset)) 95 0), ([1], premises_Request (onTile 95 (putS Tile.reset 15 0x03FC0000)) 95 0xF000),
    ([2], premises_Request (onTile 95 (putS Tile.reset 15 63)) 95 0x1F000), ([6], premises_Request (onTile 95 Tile.reset) 95 0x3FF80)] = true := by decide +kernel

theorem witness_Answer : met 7 [([0], premises_Answer (onTile 95 (waiting 0x10 0x38000 (.dispatch 1 2) Tile.reset)) 95 0x38000 (.dispatch 1 2) 1 2 true),
    ([1], premises_Answer (onTile 95 (waiting 0x18 0x3FC00 (.item 9) Tile.reset)) 95 0x3FC00 (.item 9) 9 0 true), ([2], premises_Answer (onTile 95 (waiting 0x19 0x3FF80 (.peek true 9) Tile.reset)) 95 0x3FF80 (.peek true 9) 9 0 true),
    ([3], premises_Answer (onTile 95 (waiting 0x1A 0x3FC00 (.code 1) Tile.reset)) 95 0x3FC00 (.code 1) 1 0 true), ([4], premises_Answer (onTile 95 (waiting 0x1B 0x3C00 .ack Tile.reset)) 95 0x3C00 .ack 0 0 true),
    ([5], premises_Answer (onTile 95 (waiting 0x1C 0x3FC00 (.code 1) Tile.reset)) 95 0x3FC00 (.code 1) 1 0 true), ([6], premises_Answer (onTile 95 (waiting 0x18 0x3FC00 .queueFault Tile.reset)) 95 0x3FC00 .queueFault 0 0 true)] = true := by decide +kernel

theorem witness_Bundle : met 3 [([0, 1], premises_Bundle (onTile 95 Tile.reset) 95 (BitVec.ofNat 128 (3 * 2 ^ 124))),
    ([2], premises_Bundle (onTile 95 { Tile.reset with pc := 2047, imem := [(2047, 3)] }) 95 0)] = true := by decide +kernel

theorem witness_TileControl : met 7 [([0, 3, 5], premises_TileControl (setTile awake 95 { Tile.reset with fill := false }) .bmk 95 1), ([1, 4], premises_TileControl (setR [(Reg.TILE_FAULT 95, 0x80000000)] awake) .bmk 95 1),
    ([2, 6], premises_TileControl awake .bmk 95 0xFFFFFFF8)] = true := by decide +kernel

theorem witness_TileUpkeep : met 5 [([0], premises_TileUpkeep (setTile awake 95 { Tile.reset with fill := true, heldAcc := [.window .bmk (.data 8191 0) none] }) .bmk 95 0 8191),
    ([1, 2, 4], premises_TileUpkeep (setTile awake 95 { Tile.reset with fill := true }) .bmk 95 0 0),
    ([3], premises_TileUpkeep (setTile awake 95 { Tile.reset with fill := false, pc := 2047 }) .bmk 95 0 0)] = true := by decide +kernel

theorem witness_TileWindow : met 11 [([0, 6], premises_TileWindow (onTile 95 (dataWord 8191 (aWord 1) Tile.reset)) .bmk 95 8191 5 0 0 (aWord 1) 0 []),
    ([1], premises_TileWindow (onTile 95 { Tile.reset with latchD := some (8191, [1, 2]) }) .bmk 95 8191 5 0 0 0 0 [1, 2]), ([2], premises_TileWindow (onTile 95 Tile.reset) .bmk 95 8191 6 0 0 0 0 []),
    ([3], premises_TileWindow (onTile 95 Tile.reset) .bmk 95 0 0 2047 0 0 0 []), ([4], premises_TileWindow (onTile 95 { Tile.reset with latchI := some (2047, [1, 2, 3]) }) .bmk 95 0 0 2047 3 0 0 [1, 2, 3]),
    ([5], premises_TileWindow (onTile 95 Tile.reset) .bmk 95 8191 4 0 0 0 0 []), ([7, 8], premises_TileWindow (setR [(Reg.TILE_CTRL 95, 0)] (onTile 95 Tile.reset)) .bmk 95 0 0 2047 2 0 0 []),
    ([9], premises_TileWindow awake .bmk 95 8191 0 0 0 0 0 []), ([10], premises_TileWindow (onTile 95 Tile.reset) .bmk 95 0 0 2047 3 0 0 [])] = true := by decide +kernel

/-- A channel 1 of tile 95 with one transfer: 20 bytes of shared SRAM for data word 8 191, or out of it. -/
def moving (ext : Nat) (out : Bool) : State := onTile 95 { Tile.reset with dma := [(1, ⟨some ⟨ext, 8191, 0, 20, 0, true, out⟩, none, 0⟩)] }
/-- Tile 95 with its scrubber on at the ends of its memories. -/
def scrubbing : State := setR [(Reg.TILE_SCRUB_CTRL 95, 0x10E)] (onTile 95 { Tile.reset with scrubD := 8191, scrubI := 2047 })

theorem witness_TileBackground : met 7 [([0, 1], let s := onTile 95 { Tile.reset with writeBacks := [⟨false, 8191, 5⟩] }; premises_TileBackground s s 95 ⟨false, 8191, 5⟩ [] 7 0 0 0 ⟨0, 0, 0, 20, 0, true, false⟩ none 0 []),
    ([2], let s := moving 0x10006C0000 false; premises_TileBackground s s 95 ⟨false, 0, 0⟩ [] 7 0 0 1 ⟨0x10006C0000, 8191, 0, 20, 0, true, false⟩ none 0 (List.replicate 20 0)),
    ([3, 4, 5, 6], premises_TileBackground scrubbing scrubbing 95 ⟨false, 0, 0⟩ [] 7 0 0 0 ⟨0, 0, 0, 20, 0, true, false⟩ none 0 [])] = true := by decide +kernel

theorem witness_Withdrawal : met 3 [([0], let s := onTile 95 { Tile.reset with wait := some ⟨0, true, true, .stop⟩ }
      premises_Withdrawal { s with trv := { s.trv with inbox := [.ask 95 none, .withdraw 95] } } 95 0),
    ([1], let s := onTile 95 { Tile.reset with wait := some ⟨0, true, true, .stop⟩, answer := some .ack }
      premises_Withdrawal { s with trv := { s.trv with inbox := [.withdraw 95] } } 95 0),
    ([2], let s := onTile 95 { Tile.reset with wait := some ⟨0, true, true, .stop⟩ }
      premises_Withdrawal { s with jq := { s.jq with withdraws := [95] } } 95 0)] = true := by decide +kernel

theorem witness_Transfer : met 3 [([0], let s := moving 0x10006C0000 false; premises_Transfer s s 95 1 ⟨0x10006C0000, 8191, 0, 20, 0, true, false⟩ none (List.replicate 20 0) 0),
    ([1], let s := moving 0x10006C0000 true; premises_Transfer s s 95 1 ⟨0x10006C0000, 8191, 0, 20, 0, true, true⟩ none [] 0),
    ([2], let s := moving 0x4000 false; premises_Transfer s (memRead s (dmaPort 95 1 0) 0x4000 20).2 95 1 ⟨0x4000, 8191, 0, 20, 0, true, false⟩ none [] 0)] = true := by decide +kernel

/-! ### Traverse and the queue engine -/

/-- A graph at entry 10, a node of it at 11, node 11's entry as given; entry 12 a timer. -/
def aGraph : GraphE := ⟨false, 4, 100, 60, 20, 20, 3, 5⟩
def aNode (st : NodeState) (counts thr : List Nat) : NodeE := ⟨st, 5, 11, false, 10, 7, counts, thr, false, 0⟩
def aTimer : TimerE := ⟨true, false, 1, 2, 11, 5, 0⟩
def resident (g : GraphE) (n : NodeE) (s : State) : State := putE (putE (putE s 10 (.graph g)) 11 (.node n)) 12 (.timer aTimer)
def trvInbox (l : List TrvMsg) (s : State) : State := { s with trv := { s.trv with inbox := l } }

theorem witness_Token : met 4 [([0], premises_Token (trvInbox [.tokens 96 10 3 255] (resident aGraph (aNode .idle [] []) awake)) 96 10 3 255 [] (aNode .idle [] []) aGraph),
    ([1], let n := aNode .running [0, 0, 0, 1] [0, 0, 0, 1]; premises_Token (trvInbox [.tokens 96 11 3 255] (resident aGraph n awake)) 96 11 3 255 [] n aGraph),
    ([2], let n := aNode .idle [0, 0, 0, 195] [1, 0, 0, 255]; premises_Token (trvInbox [.tokens 96 11 3 60] (resident aGraph n awake)) 96 11 3 60 [] n aGraph),
    ([3], let n := aNode .idle [1, 0, 0, 195] [1, 0, 0, 255]; premises_Token (trvInbox [.tokens 96 11 3 60] (resident aGraph n awake)) 96 11 3 60 [] n aGraph)] = true := by decide +kernel

theorem witness_Dispatch : met 4 [([0], let s := trvInbox [.ask 94 none] awake
      premises_Dispatch { s with trv := { s.trv with asking := [(11, [93, 95])], askedAt := [(95, 1)] } } 94 11 0 0 0 0 [93] [95] [] [] [] (aNode .idle [] [])),
    ([1, 2], let n := { aNode .ready [0, 0, 0, 0] [0, 0, 0, 0] with prio := 63 }
      let s := setR [(Reg.TRV_CTRL, 1)] (resident aGraph n awake)
      premises_Dispatch { s with mono := 100, trv := { s.trv with asking := [(11, [95, 94])], ready := [(64 * 11 + 63, [11])] } } 0 11 0 95 63 11 [] [] [94] [] [] n),
    ([3], premises_Dispatch (trvInbox [.hostDb 95 63] awake) 95 11 63 0 0 0 [] [] [] [] [] (aNode .idle [] []))] = true := by decide +kernel

theorem witness_NodeEnd : met 4 [([0], let n := aNode .running [0, 0, 0, 254] [0, 0, 0, 255]; premises_NodeEnd (trvInbox [.nodeEnd 95 11 0] (resident aGraph n awake)) 95 11 0 [] n aGraph),
    ([1], let n := aNode .running [0, 0, 0, 0] [0, 0, 0, 0]; premises_NodeEnd (trvInbox [.nodeEnd 95 11 1] (resident aGraph n awake)) 95 11 1 [] n aGraph),
    ([2], let n := aNode .running [0, 0, 0, 0] [0, 0, 0, 0]; premises_NodeEnd (trvInbox [.nodeEnd 95 11 2] (resident aGraph n awake)) 95 11 2 [] n aGraph),
    ([3], let n := aNode .cancelPending [0, 0, 0, 0] [0, 0, 0, 0]; premises_NodeEnd (trvInbox [.nodeEnd 95 11 0] (resident aGraph n awake)) 95 11 0 [] n aGraph)] = true := by decide +kernel

theorem witness_Timer : met 4 [([0, 1], let s := resident aGraph (aNode .idle [] []) awake
      let s := putE (putE s 13 (.timer { aTimer with wake := 4 })) 14 (.timer { aTimer with wake := 6 })
      premises_Timer { s with trv := { s.trv with placing := [(11, [12])], delay := [(11, [13, 14])] } } 11 12 0 [] [13] [14] [] aTimer (aNode .idle [] []) aGraph),
    ([2], let n := aNode .running [0, 0, 0, 0] [0, 9, 0, 0]
      let s := setR [(Reg.TRV_CTRL, 1)] (resident aGraph n awake)
      premises_Timer { s with trv := { s.trv with firing := [(11, [⟨0, some [12, 13], [14]⟩])] } } 11 12 0 [13] [] [] [14] aTimer n aGraph),
    ([3], let s := setR [(Reg.TRV_CTRL, 1)] (putE awake 12 (.timer aTimer))
      premises_Timer { s with trv := { s.trv with firing := [(11, [⟨0, some [12], []⟩])] } } 11 12 0 [] [] [] [] aTimer (aNode .idle [] []) aGraph)] = true := by decide +kernel

/-- A command of entry `i`. -/
def trvCmd (s : State) (i : BitVec 15) (n : NodeE) (g : GraphE) (w : Nat := 0) (oc : TrvCycle := ⟨0, books s, books s, []⟩) : List Bool :=
  let r := loadCheck s i.toNat ((rd s Reg.TRV_CMD_ARG0).toNat + 2 ^ 32 * rdf s Reg.TRV_CMD_ARG1 15 0)
  premises_TraverseCommand s r.2.2 .bmk i n g aTimer r.2.1 r.1 w oc 5 6
/-- The image of a graph of length 2 with one node, in DRAM that is not seeded. -/
def image : State := (memWrite (setR [(Reg.DMC_CTRL, 1), (Reg.DMC_NREF, 0), (Reg.TRV_CMD_ARG0, 0x1000)] awake) bmkPort 0x1000 (wordBytes [2 ^ 29 + 2, 2 ^ 16 * 10, 0, 2 ^ 24, 2 * 2 ^ 29, 5, 2, 2 ^ 16 * 3])).2
def inCycle (oc : TrvCycle) (s : State) : State := { s with trv := { s.trv with cycle := some oc } }
theorem witness_TraverseCommand : met 27 [([0], trvCmd { awake with trv := { awake.trv with loading := some ⟨0, []⟩ } } 0 (aNode .idle [] []) aGraph),
    ([1, 24, 26], trvCmd image 32766 (aNode .idle [] []) aGraph), ([2], trvCmd image 32767 (aNode .idle [] []) aGraph),
    ([3], trvCmd (setR [(Reg.TRV_CMD_ARG0, 63)] awake) 0 (aNode .idle [] []) aGraph),
    ([4], let g := { aGraph with cancelled := true, busy := 0, free := 100 }; trvCmd (resident g (aNode .idle [] []) awake) 10 (aNode .idle [] []) g),
    ([5, 25], trvCmd (resident aGraph (aNode .idle [] []) awake) 10 (aNode .idle [] []) aGraph),
    ([6, 20], let n := aNode .idle [0, 0, 0, 0] [0, 0, 0, 0]; trvCmd (resident aGraph n awake) 11 n aGraph),
    ([7, 14], let n := aNode .running [0, 0, 0, 0] [0, 0, 0, 0]; trvCmd (resident aGraph n awake) 11 n aGraph),
    ([8], let n := aNode .cancelPending [0, 0, 0, 0] [0, 0, 0, 0]; trvCmd (resident aGraph n awake) 11 n aGraph),
    ([9], let n := aNode .ready [0, 0, 0, 0] [0, 0, 0, 0]; trvCmd (resident aGraph n awake) 11 n aGraph),
    ([10], let n := { aNode .ready [0, 0, 0, 0] [0, 0, 0, 0] with readyAt := 1 }; let s := resident aGraph n awake
      let oc : TrvCycle := ⟨1, books awake, books s, [.ends 11 0]⟩; trvCmd (inCycle oc s) 11 n aGraph 0 oc),
    ([11], let n := aNode .running [0, 0, 0, 0] [0, 0, 0, 0]; let s := modTile (resident aGraph n awake) 95 (fun t => { t with answer := some (.dispatch 5 6) })
      trvCmd { s with trv := { s.trv with picks := [⟨11, 95, 11, 1⟩] } } 11 n aGraph 95),
    ([12], let g := { aGraph with length := 1 }; trvCmd (putE awake 10 (.graph g)) 10 (aNode .idle [] []) g),
    ([13], let g := { aGraph with length := 2 }; let n := aNode .idle [0, 0, 0, 0] [0, 0, 0, 0]; trvCmd (resident g n awake) 10 n g),
    ([15], let n := aNode .running [0, 0, 0, 195] [0, 0, 0, 1]; trvCmd (setR [(Reg.TRV_CMD_ARG0, 60 * 256 + 3)] (resident aGraph n awake)) 11 n aGraph),
    ([16, 17], let n := aNode .idle [0, 0, 0, 0] [0, 0, 0, 0]; trvCmd (resident aGraph n awake) 12 n aGraph),
    ([18], let n := aNode .idle [0, 0, 0, 0] [0, 0, 0, 0]; let s := resident aGraph n awake
      let oc : TrvCycle := ⟨1, books s, books s, [.fire 12]⟩; trvCmd (inCycle oc s) 12 n aGraph 0 oc),
    ([19], let n := aNode .halted [0, 0, 0, 0] [0, 0, 0, 1]; trvCmd (resident aGraph n awake) 11 n aGraph), ([21], trvCmd awake 96 (aNode .idle [] []) aGraph),
    ([22], let n := aNode .cancelPending [0, 0, 0, 0] [0, 0, 0, 0]; trvCmd (setR [(Reg.TILE_TASK 95, 0x8000000B)] (resident aGraph n awake)) 95 n aGraph),
    ([23], let n := aNode .running [0, 0, 0, 0] [0, 0, 0, 0]; trvCmd (setR [(Reg.TILE_TASK 95, 0x8000000B), (Reg.TRV_CMD_ARG0, 2)] (resident aGraph n awake)) 95 n aGraph)] = true := by decide +kernel

theorem witness_TraverseControl : met 7 [([0], let img := wordBytes [2 ^ 29 + 2, 2 ^ 16 * 10, 0, 2 ^ 24, 2 * 2 ^ 29, 5, 2, 2 ^ 16 * 3]
      premises_TraverseControl { awake with trv := { awake.trv with loading := some ⟨32766, img⟩ } } .bmk 0 32766 img),
    ([1, 4, 6], premises_TraverseControl awake .bmk 1 0 []), ([2], premises_TraverseControl (setR [(Reg.PWR_MODE, 3)] awake) .bmk 1 0 []), ([3, 5], premises_TraverseControl (setR [(Reg.TRV_CTRL, 1)] awake) .bmk 0 0 [])] = true := by decide +kernel

/-- Queue `q` with record `x`, and the item 9 present in the store's slots `l`. -/
def withQueue (q : Nat) (x : Queue) (l : List Nat) (s : State) : State :=
  l.foldl (fun s a => { s with jq := { s.jq with slots := SMap.put 0 s.jq.slots a 9, present := SMap.put false s.jq.present a true } }) (setQueue s q x)
/-- An enabled queue of 8 slots that holds `lev` items. -/
def aQueue (place : Bool) (lev : Nat) : Queue := { Queue.reset with en := true, place := place, base := 4096, rp := 6, wp := 6 + lev, rseq := 65535, sync := true }
def pushing (x : Queue) (l : List Nat) (seq : Nat) (parked : List (Nat × Nat) := []) : List Bool :=
  let s := withQueue 65535 x l awake
  premises_QueuePush { s with jq := { s.jq with inbox := [⟨65535, 9, seq, none⟩], parked := parked } } ⟨65535, 9, seq, none⟩ [] 95
theorem witness_QueuePush : met 8 [([0], pushing { aQueue false 0 with en := false } [] 0), ([1], pushing (aQueue false 0) [] 0 [(95, 65535)]), ([2], pushing (aQueue false 7) [] 0),
    ([3], pushing (aQueue false 8) [] 0), ([4], pushing (aQueue true 8) [] 6), ([5], pushing (aQueue true 0) [] 65535),
    ([6], pushing (aQueue true 8) [4096 + 5] 6), ([7], pushing (aQueue true 8) [] 32767)] = true := by decide +kernel

def requesting (op : JqOp) (x : Queue) (l : List Nat) : List Bool :=
  let s := withQueue 65535 x l awake
  premises_QueueRequest { s with jq := { s.jq with reqs := [⟨95, op, 65535⟩] } } 95 op 65535 []
theorem witness_QueueRequest : met 12 [([0], let s := { awake with jq := { awake.jq with reqs := [⟨95, .take, 65536⟩] } }; premises_QueueRequest s 95 .take 65536 []),
    ([1], requesting .take (aQueue false 1) [4096 + 6]), ([2], requesting .take (aQueue true 1) []), ([3], requesting .peek (aQueue false 0) []), ([4], requesting .skip (aQueue false 0) []),
    ([5], requesting .skip (aQueue true 1) [4096 + 6]), ([6], requesting .skip (aQueue true 1) []), ([7], requesting .mark (aQueue false 8) []), ([8], requesting .rewind (aQueue false 8) []),
    ([9], requesting .rewind { aQueue false 8 with mstate := .lost } []), ([10], requesting .rewind { aQueue false 7 with mstate := .valid, mark := 5 } []),
    ([11], let s := withQueue 65535 (aQueue false 1) [4096 + 6] awake
      premises_QueueRequest { s with jq := { s.jq with reqs := [⟨95, .take, 65535⟩], parked := [(95, 65535)] } } 95 .take 65535 [])] = true := by decide +kernel

def commanded (x : Queue) (s : State := awake) : List Bool := premises_QueueCommand (withQueue 65535 x [] s) .bmk 65535
theorem witness_QueueCommand : met 15 [([0], premises_QueueCommand { awake with jq := { awake.jq with heldPush := some ⟨9, 9, 9, none⟩ } } .bmk 65535),
    ([1], premises_QueueCommand { awake with jq := { awake.jq with disposal := List.replicate 769 ⟨1, 2, 65535, 2⟩ } } .bmk 65535),
    ([2, 13], commanded { aQueue false 0 with en := false } (setQueue awake 3 { aQueue false 0 with base := 4104 })),
    ([3, 7, 8, 10, 14], commanded (aQueue false 0)), ([4], commanded { aQueue false 0 with en := false, disc := 3 }), ([5], commanded { aQueue false 0 with en := false, base := 4100 }),
    ([6], commanded { aQueue false 0 with en := false } (setQueue awake 3 { aQueue false 0 with base := 4096 })), ([9], commanded { aQueue false 0 with bnd := true }),
    ([11], commanded (aQueue false 7)), ([12], commanded (aQueue true 0))] = true := by decide +kernel

def disposing (disc : Nat) (s : State) : List Bool :=
  premises_QueueUpkeep { s with jq := { s.jq with disposal := [⟨1, 2, 65535, disc⟩] } } .bmk 65535 ⟨1, 2, 65535, disc⟩ [] (65535, true) []
theorem witness_QueueUpkeep : met 7 [([0, 4, 5, 6], disposing 2 awake), ([1], disposing 1 awake), ([2], disposing 1 (setR [(Reg.JQ_DRING_CFG, 0x106), (Reg.JQ_DRING_HEAD, 63)] awake)),
    ([3], premises_QueueUpkeep { awake with jq := { awake.jq with events := [(65535, true)] } } .bmk 0 ⟨1, 2, 65535, 2⟩ [] (65535, true) [])] = true := by decide +kernel

def ringed (r : RingRef) (b cfg : Nat) : State := setR [((ringDesc r).cfg, cfg), ((ringDesc r).base, b)] awake
theorem witness_Ring : met 4 [([0], premises_Ring (ringed (.cip 63) 0x6C0000 4) .bmk (.cip 63) 0x100F), ([1], premises_Ring (ringed (.sre 15) 0x7FFFC0 4) .bmk (.sre 15) 0x1004),
    ([2], premises_Ring (ringed .fab 0x680000 4) .bmk .fab 0), ([3], premises_Ring (ringed .fab 0x6C0000 0x1004) .bmk .fab 0)] = true := by decide +kernel

/-! ### Sample-rate, billet and deflate engines, DRAM controller -/

/-- Words 0 to 5 of a sample-rate job of one sample: descriptor, source and destination in shared SRAM. -/
def aSreJob (st : SreStage) (src : Nat := 0x006F0000) : SreJob := ⟨3, 15, 0, 0x6C0000, wordBytes [0x006E0000, 0x10, src, 65536 + 0x10, 0x006F1000, 65536 + 0x10], st⟩
def converting (j : SreJob) (s : State) : State := { s with sre := { s.sre with jobs := [j] } }
theorem witness_SampleRateJob : met 4 [([0], let s := fed (.sre 15) [] (setR [(Reg.SRE_CTRL, 0xF)] awake); let c := sreOpen s (srePort s 0 15) (sramGet s 0x6C0040 64)
      premises_SampleRateJob s c.2 0 15 c.1 0 0 0 0 (aSreJob .waiting) [] [] [] 0 0 []),
    ([1], let h := wordBytes [0x01005000]; let j := aSreJob (.ready h []); let s := sramPut (converting j awake) 0x6F0000 [1, 2]
      premises_SampleRateJob s s 3 15 .waiting 0 0 0 0 j [] h [] 1 2 []),
    ([2], let h := wordBytes [0x01005000]; let j := aSreJob (.ready h []) 0; let s := converting j awake
      premises_SampleRateJob s (memRead s (srePort s 3 15) 0x1000000000 2).2 3 15 .waiting 0 0 0 0 j [] h [] 0 0 []),
    ([3], let j := aSreJob (.ended 1 3 1 1 [(0x10006F1000, [1, 2])]); let s := converting j awake
      premises_SampleRateJob s (memWrites (srePort s 3 15) [(0x10006F1000, [1, 2])] s).2 3 15 .waiting 1 3 1 1 j [] [] [] 0 0 [(0x10006F1000, [1, 2])])] = true := by decide +kernel

def loading (x : Option (Nat × Nat)) (s : State) : State := { s with sre := { s.sre with load := x } }
theorem witness_CoefficientLoad : metBut [3] 5 [([0], premises_CoefficientLoad (setR [(Reg.SRE_CMD_ARG0, 0x4000000F)] awake) awake .bmk 0 0 []),
    ([1], premises_CoefficientLoad (setR [(Reg.SRE_CMD_ARG0, 0x40000010)] awake) awake .bmk 0 0 []), ([2], premises_CoefficientLoad (loading (some (1, 2)) awake) awake .bmk 0 0 []),
    ([4], let s := loading (some (15, 0)) awake; premises_CoefficientLoad s (memRead s ⟨13, 1, none⟩ 0 8192).2 .bmk 15 0 [])] = true := by decide +kernel

/-- The fourth clause: 8 192 bytes of shared SRAM, whose values need not be computed. -/
theorem witness_CoefficientLoad_3 : (premises_CoefficientLoad (loading (some (15, 0x10006C0000)) awake) (loading (some (15, 0x10006C0000)) awake) .bmk 15 0x10006C0000
    (getBytes awake.sram 0x6C0000 8192)).getD 3 false = true := by
  have c : decide (Awake' (loading (some (15, 0x10006C0000)) awake)) = true := by decide +kernel
  have h : memRead (loading (some (15, 0x10006C0000)) awake) ⟨13, 1, none⟩ 0x10006C0000 8192 = (some (getBytes awake.sram 0x6C0000 8192), loading (some (15, 0x10006C0000)) awake) := by
    simp [memRead, sramBase, inGeneral, loading]
  simp only [premises_CoefficientLoad, c, if_true, List.getD_cons_succ, List.getD_cons_zero]
  exact decide_eq_true ⟨rfl, by decide +kernel, h, trivial⟩

/-- A billet job of one block of four words from data word 8 188 of tile 95, encoded or decoded at 0x0010_006E_0000, and its state. -/
def aBilJob (dec f3 : Nat) (ended : Option Nat) : BilJob := ⟨15, 0, 0x6C0000, wordBytes [0x006E0000, 0x10, 95 * 2 ^ 25 + 8188 * 2 ^ 12 + 1, dec * 2 ^ 31 + f3], 0, 0, 0, ended⟩
def billet (j : BilJob) (s : State := setTile awake 95 { Tile.reset with fill := false }) : State := { s with bil := { s.bil with jobs := [j] } }
def unpacking (f3 : Nat) (bs : List Byte) (good : Bool) : List Bool :=
  let j := aBilJob 1 f3 none; let s := sramPut (billet j) 0x6E0000 bs
  let size := bilBytes (bilRatio j.entry); let d := getBytes s.sram 0x6E0000 size; let ws := ((bilDecode (bilRatio j.entry) d).getD ([], false)).1
  premises_BilletJob s (memRead s (bilPort j.entry) 0x10006E0000 size).2 15 0 good j [] (fun k => ws.getD k 0) d
theorem witness_BilletJob : met 9 [([0], premises_BilletJob (fed (.bil 15) [] (setR [(Reg.BIL_CTRL, 1)] awake)) awake 15 0 true (aBilJob 0 0 none) [] (fun _ => 0) []),
    ([1], let j := aBilJob 0 0 none; premises_BilletJob (billet j) (memWrite (billet j) (bilPort j.entry) 0x10006E0000 (bilEncode (bilRatio j.entry) (bilRnd j.entry) 0 [0, 0, 0, 0]).1).2 15 0 true j [] (fun _ => 0) []),
    ([2], unpacking 0 (bilEncode 0 0 0 [0, 0, 0, 0]).1 true), ([3], unpacking (2 ^ 26) ((bilEncode 0 0 0 [0, 0, 0, 0]).1.set 5 0x5A) false),
    ([4], unpacking (2 ^ 30) (List.replicate 80 0xFF) false),
    ([5], let j := aBilJob 0 0 none; premises_BilletJob (billet j (setTile awake 95 { Tile.reset with fill := true })) awake 15 0 true j [] (fun _ => 0) []),
    ([6], let j := aBilJob 0 0 none; premises_BilletJob (setR [(Reg.CLK_GATE_STAT 1, 0xFFFFFFFF)] (billet j)) awake 15 0 true j [] (fun _ => 0) []),
    ([7], let j := aBilJob 1 0 none; premises_BilletJob (setR [(Reg.CLK_GATE_STAT 1, 0xFFFFFFFF)] (billet j)) awake 15 0 true j [] (fun _ => 0) []),
    ([8], premises_BilletJob (billet (aBilJob 0 0 (some 5))) awake 15 5 true (aBilJob 0 0 (some 5)) [] (fun _ => 0) [])] = true := by decide +kernel

/-- A deflate job of ring 3: `op` 0 compress or 1 decompress, a decompression started anew, of `n` bytes at `src`, with `room` bytes of output at 0x0010_006F_0000. -/
def aDflJob (src n room op : Nat) (ended : Option (Nat × Nat × Nat)) : DflJob :=
  ⟨3, 0, 0x6C0000, wordBytes [0x100000, 0, src % 2 ^ 32, src / 2 ^ 32, n, 0x006F0000, 0x10, room, op * (2 ^ 30 + 2 ^ 29), 1000, 0, 0, 0, 0, 0, 0], ended⟩
def deflating (src n room op : Nat) (data : List Byte) (c : DflCtx := .none) : List Bool :=
  let j := aDflJob src n room op none; let s := sramPut { awake with dfl := { awake.dfl with job := some j, ctx := [(0x100000, c)] } } 0x6E0000 data
  let rq := accelPort 6 (wdf j.entry 8 21 20); let m := memRead s rq src n; let d := m.1.getD []
  premises_DeflateJob s m.2 (memWrite m.2 rq 0x10006F0000 (dflResult s j.entry d).1).2 3 0 0 0 j d
theorem witness_DeflateJob : met 7 [([0, 3], premises_DeflateJob (fed (.dfl 3) [] (setR [(Reg.DFL_CTRL, 1)] awake)) awake awake 3 0 0 0 (aDflJob 0 0 0 0 none) []),
    ([1], deflating 0x10006E0000 0 1 0 [] (.comp { Deflate.start with bits := List.replicate 8 true, fin := true })),
    ([2], deflating 0x10006E0000 9 100 1 [1, 4, 0, 0xFB, 0xFF, 0x61, 0x62, 0x63, 0x64]), ([4], deflating 0 1 1 0 []), ([5], deflating 0 1 1 1 []),
    ([6], let j := aDflJob 0 0 0 0 (some (1, 5, 6)); premises_DeflateJob { awake with dfl := { awake.dfl with job := some j } } awake awake 3 1 5 6 j [])] = true := by decide +kernel

/-! ### DRAM controller -/

def seededTo (n : Nat) (s : State) : State := { s with dmc := { s.dmc with seedPos := [(0, n), (1, n), (2, n), (3, n)] } }
/-- The check block of address `a` is in the ECC cache. -/
def cachedAt (a : Nat) (s : State) : State := setChkCache s (chanOf s a) [⟨chkAddr s (localOf s a / 64 * 64) / 64, false, List.replicate 64 0⟩]
def heldAt (p : Nat) (s : State) : State := setDmcHeld s p [⟨false, ⟨p, 0, none⟩, 0, []⟩]
theorem witness_DramRequest : met 7 [([0], premises_DramRequest (dramOn awake) 15 0 none 0x3F []), ([1], premises_DramRequest (cachedAt 0x40 (seededTo 512 (dramOn awake))) 0 63 (some 2) 0x40 []),
    ([2], premises_DramRequest (cachedAt 0x40 (seededTo 512 (dramOn awake))) 0 63 (some 2) 0x78 (List.replicate 8 7)), ([3], premises_DramRequest (cachedAt 0x40 (dramOn awake)) 15 63 (some 3) 0x7F [1]),
    ([4], premises_DramRequest (heldAt 15 (dramOn awake)) 15 0 none 0 []), ([5], premises_DramRequest awake 0 0 none 0 []), ([6], premises_DramRequest (setR [(Reg.DMC_STAT, 0x10)] awake) 14 0 none 0 [])] = true := by decide +kernel

def aRead (ch : Nat) : DmcReq := ⟨false, 15, 0, 1, ch, 0, none, 0⟩
theorem witness_DramScheduling : met 6 [([0, 4], premises_DramScheduling awake 3 0 15 [96] 0 (aRead 3)), ([1, 3, 5], premises_DramScheduling (setDmcQueue (dramOn awake) 3 [aRead 3]) 3 1 15 [0] 0 (aRead 3)),
    ([2, 5], let s := setDmcQueue (setR [(Reg.DMC_SCHED, 16)] (dramOn awake)) 3 [aRead 3]; premises_DramScheduling (setBank s (bankIx s 3 0) { Bank.reset with openRow := some (reqRow s (aRead 3)) }) 3 4 15 [0] 0 (aRead 3))] = true := by decide +kernel

def retraining (r : Retrain) (s : State := awake) : State := setRetrain (setR [(Reg.DMC_RETRAIN, 0x80000001)] (dramOn s)) 1 r
def freqIn (f : FreqPhase) : State := { awake with dmc := { awake.dmc with freq := f } }
def owing (n : Nat) (s : State) : State := setBank s 31 { Bank.reset with owed := n }
def upkeep (s : State) (rank : Fin 2 := 0) (postpone : Bool := false) (v : Word := 0) (t0 tg : Nat := 0) : List Bool := premises_DramUpkeep s 1 rank 15 postpone .bmk v t0 tg 0
def scrubOn (p : Nat) : State := let s := setR [(Reg.DMC_SCRUB_CTRL, 0x10000)] (dramOn awake); let s := seededTo (dmcData s) s; { s with dmc := { s.dmc with scrubPos := [(1, p)] } }
def refreshing : State := dramOn awake
def postponing : State := setDmcQueue (setBank (dramOn awake) 47 { Bank.reset with owed := 7 }) 1 [aRead 1]
/-- The refresh interval, a parameter of `premises_DramUpkeep`, of the two states of clauses 2 and 3: DMC_TSET's trefipb is 0 there. -/
theorem witness_DramUpkeep_interval : refreshInterval refreshing 2 = 0 ∧ refreshInterval postponing 2 = 0 := by
  have h : ∀ s : State, rdf s (Reg.DMC_TSET_W (activeSet s) 3) 31 16 = 0 → refreshInterval s 2 = 0 := fun s h => by simp [refreshInterval, h]
  exact ⟨h _ (by decide +kernel), h _ (by decide +kernel)⟩
theorem witness_DramUpkeep : met 24 [([0], upkeep awake), ([1], upkeep (setBank (dramOn awake) 47 { Bank.reset with owed := 8 })), ([2], upkeep postponing 0 true),
    ([3, 4], upkeep refreshing), ([5], upkeep (retraining ⟨0, none, none⟩)), ([6], upkeep (setDmcQueue (retraining ⟨0, none, none⟩) 1 [aRead 1])), ([7], upkeep (freqIn (.deferred 1))), ([8], upkeep (retraining ⟨0, some 7, none⟩) 0 false 0 7),
    ([9], upkeep (freqIn (.deferred 1)) 0 false 0x100), ([10], upkeep (setR [(Reg.DMC_FREQ, 0)] awake) 0 false 0x130), ([11], upkeep (setR [(Reg.DMC_STAT, 0x10)] awake) 0 false 0x100), ([12], upkeep (setR [(Reg.DMC_FREQ, 0)] awake) 0 false 0x100),
    ([13], upkeep (setR [(Reg.DMC_FREQ, 3)] awake) 0 false 0x100), ([14], upkeep (freqIn (.deferred 3)) 0 false 0 0 3), ([15], upkeep (freqIn (.changing 3)) 0 false 0 0 3), ([16], upkeep (scrubOn 0)), ([17], upkeep (scrubOn (2 ^ 40))),
    ([18], upkeep (seededTo 0 (setR [(Reg.DMC_STAT, 0x20)] awake))), ([19], upkeep awake 0 false 1), ([20], upkeep (setR [(Reg.DMC_CTRL, 0x80000000)] awake) 0 false 1), ([21, 22, 23], upkeep (dramOn awake))] = true := by decide +kernel

/-! ### Cipher engine -/

/-- Page 63 has slots 10 to 13; its blob of `len` bytes stands at the address `a`; KEK 1 is 00 01 … 1F. -/
def cipPage (a len : Nat) (s : State := awake) : State :=
  let s := setR [(Reg.CIP_CTRL, 0x141), (Reg.CIP_KEK_VALID, 2), (Reg.CIP_PAGE_SLOTS 63, 0x4000A), (Reg.CIP_U_ARG0 63, a % 2 ^ 32), (Reg.CIP_U_ARG1 63, a / 2 ^ 32), (Reg.CIP_U_ARG2 63, len)] s
  { s with cip := { s.cip with seeded := true, keks := [(1, (List.range 32).map (BitVec.ofNat 8))] } }
def cipCmd (s : State) (slot : BitVec 12) (kek : Fin 16 := 1) (v : Word := 0) : List Bool :=
  premises_CipherCommand s (memRead (wrb s (Reg.CIP_U_CMD_STAT 63) 31 true) cipPort (rd2 s (Reg.CIP_U_ARG0 63) (Reg.CIP_U_ARG1 63)) (rdf s (Reg.CIP_U_ARG2 63) 7 0)).2 .bmk 63 kek slot v [] [] ⟨0, [], [], []⟩ false
/-- A slot of suite 1 in session form. -/
def slotted (slot : Nat) (s : State := cipPage 0x10006C0000 40) : State :=
  installKeys s 63 slot false ⟨1, List.replicate (keyLen 1) 1, List.replicate (saltLen 1) 2, List.replicate (authLen 1) 3⟩
/-- A slot of suite 3, which takes a pair, in session form. -/
def paired (slot : Nat) (s : State := cipPage 0x10006C0000 40) : State :=
  installKeys s 63 slot false ⟨3, List.replicate (keyLen 3) 1, List.replicate (saltLen 3) 2, List.replicate (authLen 3) 3⟩

theorem witness_CipherCommand : metBut [5, 6, 7, 8] 24 [([0, 10, 19, 23], cipCmd (cipPage 0x10006C0000 40) 14), ([1], cipCmd (cipPage 0x10006C0004 40) 13), ([2], cipCmd (cipPage 0x10006C0000 41) 13), ([3], cipCmd (cipPage 0x10006C0000 80) 13 2),
    ([4], cipCmd (cipPage 0 40) 13), ([9, 15], cipCmd (cipPage 0x10006C0000 40) 13), ([11], cipCmd (slotted 13) 13), ([12], cipCmd (cipPage 0x10006C0000 40) 9),
    ([13], cipCmd (slotted 13 (cipPage 0x10006C0002 40)) 13), ([14], cipCmd (slotted 13) 13 0),
    ([16], cipCmd (setR [(Reg.CIP_CTRL, 0x140)] (cipPage 0x10006C0000 40)) 13), ([17], cipCmd (setR [(Reg.CIP_U_CMD_STAT 63, 0x80000000)] (cipPage 0x10006C0000 40)) 13), ([18], cipCmd awake 13),
    ([20], cipCmd (setR [(Reg.PWR_MODE, 10)] (cipPage 0x10006C0000 40)) 13), ([21], cipCmd awake 0 1 0x10FFF), ([22], cipCmd awake 0 1 0x00020FFF)] = true := by decide +kernel

/-- UNWRAP of a blob of shared SRAM, its plaintext and keys as the blob holds them. -/
def unwrapping (bs : List Byte) (slot : BitVec 12) (p : List Byte) (k : Keys) : List Bool :=
  let s := sramPut (cipPage 0x10006C0000 bs.length) 0x6C0000 bs
  premises_CipherCommand s (wrb s (Reg.CIP_U_CMD_STAT 63) 31 true) .bmk 63 1 slot 0 bs p k false
/-- Session keys of suite 3 that are all zero, with their header, and their wrapping by KEK 1. -/
def zeroKeys : List Byte := leBytes 4 0x01340000 ++ List.replicate 66 0
def zeroBlob : List Byte := beBytes 80 4344856369736748329725432193224049882000163780886842532780225686703461248796377846612972700724812470302816397658508131676294054754413124798172332697491705816769861627715183476882548089904133931
theorem witness_CipherCommand_unwrap : metBut ([0, 1, 2, 3, 4] ++ (List.range 15).map (· + 9)) 24 [([5], unwrapping (List.replicate 40 0) 13 [] ⟨0, [], [], []⟩),
    ([6], unwrapping badBlob 13 (List.replicate 32 0) ⟨0, [], [], []⟩), ([7], unwrapping zeroBlob 13 zeroKeys ⟨3, List.replicate (keyLen 3) 0, List.replicate (saltLen 3) 0, List.replicate (authLen 3) 0⟩),
    ([8], unwrapping zeroBlob 12 zeroKeys ⟨3, List.replicate (keyLen 3) 0, List.replicate (saltLen 3) 0, List.replicate (authLen 3) 0⟩)] = true := by decide +kernel

def aCipCmd : CipCmd := ⟨63, 2, 0, none, 12, 0, 0, true⟩
/-- A job of ring 63 on core 7, of `n` bytes at `a`. -/
def aCipJob (a n pre : Nat) (unprot : Bool) (ended : Option CipEnd) (ing : Option Ingress) : CipJob := ⟨ing, 63, 0, 0x6C0000, ⟨12, a, n, 0x10006F0000, 0, unprot, false, false, false, 0, 0x10006F0000, 2⟩, 7, pre, [], ended⟩
def cipJobs (s : State) (j : CipJob := aCipJob 0 0 0 false none none) (u v : State := s) (e : CipEnd := ⟨0, 0, 0, [], []⟩) (p c : List Byte := []) : List Bool :=
  premises_CipherJob s u v 7 63 anIngress [] j [] e aCipCmd [] p c
def jobState (j : CipJob) : State := cipState (fun c => { c with jobs := [j] })
def disabled : State := setR [(Reg.CIP_CTRL, 0x140)] awake
theorem witness_CipherJob : met 16 [([0], cipJobs (cipState (fun c => { c with cmds := [aCipCmd] }))), ([1], cipJobs (setR [(Reg.CIP_SCHED, 0)] (fed (.cip 63) [] (cipState id)))), ([2], cipJobs (cipState (fun c => { c with ingress := [anIngress] }))),
    ([3], cipJobs (fed (.cip 63) [] (cipState id))), ([4], cipJobs (cipState id)), ([5], cipJobs (cipState (fun c => { c with cmds := [aCipCmd] }) disabled)), ([6], cipJobs (cipState (fun c => { c with ingress := [anIngress] }) disabled)),
    ([7, 8], let j := aCipJob 0 0 4 false none none; cipJobs (jobState j) j), ([9], let j := aCipJob 0 0 4 true none none; cipJobs (jobState j) j),
    ([10], let j := aCipJob 0x10006E0000 12 0 false none none; cipJobs (jobState j) j (jobState j) (jobState j) ⟨0, 0, 0, [], []⟩ (List.replicate 12 0)),
    ([11], let j := aCipJob 0x10006E0000 12 0 true none none; cipJobs (jobState j) j (jobState j) (jobState j) ⟨0, 0, 0, [], []⟩ (List.replicate 12 0) (List.replicate 32 0)),
    ([12], let j := aCipJob 0 12 0 false none none; cipJobs (jobState j) j (memRead (jobState j) (jobPort j.req) 0 12).2),
    ([13], let e : CipEnd := ⟨0, 1, 0, [(0x10006F0000, [7])], []⟩; let j := aCipJob 0 0 0 false (some e) none; cipJobs (jobState j) j (memWrites (jobPort j.req) e.writes (jobState j)).2 (jobState j) e),
    ([14], let j := aCipJob 0 0 0 false (some ⟨1, 0, 0, [], []⟩) (some anIngress); cipJobs (jobState j) j (jobState j) (jobState j) ⟨1, 0, 0, [], []⟩),
    ([15], let e : CipEnd := ⟨0, 1, 0, [(0x10006F0000, [7])], []⟩; let j := aCipJob 0 0 0 false (some e) (some anIngress)
      let s := inc (cipState (fun c => { c with results := [(anIngress, e)] })) Reg.CIP_INGRESS_JOBS
      cipJobs (jobState j) j (memWrites (jobPort j.req) e.writes s).2 s e)] = true := by decide +kernel

/-! ### Ethernet ports and packet path -/

/-- A UDP packet to the station address 0, from and to address and port 0. -/
def udpFrame (pay : List Byte) : List Byte := List.replicate 12 0 ++ [8, 0, 0x45, 0, 0, 0, 0, 0, 0, 0, 0, 17] ++ List.replicate 14 0 ++ beBytes 2 (pay.length + 8) ++ [0, 0] ++ pay
/-- One flow, of port 0 of the local address 0; 16 granules of 256 bytes. -/
def flows (s : State) : State :=
  sramPut (setR [(Reg.PKT_CTRL, 1), (Reg.PKT_FLOW_CFG, 1), (Reg.PKT_FLOW_BASE_LO, 0x006C0000), (Reg.PKT_FLOW_BASE_HI, 0x10), (Reg.PKT_LADDR_W0 0, 0x80000000), (Reg.PKT_LADDR_W5 0, 0x00010000),
    (Reg.PKT_GRAN_CFG, 16), (Reg.PKT_GRAN_BASE_LO, 0x00700000), (Reg.PKT_GRAN_BASE_HI, 0x10), (Reg.PKT_GFL_BASE_LO, 0x00710000), (Reg.PKT_GFL_BASE_HI, 0x10)] s) 0x6C0000 [0, 0, 0, 0x80]
def noUdp : Parsed := ⟨false, 0, [], [], 0, 0, 0, 0⟩
/-- A frame that arrives at port 15. -/
def arriving (s : State) (frame : List Byte) (good : Bool := true) : List Bool :=
  let plan := (cellPlan s (arrivalCells frame) 15 (frame.length + 4)).getD (0, 0, 0)
  let counted := addc (inc s (Reg.ETH_RX_FRAMES 15)) (Reg.ETH_RX_BYTES 15) (frame.length + 4)
  let x := corrX 0 (rxCorr s 15)
  let cl := classify (storeFrame counted ⟨15, frame, 0, 0, 0, 1, x, ntAtX counted x⟩ plan).2 15 frame good
  let f := match cl.1 with | some (.rtp f e) => (f, e) | _ => (0, [])
  let g := match cl.1 with | some (.forward q c) => (q, c) | _ => (0, 0)
  premises_FrameReception s cl.2 s 15 frame good 0 plan 0 f.1 g.1 g.2 f.2 noUdp anIngress ⟨0, 0, 0, [], []⟩ [] [] []
/-- A stored RTP frame of flow 0 whose entry's first word is `w`. -/
def rtpStored (w : Nat) (pay : List Byte) (s : State := pktState (fun p => { p with gTail := 16 }) (flows awake)) (src : Nat := 0) : List Bool :=
  let d := udpFrame pay; let e := wordBytes [w, 0, 0, src, 0, 0, 0, 0]
  let s := pktState (fun p => { p with frames := [(0, some ⟨15, d, 1, 0, 0, 1, 0, 0⟩)], inq := [(0, .rtp 0 e)] }) s
  let udp := (parseUdp d).getD noUdp; let p := udpPay d udp
  let a := granAllocs ((p.length + granSize s - 9) / (granSize s - 8)) (pktState (fun p => { p with inq := [] }) s)
  premises_FrameReception s a.2 (writeGrans a.2 (monoOf 0) a.1 p).2 15 [] true 0 (0, 0, 0) 0 0 0 0 e udp anIngress ⟨0, 0, 0, [], []⟩ [] [] a.1
def settled (s : State) (e : CipEnd := ⟨0, 0, 0, [], []⟩) : List Bool := premises_FrameReception s s s 15 [] true 0 (0, 0, 0) 0 0 0 0 [] noUdp anIngress e [] [] []
def rtpBytes (n : Nat) : List Byte := 0x80 :: List.replicate (n - 1) 0

theorem witness_FrameReception : met 20 [([0], arriving awake (List.replicate 60 0)), ([1], arriving (setR [(Reg.PWR_MODE, 10)] (portUp)) (List.replicate 60 0)),
    ([2], arriving (pktState (fun p => { p with sh := 7680, own := [(15, 32)] }) portUp) (List.replicate 60 0)), ([3], arriving portUp (List.replicate 59 0)),
    ([4], arriving portUp (List.replicate 12 0 ++ [0x88, 0xB5] ++ List.replicate 46 0)), ([5], arriving (pktState (fun p => { p with fwd := [(0, ⟨true, 0, 1, 3⟩)] }) portUp) (List.replicate 5 0 ++ [1] ++ List.replicate 54 0)),
    ([6], arriving (flows portUp) (udpFrame (rtpBytes 18))), ([7], arriving (setR [(Reg.PWR_MODE, 3)] portUp) (List.replicate 60 0)),
    ([8], rtpStored 0x80000000 (rtpBytes 11)), ([9], rtpStored 0xA0000000 ((rtpBytes 12)) (flows awake) 1), ([10], rtpStored 0xC0000000 (rtpBytes 249)),
    ([11], rtpStored 0x80000000 (rtpBytes 12) (flows awake)), ([12], rtpStored 0x80000000 (rtpBytes 12)), ([13], rtpStored 0xC0000000 (rtpBytes 12)),
    ([14], rtpStored 0x80000000 [] (setR [(Reg.PWR_MODE, 10)] awake)),
    ([15], settled (setR [(Reg.CIP_CTRL, 0x141)] (pktState (fun p => { p with unprot := [anIngress] }) { awake with cip := { awake.cip with seeded := true } }))),
    ([16, 19], settled (pktState (fun p => { p with unprot := [anIngress] }) awake)), ([17], settled (cipState (fun c => { c with results := [(anIngress, ⟨0, 0, 0, [], []⟩)] }))),
    ([18], settled (cipState (fun c => { c with results := [(anIngress, ⟨1, 0, 0, [], []⟩)] })) ⟨1, 0, 0, [], []⟩)] = true := by decide +kernel

def flowCmd (s : State) (k : Nat) (flow : BitVec 16 := 0) (v : Word := 0) : List Bool :=
  let s1 := wrb s Reg.PKT_FLOW_CMD_STAT 31 true; let a := rd2 s Reg.PKT_FLOW_CMD_ARG0 Reg.PKT_FLOW_CMD_ARG1 % 2 ^ 48; let e := flowAddr s flow.toNat
  let w := memWrite s1 pktPort e (List.replicate 64 0)
  let r := if k = 0 then copy64 s1 a e else if k = 1 then copy64 s1 e a else (if w.1 then 0 else 4, w.2)
  premises_PacketCommand s r.2 .bmk flow v 3 r.1 w.1
/-- A set-flow command with its entry at 0x0010_006E_0000 + `a`. -/
def setFlow (a : Nat) : State := setR [(Reg.PKT_FLOW_CMD_ARG0, 0x006E0000 + a), (Reg.PKT_FLOW_CMD_ARG1, 0x10)] (flows awake)
theorem witness_PacketCommand : met 15 [([0], flowCmd (setR [(Reg.PKT_FLOW_CMD_STAT, 0x80000000)] awake) 0), ([1], flowCmd (setR [(Reg.PWR_MODE, 10)] awake) 0), ([2], flowCmd (setFlow 63) 0), ([3, 4], flowCmd (setFlow 0) 0 1), ([5], flowCmd (setFlow 0) 0),
    ([6], flowCmd (setFlow 0) 1), ([7], flowCmd (setFlow 0) 2), ([8, 9, 14], flowCmd awake 0 0 1), ([10], flowCmd (setR [(Reg.PWR_MODE, 10)] awake) 0 0 1), ([11], flowCmd awake 0),
    ([12], flowCmd (fed (.gret 3) [16, 0, 0, 0] (setFlow 0)) 0), ([13], flowCmd (fed (.gret 3) [15, 0, 0, 0] (setFlow 0)) 0)] = true := by decide +kernel

/-- A transmit entry of port 15 and class 7: `n` header bytes at 0x0010_006E_0000, no payload, its gate at 0x0010_006E_0040. -/
def aTxEntry (n hi : Nat) : List Byte := wordBytes [0x006E0000, hi, n, 0, 0, 0, 15 * 2 ^ 28 + 7 * 2 ^ 25, 0, 0, 0x006E0040, 0x10, 0, 0, 0, 0, 0]
def sending (s : State) (x : TxFrame := ⟨0, .fwd, none, false, true, none⟩) (w : OnWire := ⟨x, [], 0, 0⟩) (h : TxHold := ⟨⟨15, 0, 0x6C0000, false⟩, [], none, 0, 0⟩) (lt : Nat := 0) (port : Fin 16 := 15) : List Bool :=
  let off := ringEntry s (.txr 15) (ringNext s (.txr 15)); let e := sramGet s off 64
  let a := memRead (setRingNext s (.txr 15) (ringNext s (.txr 15) + 1)) pktPort (wdAddr e 0) (txHdrLen e)
  let g := memRead (notBefore s (h.since + 1250 * (h.polls + 1))) pktPort (wdAddr h.bytes 9) 8
  let u := match holdAt s 15 with | some _ => g.2 | none => a.2
  premises_FrameTransmission s u a.2 15 port 7 x w h ((cellPlan s .shared 16 (txHdrLen e + 4)).getD (0, 0, 0)) (a.1.getD []) [] ((txSums e (a.1.getD [])).getD []) (g.1.getD []) lt 0xFF
/-- A fetched entry of ring 15 that waits for its gate, polled `n` times, the gate holding `g`. -/
def gated' (n : Nat) (g : List Byte) : List Bool :=
  let h : TxHold := ⟨⟨15, 0, 0x6C0000, false⟩, aTxEntry 14 0x10, none, 0, n⟩
  sending (sramPut (setHold (fed (.txr 15) [] awake) 15 (some h)) 0x6E0040 g) ⟨0, .fwd, none, false, true, none⟩ ⟨⟨0, .fwd, none, false, true, none⟩, [], 0, 0⟩ h
/-- A frame in class queue 7 of port 15. -/
def queued (x : TxFrame := ⟨0, .fwd, none, false, true, none⟩) (s : State) : State := setEg (pktState (fun p => { p with frames := [(0, some ⟨9, List.replicate 60 0, 1, 0, 0, 1, 0, 0⟩)] }) s) (egKey 15 7) [x]
theorem witness_FrameTransmission : met 19 [([0], sending (fed (.txr 15) (aTxEntry 13 0x10) portUp)), ([1], sending (fed (.txr 15) (aTxEntry 14 0x20) portUp)), ([2], sending (pktState (fun p => { p with sh := 7680 }) (fed (.txr 15) (aTxEntry 128 0x10) portUp))),
    ([3], sending (fed (.txr 15) (aTxEntry 14 0x10) portUp)), ([4], gated' 498 [0, 0, 0, 0]), ([5], gated' 499 [0, 0, 0, 0]), ([6], gated' 0 [0, 0, 0, 0x88]),
    ([7], sending (queued ⟨0, .fwd, some 5, false, true, none⟩ (setR [(Reg.ETH_TC_CFG 15 7, 1)] awake)) ⟨0, .fwd, some 5, false, true, none⟩ ⟨⟨0, .fwd, none, false, true, none⟩, [], 0, 0⟩ ⟨⟨15, 0, 0, false⟩, [], none, 0, 0⟩ 5),
    ([8, 14], sending (queued ⟨0, .fwd, none, false, true, none⟩ portUp)), ([9, 16], sending portUp), ([10, 17, 18], sending awake),
    ([11], let w : OnWire := ⟨⟨0, .fwd, none, false, true, none⟩, [], 0, 0⟩; sending (setWire awake 15 (some w)) w.tx w),
    ([12], let w : OnWire := ⟨⟨0, .fwd, none, false, true, none⟩, [], 0, 0⟩; sending (setWire (setR [(Reg.PWR_MODE, 10)] awake) 15 (some w)) w.tx w),
    ([13], sending (queued ⟨0, .fwd, none, false, true, none⟩ awake)),
    ([15], sending (setR [(Reg.ETH_CTRL 14, 5)] awake) ⟨0, .fwd, none, false, true, none⟩ ⟨⟨0, .fwd, none, false, true, none⟩, [], 0, 0⟩ ⟨⟨15, 0, 0, false⟩, [], none, 0, 0⟩ 0 14)] = true := by decide +kernel

/-! ### Datum and Plumb -/

def dtmState (f : Dtm → Dtm) (s : State := awake) : State := { s with dtm := f s.dtm }
/-- A servo of source 1 in ACQUIRE, at monotonic count 5. -/
def serving (f : Dtm → Dtm := id) : State :=
  dtmState (fun d => f { d with state := 1 }) { setR [(Reg.DTM_SRV_CFG, 1), (Reg.DTM_SRV_LIM, 1000), (Reg.DTM_STEP_THRESH, 100000)] awake with mono := 5 }
def timed (s : State) (v : Word := 1) (lo hi : Word := 0) : List Bool := premises_NetworkTime s .bmk v lo hi
theorem witness_NetworkTime : met 22 [([0, 1, 3, 6, 7, 9, 10, 11, 12, 21], timed awake), ([2, 4, 13, 19], timed (serving (fun d => { d with stepAt := some 5 }))),
    ([5], timed (dtmState (fun d => { d with slew := 9 }) (setR [(Reg.DTM_SLEW_CFG, 1)] awake))), ([8], timed (dtmState (fun d => { d with pend := true }))),
    ([14], timed (serving) 1 0 0x10), ([15], timed (serving (fun d => { d with pend := true })) 1 0 0x10), ([16], timed (serving) 1 0 0xFFFFFFF0),
    ([17], timed (serving (fun d => { d with first := true })) 1 1 0), ([18], timed (serving) 1 1 0), ([20], timed (serving (fun d => { d with state := 2 })))] = true := by decide +kernel

def pins (s : State) (old : Word := 0) (off : Option Word := none) (k : Fin 5 := 4) (n : Nat := 0) : List Bool := premises_TimePinsAndPlumb s .bmk 3 k true 1 old off n []
/-- Pin 4 with the record `c`, its rising edges captured. -/
def captured (c : CapIn) : State := dtmState (fun d => { d with ins := [(4, c)] }) (setR [(Reg.DTM_EVI_CFG 4, 3)] awake)
/-- SyncE on, over a port whose link is up. -/
def synced (src : Nat) (st : Nat) (up : Nat := 1) : State := dtmState (fun d => { d with state := st }) (setR [(Reg.DTM_SYNCE_CFG, 1), (Reg.ETH_STAT 0, up), (Reg.DTM_SRV_CFG, src)] awake)
def aPeer : Peer := { Peer.new 9 5 with haveA := true, primed := true, haveMin := true, tM := 65536 * 10 ^ 9, tF := 0, inTable := true, heard := true }
def ensemble (min : Nat) (ps : List Peer) : State := dtmState (fun d => { d with state := 3, peers := ps }) (setR [(Reg.DTM_PLUMB_ENS_CFG, 2 ^ 31 + min * 2 ^ 16 + 0xFFFF)] awake)
theorem witness_TimePinsAndPlumb : met 25 [([0, 3, 5, 7, 10, 11, 13, 18, 21, 22], pins awake),
    ([1], pins (dtmState (fun d => { d with n0 := 2 ^ 65 * 10 ^ 9 }) (setR [(Reg.DTM_EVO_CFG 3, 1)] awake))),
    ([2, 4], pins (dtmState (fun d => { d with outs := [(3, ⟨true, 5, false, 0, none⟩), (4, ⟨true, 5, false, 0, none⟩)] }) (setR [(Reg.DTM_EVO_CFG 3, 1), (Reg.DTM_PPSO_CFG, 1)] awake))),
    ([6], pins (dtmState (fun d => { d with outs := [(4, ⟨true, 5, true, 70, none⟩)] }))), ([8], pins (captured ⟨[(true, 1), (false, 2), (true, 3)], none⟩)), ([9, 12], pins (captured ⟨[(true, 7)], some 0⟩) 0 none 4 7),
    ([14], pins (synced 0 1) 0 (some 5)), ([15], pins (synced 3 1) 0 (some 5)), ([16], pins (synced 0 1)), ([17], pins (synced 3 2 0)),
    ([19], pins (dtmState (fun d => { d with ageDue := true, c0Hist := List.replicate 25 7 })) 7), ([20], pins (dtmState (fun d => { d with ageDue := true }))),
    ([23], pins (ensemble 1 [])), ([24], pins (ensemble 1 [aPeer]))] = true := by decide +kernel

/-! ### Fabric router and call migration -/

/-- A fabric frame: header words and payload behind an Ethernet header of zeros. -/
def fabData (type : Nat) (ll : Bool) (pay : List Byte) (flow aux csent dst src : Nat := 0) (sv : Bool := true) (ver : Nat := 1) : List Byte :=
  List.replicate 12 0 ++ [0x88, 0xB5] ++ beBytes 4 (2 ^ 28 * ver + 2 ^ 24 * type + 2 ^ 22 * typeCls type + 2 ^ 18 * 5 + dst) ++
    beBytes 4 (2 ^ 31 * sv.toNat + 2 ^ 30 * ll.toNat + 2 ^ 16 * src + pay.length) ++ beBytes 4 csent ++ beBytes 2 flow ++ beBytes 2 aux ++ pay
def aHello : Hello := ⟨7, true, true, 9, 3, 1, 0, 0, true, 9, [64, 64, 64], []⟩
/-- A link of port 15 in state `st`, of version `ver`. -/
def aLink (st : Nat) (ver : Nat := 1) : Link :=
  ⟨st, 15, 0, aHello, ver, 0, 0, 0, none, 1, [64, 64, 64], [64, 64, 64], [0, 0, 0], [0, 0, 0], [0, 0, 0], [0, 0, 0], [[], [], []], false, 0⟩
def fabState (f : Fab → Fab) (s : State) : State := { s with fab := f s.fab }
/-- The router on, with the part's address valid (0). -/
def fabric : State := setR [(Reg.FAB_CTRL, 1), (Reg.FAB_STAT, 2 ^ 31), (Reg.FAB_ASSIGNER, 2 ^ 31)] awake
/-- Frame 0, of port 15, holds `d`. -/
def holding (d : List Byte) (s : State) : State := pktState (fun p => { p with frames := [(0, some ⟨15, d, 1, 0, 0, 1, 0, 0⟩)], nextFid := 1 }) s
/-- Frame 0 waits at the router, or behind it. -/
def cameIn (d : List Byte) (s : State := fabric) : State := fabState (fun f => { f with rx := [0] }) (holding d s)
def forUs (d : List Byte) (link : Option Nat := some 63) (s : State := fabric) : State := fabState (fun f => { f with loc := [⟨0, link, none⟩] }) (holding d s)
def withLink (l : Link) (s : State := fabric) : State := fabState (fun f => { f with links := [(63, some l)] }) s
/-- A HELLO of part 8, or of part 7, which `aLink` knows, that echoes the serial numbers `e`. -/
def helloPay (serial : Nat) (e : List (List Byte)) : List Byte :=
  beBytes 8 serial ++ beBytes 2 0 ++ [6, 1, 0, 0] ++ beBytes 2 0 ++ beBytes 6 0 ++ [BitVec.ofNat 8 e.length, 0] ++ e.flatten
def aTx : FabTx := ⟨(fabData 6 false []).drop 14, some 0, none, none, false, 0⟩
def linking (s : State) (l : Link := aLink 2) (cls : Fin 4 := 3) (r : FabRx := ⟨0, some 63, none⟩) (port m rep : Nat := 0) (i : Nat := 63) : List Bool :=
  let hs : State := let u := notBefore s (s.fab.helloAt + 125000000)
    { u with fab := { u.fab with helloAt := u.mono.toNat } }
  let n := (fabFrame hs port 0x0300000088B5 1 0 (fabBytes hs 0 0 0 0 true (myHello hs port))).length + 4
  premises_FabricLink s .bmk 63 cls l aTx [] r [] 0 i port m [] ((cellPlan s .shared 16 n).getD (0, 0, 0)) [] rep 0
def egLink (s : State) : State := setFabEg s 63 3 [aTx]
theorem witness_FabricLink : metBut [4] 22 [([0], linking awake), ([1], linking (setR [(Reg.FAB_PORTS, 0x8000)] (portUp fabric)) (aLink 2) 3 ⟨0, none, none⟩ 15),
    ([2], linking (forUs (fabData 0 true (helloPay 8 [])) none) (aLink 2) 3 ⟨0, none, none⟩ 0 0),
    ([3], linking (fabState (fun f => { f with links := (List.range 15).map (fun k => (k, some (aLink 1))) }) (forUs (fabData 0 true (helloPay 8 []))))),
    ([5, 9, 21], linking (withLink (aLink 2))), ([6, 19], linking fabric), ([7, 18], linking (egLink (withLink (aLink 2))) (aLink 2) 3 ⟨0, none, none⟩ 0 0 0 0),
    ([8], let l := { aLink 2 with sent := [0, 0, 64] }; linking (egLink (withLink l)) l), ([10], linking (forUs (fabData 1 true [] ) (some 63) (withLink (aLink 2)))),
    ([11], linking (cameIn [] awake)), ([12], linking (cameIn (fabData 0 true [] 1))), ([13], linking (cameIn (fabData 0 true (helloPay 8 [])))), ([14], linking (cameIn (fabData 6 false []))),
    ([15], linking (cameIn (fabData 6 true [] 0 0 1) (withLink (aLink 2)))), ([16], linking (cameIn (fabData 6 true []) (withLink (aLink 2)))),
    ([17], let l := { aLink 2 with lag := [[], [], [(5, 0)]] }; linking (withLink l) l 3 ⟨0, none, none⟩ 0 0 5), ([20], linking (withLink (aLink 1)) (aLink 1))] = true := by decide +kernel

theorem leNat_leBytes (n : Nat) : ∀ x, leNat (leBytes n x) = x % 256 ^ n := by
  induction n with
  | zero => intro x; simp [leBytes, leNat, Nat.mod_one]
  | succ n ih =>
    intro x
    have h : x % (256 * 256 ^ n) = x % 256 + 256 * (x / 256 % 256 ^ n) := Nat.mod_mul
    simp [leBytes, leNat, ih, Nat.pow_succ', h]
/-- The bytes of the part's serial number spell it. -/
theorem be_serial : beNat (beBytes 8 serial) = serial := by
  have h : serial < 2 ^ 64 := Config.serial.isLt
  simp only [beNat, beBytes, List.reverse_reverse, leNat_leBytes]
  omega
/-- The clause about a HELLO that echoes the part's serial number, whatever it is. -/
def echoed : State := forUs (fabData 0 true (helloPay 7 [beBytes 8 serial])) (some 63) (withLink (aLink 1))
theorem witness_FabricLink_4 : (linking echoed (aLink 1) 3 ⟨0, some 63, none⟩ 0 63).getD 4 false = true := by
  have c : decide (Awake' echoed ∧ frozen echoed = false) = true := by decide +kernel
  have e : (parseHello (fhPay (fabPart (frameAt echoed 0).data))).echo = [beNat (beBytes 8 serial)] := by rfl
  have n : nextState echoed (parseHello (fhPay (fabPart (frameAt echoed 0).data))) = 2 := by
    have a : modeExists echoed (parseHello (fhPay (fabPart (frameAt echoed 0).data))) = true := by decide +kernel
    have b : reserveOk echoed = true := by decide +kernel
    have d : mode echoed ≠ 3 := by decide +kernel
    simp [nextState, a, b, d, e, be_serial]
  simp only [linking, premises_FabricLink, c, if_true, List.getD_cons_succ, List.getD_cons_zero]
  exact decide_eq_true ⟨by decide +kernel, by decide +kernel, by decide +kernel, by decide +kernel, by decide +kernel, by decide +kernel, by decide +kernel, by decide +kernel, n⟩

def routed (r : Route) (s : State) : State := fabState (fun f => { f with routes := [(9, r)] }) s
/-- A ROUTE of one entry. -/
def routePay (a hops tag : Nat) : List Byte := beBytes 2 1 ++ beBytes 6 0 ++ beBytes 4 (2 ^ 18 * a + 2 ^ 14 * hops + tag)
def routing (s : State) (a hops tag since : Nat := 0) (x : Areq := ⟨7, 63, 0⟩) (i : Nat := 63) : List Bool :=
  premises_FabricRouting s .bmk 63 9 ⟨0, some 63, none⟩ [] (aLink 2) i a hops tag since x []
/-- A routed frame of type `type`, `n` bytes at `a`, direct on link 63 or not. -/
def fabEntry (type n a direct : Nat) : List Byte := wordBytes [a % 2 ^ 32, a / 2 ^ 32, 2 ^ 28 * type + n, 2 ^ 15 * direct, 63, 0, 0, 0]
theorem witness_FabricRouting : metBut [3, 4] 31 [([0, 8, 11], routing awake), ([1], routing (setR [(Reg.FAB_STAT, 3)] (withLink (aLink 2)))), ([2], routing (forUs (fabData 2 true (beBytes 10 0)))),
    ([5], routing (fabState (fun f => { f with areqs := [⟨7, 63, 0⟩] }) fabric)), ([6, 9, 10, 20, 28, 30], routing fabric), ([7], routing (setR [(Reg.FAB_STAT, 1)] fabric)),
    ([12], routing (forUs (fabData 4 true (routePay 9 3 5))) 9 3 5), ([13, 14], routing (routed ⟨4, some 5, false, []⟩ (forUs (fabData 4 true (routePay 9 3 5)))) 9 3 5),
    ([15], routing (routed ⟨3, some 5, false, [(1, 0)]⟩ (forUs (fabData 4 true (routePay 9 3 5)))) 9 3 5), ([16], routing (routed ⟨3, some 5, false, [(63, 0)]⟩ (forUs (fabData 4 true (routePay 9 3 5)))) 9 3 5),
    ([17], routing (setR [(Reg.FAB_STAT, 2)] (forUs (fabData 4 true (routePay 0 15 0)))) 0 15 0), ([18], routing (routed ⟨3, none, false, [(63, 7)]⟩ fabric) 0 0 0 7), ([19], routing (routed ⟨3, none, true, []⟩ fabric)),
    ([21], routing (forUs (fabData 5 true (beBytes 24 0)) (some 63) (withLink (aLink 2)))), ([22], routing (forUs (fabData 7 true []))), ([23], routing (forUs (fabData 6 true []))),
    ([24], routing (fed .fab (fabEntry 5 1 0x10006E0000 0) fabric)), ([25], routing (fed .fab (fabEntry 6 1 0x2000000000 0) fabric)), ([26], routing (fed .fab (fabEntry 6 1 0x10006E0000 1) fabric)),
    ([27], routing (fed .fab (fabEntry 6 1 0x10006E0000 0) fabric)), ([29], routing (setR [(Reg.FAB_CMD_ARG 0, 0x10000)] fabric))] = true := by decide +kernel
/-- The clauses about an AGRANT for the part itself, and for another. -/
def granted : State := setR [(Reg.FAB_STAT, 3)] (forUs (fabData 3 true (beBytes 8 serial ++ beBytes 2 0x8000)))
theorem witness_FabricRouting_3 : (routing granted).getD 3 false = true := by
  have c : decide (Awake' granted ∧ frozen granted = false) = true := by decide +kernel
  have e : be (fhPay (fabPart (frameAt granted 0).data)) 0 8 = beNat (beBytes 8 serial) := by rfl
  simp only [routing, premises_FabricRouting, c, if_true, List.getD_cons_succ, List.getD_cons_zero]
  exact decide_eq_true ⟨by decide +kernel, by decide +kernel, e.trans be_serial, by decide +kernel, by decide +kernel⟩
def other : Nat := (serial + 1) % 2 ^ 64
def relayed : State := fabState (fun f => { f with areqs := [⟨other, 63, 0⟩] }) (forUs (fabData 3 true (beBytes 8 other ++ beBytes 2 0x8000)))
theorem be_other : beNat (beBytes 8 other) = other := by
  simp only [beNat, beBytes, List.reverse_reverse, leNat_leBytes, other]
  omega
theorem witness_FabricRouting_4 : (routing relayed 0 0 0 0 ⟨other, 63, 0⟩).getD 4 false = true := by
  have c : decide (Awake' relayed ∧ frozen relayed = false) = true := by decide +kernel
  have e : be (fhPay (fabPart (frameAt relayed 0).data)) 0 8 = other := by
    have e : be (fhPay (fabPart (frameAt relayed 0).data)) 0 8 = beNat (beBytes 8 other) := by rfl
    exact e.trans be_other
  have n : other ≠ serial := by
    have h : serial < 2 ^ 64 := Config.serial.isLt
    simp only [other]; omega
  have f : relayed.fab.areqs = [⟨other, 63, 0⟩] := rfl
  simp only [routing, premises_FabricRouting, c, if_true, List.getD_cons_succ, List.getD_cons_zero]
  refine decide_eq_true ⟨by decide +kernel, by rw [e]; exact n, ?_⟩
  rw [e, f]; simp

/-- Session 15 with state `x`, open as its CFG word says, its window 256 bytes of shared SRAM. -/
def session (cfg : Nat) (x : Sess) (s : State := fabric) : State :=
  fabState (fun f => { f with sess := [(15, x)] }) (setR [(Reg.FAB_MIG_CFG 15, cfg), (Reg.FAB_MIG_WBASE_LO 15, 0x006E0000), (Reg.FAB_MIG_WBASE_HI 15, 0x10), (Reg.FAB_MIG_WLEN 15, 256)] s)
def inOpen : Nat := 2 ^ 31 + 2 ^ 30
def aSess (st : Nat) : Sess := { Sess.reset with state := st, seq := 5 }
def oneOut : Sess := { aSess 2 with unacked := [(4, .seg 0 0 1)] }
def forSession (s : State) (type : Nat) (pay : List Byte) (flow : Nat := 15) : State := forUs (fabData type false pay flow 5) none s
/-- A command of 1 byte at 0x0010_006E_0000, or of queue 0. -/
def segCmd (s : State) : State := setR [(Reg.FAB_CMD_ARG 0, 0x006E0000), (Reg.FAB_CMD_ARG 1, 0x10), (Reg.FAB_CMD_ARG 2, 1)] s
def migrating (s : State) (v : BitVec 31 := 0) (u : State := s) : List Bool := premises_Migration s u .bmk 15 v ⟨0, none, none⟩ []
def enabled (place : Bool) (s : State) : State := { s with jq := { s.jq with queues := [(0, { Queue.reset with en := true, place := place })] } }
theorem witness_Migration : met 27 [([0, 2, 3, 7, 23, 26], migrating fabric), ([1], migrating (setR [(Reg.FAB_MIG_WBASE_HI 15, 0xFFFF), (Reg.FAB_MIG_WLEN 15, 1)] fabric) (2 ^ 30)),
    ([4], migrating (segCmd fabric)), ([5], migrating (segCmd (session (2 ^ 31) { aSess 1 with cmds := List.replicate 8 (.queue 0 0) }))),
    ([6], migrating (setR [(Reg.FAB_STAT, 0)] (segCmd (session (2 ^ 31) (aSess 1))))),
    ([8], migrating (enabled true fabric)), ([9], migrating (enabled true (session (2 ^ 31) { aSess 1 with cmds := List.replicate 8 (.queue 0 0) }))),
    ([10], migrating (enabled true (setR [(Reg.FAB_STAT, 0)] (session (2 ^ 31) (aSess 1))))),
    ([11], let s := forSession (session inOpen (aSess 1)) 8 (beBytes 4 255 ++ beBytes 2 1 ++ [0, 0, 7]); let s1 := fabState (fun f => { f with loc := [] }) s
      migrating s 0 (memWrite (accepted s1 15) fabPort (migBase s 15 + 255) [7]).2),
    ([12], migrating (forSession (session inOpen (aSess 1)) 8 (beBytes 4 256 ++ beBytes 2 1 ++ [0, 0, 7]))), ([13], migrating (forSession fabric 8 [])),
    ([14], migrating (enabled true (forSession (session inOpen (aSess 1)) 9 [0, 0, 0, 0, 0x80, 0, 0, 0, 0, 0, 0, 0]))),
    ([15], migrating (forSession (session inOpen (aSess 1)) 9 [0, 0, 0, 0, 0x80, 0, 0, 0, 0, 0, 0, 0])), ([16], migrating (forSession fabric 9 [])),
    ([17], let s := forSession fabric 9 []; migrating { s with jq := { s.jq with disposal := List.replicate 769 ⟨1, 2, 0, 2⟩ } }),
    ([18], migrating (forSession (session (2 ^ 31) oneOut) 10 (beBytes 4 5 ++ beBytes 4 0))), ([19], migrating (forSession (session (2 ^ 31) oneOut) 10 (beBytes 4 4 ++ beBytes 4 0))),
    ([20], migrating (forSession (session (2 ^ 31) oneOut) 10 (beBytes 4 5 ++ beBytes 4 1))), ([21], migrating (forSession fabric 10 [] 16)),
    ([22], migrating (session inOpen { aSess 1 with toAck := 1 })), ([24], migrating (session (2 ^ 31) { oneOut with rewinds := 8 })), ([25], migrating (session (2 ^ 31) { oneOut with rewinds := 7 }))] = true := by decide +kernel

/-! ### Benchmark commands -/

/-- The mailbox buffer at DRAM address 0x1000, with registers `l` set. -/
def mailbox (l : List (Nat × Nat)) : State := setR ((Reg.BMK_MB_BUF_LO, 0x1000) :: l) (dramOn awake)
def bmkState (f : Bmk → Bmk) (s : State) : State := { s with bmk := f s.bmk }
/-- The buffer holds `bs` from offset `o`. -/
def filled (o : Nat) (bs : List Byte) (s : State) : State := (memWrite s bmkPort (0x1000 + o) bs).2
/-- A command that reads `n` bytes of its buffer, or writes `w`. -/
def bench (s : State) (n : Nat := 0) (w : List Byte := []) (up : Update := ⟨100, 0⟩) (op : BitVec 8 := 0) (x y : Word := 0) (data key : List Byte := []) : List Bool :=
  let s0 : State := { wrb s Reg.BMK_MB_STAT 31 true with bmk := { s.bmk with work := [], replies := [] } }
  let r := memRead s0 bmkPort (mbBuf s) n
  premises_BenchmarkCommand s r.2 (if w = [] then (quote r.2 (r.1.getD [])).2 else (memWrite s0 bmkPort (mbBuf s) w).2) .bmk op x y data (r.1.getD []) key ((mgmtOps s).getD []) up
def updating (l : List (Nat × Nat)) : State := bmkState (fun b => { b with update := some ⟨100, 0⟩ }) (mailbox l)
def anEvent : EvRec := ⟨1, 2, 0, 1, 2, 3, 4, 5⟩
/-- The first and the last bytes of a calibration set of zeros, with its CRC. -/
def calHead : List Byte := leBytes 4 0x4C414346 ++ leBytes 4 1 ++ leBytes 4 2048
def fused (s : State) : State := bmkState (fun b => { b with kek0 := some ((List.range 32).map (BitVec.ofNat 8)) }) s
theorem witness_BenchmarkCommand : metBut [1, 18, 20] 37 [([0, 4, 7, 14, 15, 21, 24, 28, 31], bench (mailbox [])), ([2], bench (mailbox [(Reg.BMK_MB_BUF_LO, 1)])),
    ([3], bench (bmkState (fun b => { b with log := [anEvent] }) (mailbox [(Reg.BMK_MB_ARG 1, 1)])) 0 (recBytes anEvent)),
    ([5, 8, 11, 12], bench (updating [])), ([6], bench (mailbox [(Reg.BMK_MB_ARG 0, 15728641)])), ([9], bench (updating [(Reg.BMK_MB_ARG 1, 8), (Reg.BMK_MB_BUF_LO, 1)])), ([10], bench (updating [(Reg.BMK_MB_ARG 1, 8)]) 8),
    ([13], bench (bmkState (fun b => { b with trial := true }) (mailbox []))), ([16], bench (bmkState (fun b => { b with running := some true, header := List.replicate 32 0 }) (mailbox []))), ([17], bench (mailbox []) 32),
    ([19], bench (mailbox [(Reg.PWR_MODE, 3)]) 2048),
    ([22], bench (mailbox [(Reg.PWR_MODE, 3)]) 32), ([23], bench (fused (mailbox [(Reg.PWR_MODE, 3)]))), ([25], bench (filled 0 badBlob (fused (mailbox [(Reg.BMK_MB_ARG 0, 1)]))) 40 [] ⟨100, 0⟩ 0 0 0 [] (List.replicate 32 0)),
    ([26], bench (fused (mailbox [(Reg.BMK_MB_ARG 0, 1)])) 40), ([27, 29], bench (mailbox [(Reg.BMK_MB_ARG 0, 1)])), ([30], bench (mailbox [(Reg.PWR_MODE, 2)])),
    ([32, 35], bench (mailbox []) 0 [] ⟨100, 0⟩ 1), ([33], bench (mailbox []) 0 [] ⟨100, 0⟩ 0x21), ([34], bench (updating []) 0 [] ⟨100, 0⟩ 0x21 0 8),
    ([36], bench (bmkState (fun b => { b with recovery := true, update := some ⟨100, 0⟩ }) (mailbox [(Reg.PWR_MODE, 2)])) 0 [] ⟨100, 0⟩ 0x22)] = true := by decide +kernel

/-- Benchmark's write of whole blocks of installed DRAM is taken. -/
theorem writeBlocks_taken (n : Nat) : ∀ (a : Nat) (bs : List Byte) (s : State), a % 64 = 0 → bs.length % 64 = 0 → bs ≠ [] → a + bs.length ≤ installed s →
    rdb s Reg.DMC_CTRL 0 = true → (writeBlocks bmkPort n a bs s).1 = true := by
  induction n with
  | zero => intros; rfl
  | succ n ih =>
    intro a bs s ha hl hne hi hc
    have hpos : 0 < bs.length := List.length_pos_iff.mpr hne
    have hk : 64 - a % 64 = 64 := by omega
    have hserve : portCheck s bmkPort.port (a / 64 * 64) 64 = .serve := by
      have : a / 64 * 64 + 64 ≤ installed s := by omega
      simp [portCheck, bmkPort, hc, inDram, this]
    have hlen : (bs.take 64).length % 8 = 0 := by simp; omega
    have hd : (dramWriteBlock s bmkPort a (bs.take 64)).1 = true := by
      rw [dramWriteBlock, hserve]; simp only [show a % 8 = 0 by omega, hlen, and_self, if_true]
    have he := (memEff_dramWriteBlock s bmkPort a (bs.take 64)).1.2
    have hcfg : rd (dramWriteBlock s bmkPort a (bs.take 64)).2 Reg.DMC_CFG = rd s Reg.DMC_CFG := he _ (by decide +kernel)
    have hctl : rd (dramWriteBlock s bmkPort a (bs.take 64)).2 Reg.DMC_CTRL = rd s Reg.DMC_CTRL := he _ (by decide +kernel)
    rw [writeBlocks, hk]
    generalize dramWriteBlock s bmkPort a (bs.take 64) = w at hd hcfg hctl
    obtain ⟨w1, w2⟩ := w
    simp only at hd hcfg hctl
    subst hd
    simp only
    split
    · rfl
    · rename_i hne'
      refine ih (a + 64) (bs.drop 64) w2 (by omega) (by simp; omega) hne' ?_ ?_
      · have : installed w2 = installed s := by simp [installed, dmcChans, dmcData, dmcCap, dmcDens, rdb, rdf, hcfg]
        rw [this]; simp; omega
      · simpa [rdb, hctl] using hc
theorem memWrite_taken (a : Nat) (bs : List Byte) (s : State) (ha : a % 64 = 0) (hl : bs.length % 64 = 0) (hne : bs ≠ []) (hi : a + bs.length ≤ installed s)
    (hs : installed s ≤ sramBase) (hc : rdb s Reg.DMC_CTRL 0 = true) : memWrite s bmkPort a bs = (true, (memWrite s bmkPort a bs).2) := by
  have hpos : 0 < bs.length := List.length_pos_iff.mpr hne
  have he := (memEff_portTurn s bmkPort).1.2
  have hcfg : rd (portTurn s bmkPort) Reg.DMC_CFG = rd s Reg.DMC_CFG := he _ (by decide +kernel)
  have hctl : rd (portTurn s bmkPort) Reg.DMC_CTRL = rd s Reg.DMC_CTRL := he _ (by decide +kernel)
  have hin : installed (portTurn s bmkPort) = installed s := by simp [installed, dmcChans, dmcData, dmcCap, dmcDens, rdb, rdf, hcfg]
  refine Prod.ext ?_ rfl
  rw [memWrite, if_neg hne, if_pos (by omega)]
  exact writeBlocks_taken _ a bs _ ha hl hne (hin ▸ hi) (by simpa [rdb, hctl] using hc)
/-- The state a command of the mailbox runs in. -/
def started (s : State) : State := { wrb s Reg.BMK_MB_STAT 31 true with bmk := { s.bmk with work := [], replies := [] } }
def calSet : State := bmkState (fun b => { b with cal := some (List.replicate 2048 0) }) (mailbox [])
theorem witness_BenchmarkCommand_18 : (premises_BenchmarkCommand calSet calSet (memWrite (started calSet) bmkPort (mbBuf calSet) (calFlash calSet)).2 .bmk 0 0 0 [] [] [] [] ⟨0, 0⟩).getD 18 false = true := by
  have c : decide (calSet.void = false) = true := by decide +kernel
  have l : (calFlash calSet).length = 2048 := List.length_replicate
  have h := memWrite_taken (mbBuf calSet) (calFlash calSet) (started calSet) (by decide +kernel) (by rw [l]) (by intro e; simp [e] at l) (by rw [l]; decide +kernel) (by decide +kernel) (by decide +kernel)
  simp only [premises_BenchmarkCommand, c, if_true, List.getD_cons_succ, List.getD_cons_zero]
  exact decide_eq_true ⟨by decide +kernel, by decide +kernel, h⟩
/-- The identity record, whose bytes are free. -/
theorem witness_BenchmarkCommand_1 : (premises_BenchmarkCommand (mailbox []) (mailbox []) (memWrite (started (mailbox [])) bmkPort (mbBuf (mailbox [])) (identity (started (mailbox [])))).2 .bmk 0 0 0 [] [] [] [] ⟨0, 0⟩).getD 1 false = true := by
  have c : decide ((mailbox []).void = false) = true := by decide +kernel
  have l : (identity (started (mailbox []))).length = 8192 := by simp [identity]
  have h := memWrite_taken (mbBuf (mailbox [])) (identity (started (mailbox []))) (started (mailbox [])) (by decide +kernel) (by rw [l]) (by intro e; simp [e] at l) (by rw [l]; decide +kernel) (by decide +kernel) (by decide +kernel)
  simp only [premises_BenchmarkCommand, c, if_true, List.getD_cons_succ, List.getD_cons_zero]
  exact decide_eq_true ⟨by decide +kernel, by decide +kernel, h⟩
/-- The CRC of the calibration set of zeros, 127 bytes at a time. -/
def zeros127 : List Byte := List.replicate 127 0
def crcs : List Nat := [2679740869, 3758040120, 4290096771, 1067373787, 2176670519, 3532473782, 2522989565, 3004351243, 3085135567, 2500777269, 2551085259, 1911894554, 2880978422, 1829275783, 1260413618, 1433701639, 1217567812]
theorem crcs_step : (List.range 16).all (fun i => zeros127.foldl crc32Step (crcs.getD i 0) == crcs.getD (i + 1) 0) = true := by decide +kernel
theorem crcs_at (i : Nat) (h : i < 16) : zeros127.foldl crc32Step (crcs.getD i 0) = crcs.getD (i + 1) 0 := by
  have := List.all_eq_true.mp crcs_step i (List.mem_range.mpr h)
  exact eq_of_beq this
def zerosOf : Nat → List Byte
  | 0 => []
  | n + 1 => zerosOf n ++ zeros127
theorem crc_zeros (n : Nat) (h : n ≤ 16) : (zerosOf n).foldl crc32Step (crcs.getD 0 0) = crcs.getD n 0 := by
  induction n with
  | zero => rfl
  | succ n ih => rw [zerosOf, List.foldl_append, ih (by omega), crcs_at n (by omega)]
def calZeros : List Byte := calHead ++ zerosOf 16
def calDone : List Byte := calZeros ++ leBytes 4 3077399483
theorem calDone_good : calGood calDone = true := by
  have e : sub calDone 0 2044 = calZeros := by decide +kernel
  have h : calHead.foldl crc32Step 0xFFFFFFFF = crcs.getD 0 0 := by decide +kernel
  have g : crc32 calZeros = le calDone 2044 4 := by
    rw [crc32, calZeros, List.foldl_append, h, crc_zeros 16 (Nat.le_refl 16)]
    decide +kernel
  rw [calGood, e, g]
  decide +kernel
def calFilled : State := filled 2040 (leBytes 8 (3077399483 * 2 ^ 32)) (filled 0 (calHead ++ [0, 0, 0, 0]) (mailbox [(Reg.PWR_MODE, 3)]))
theorem witness_BenchmarkCommand_20 : (premises_BenchmarkCommand calFilled (memRead (started calFilled) bmkPort (mbBuf calFilled) 2048).2 calFilled .bmk 0 0 0 [] calDone [] [] ⟨0, 0⟩).getD 20 false = true := by
  have c : decide (calFilled.void = false) = true := by decide +kernel
  have r : (memRead (started calFilled) bmkPort (mbBuf calFilled) 2048).1 = some calDone := by decide +kernel
  have h : memRead (started calFilled) bmkPort (mbBuf calFilled) 2048 = (some calDone, (memRead (started calFilled) bmkPort (mbBuf calFilled) 2048).2) := by rw [← r]
  simp only [premises_BenchmarkCommand, c, if_true, List.getD_cons_succ, List.getD_cons_zero]
  exact decide_eq_true ⟨by decide +kernel, by decide +kernel, ⟨by decide +kernel, h⟩, calDone_good⟩

/-! ### Modes, resets, clocks and power -/

def power (l : List (Nat × Nat)) (v : Word := 0) (who : Who := .bmk) (j4 : Fin 4 := 2) (j2 : Fin 2 := 1) (dom : Fin 100 := 97) (unit : Fin 51 := 50) (pin : Bool := true) (s : State := awake) : List Bool :=
  premises_PowerCommand (setR l s) who 3 v dom unit j4 j2 [] pin false true 3
def waking : State := { awake with pwr := { awake.pwr with wake := true } }
theorem witness_PowerCommand : met 40 [([0, 6, 8, 9, 13, 16, 18, 20, 24, 26, 28, 30, 33, 34, 35], power [(Reg.BMK_CORE_STAT, 0)]), ([1], power [] 3), ([2], power [(Reg.PWR_STBY_CFG, 2)] 1), ([3], power [(Reg.PWR_MODE, 7)] 4),
    ([4], power [(Reg.PWR_MODE, 5)] 8), ([5], power [] 5), ([7, 11], power [] 0xC1A50000), ([10], power [] 0xC1A50002), ([12, 14], power [(Reg.PWR_MODE, 10)] 0xC1A50000), ([15], power [(Reg.PWR_MODE, 2)]),
    ([17, 23], power [(Reg.PWR_MODE, 0x10004), (Reg.PWR_STBY_CFG, 2)]), ([19, 22], power [(Reg.PWR_MODE, 1), (Reg.PKT_WAKE_CTRL, 0x108)]), ([21], power [(Reg.PWR_MODE, 1)] 0 .bmk 2 1 97 50 true waking),
    ([25], power [(Reg.CLK_GATE 2, 0)] 1 (.core 0)), ([27], power [(Reg.CLK_GATE 3, 2)]), ([29], power [(Reg.PWR_PGATE 1, 0)] 0x10000 (.core 0)), ([31], power [(Reg.PWR_PGATE_STAT 1, 0x8000)] 0 .bmk 2 1 97 47),
    ([32], power [(Reg.PWR_PGATE_STAT 1, 0x40000)]), ([36], power [(Reg.BMK_CORE_STAT, 0x80)]), ([37], power [] 0x80), ([38], power [(Reg.BMK_CORE_CTRL, 0x80)]), ([39], power [(Reg.BMK_CORE_CTRL, 0x80), (Reg.PWR_PGATE_STAT 1, 0x40000)])] = true := by decide +kernel

/-! ### Upkeep, error records and plain accesses -/

def anErr (code : Nat) : ErrIn := ⟨2, 1, code, 0, 0, true⟩
def aRec : ErrRec := ⟨1, 2, 3, 4, 5, 6⟩
def noDesc : RegDesc := ⟨0, [], 0, 0, 0, 0, 0⟩
def upkeeping (s : State) (addr : Addr := 0x1000000001) (i : Nat := 0) (w v : Word := 0) (r : ErrIn := anErr 0) (who : Who := .bmk) (rd : Bool := false) : List Bool :=
  let a := addr.toNat
  let m := memRead s (whoPort who) a 4
  let p := memWrite s (whoPort who) a (leBytes 4 v.toNat)
  premises_UpkeepAndAccess s (if p.1 && !rd then p.2 else m.2) who [5] 1 i [] r aRec [] 1 v w addr ((regAt a).getD noDesc) ((regAt (a - 4)).getD noDesc) ((regAt a).getD noDesc) (m.1.getD []) p.1
def errState (f : Err → Err) (s : State := awake) : State := { s with err := f s.err }
theorem witness_UpkeepAndAccess : met 33 [([0, 2, 3, 4, 7, 8, 14, 15, 17, 18, 19, 20, 21], upkeeping awake), ([1], upkeeping (setR [(Reg.BMK_EXT_TEMP_CFG, 2 ^ 31)] awake)), ([5], upkeeping (setR [(Reg.PWR_MODE, 2)] awake)),
    ([6], upkeeping (bmkState (fun b => { b with trial := true }) awake)), ([9], upkeeping (errState (fun e => { e with arrivals := [anErr 0] }))), ([10], upkeeping (errState (fun e => { e with arrivals := [anErr 0x30] })) 1 0 0 0 (anErr 0x30)),
    ([11], upkeeping (setR [(Reg.PWR_MODE, 2)] (errState (fun e => { e with arrivals := [anErr 0x30] }))) 1 0 0 0 (anErr 0x30)), ([12], upkeeping (setR [(Reg.PWR_MODE, 0)] awake)), ([13], upkeeping (errState (fun e => { e with queue := [aRec] }))),
    ([16], upkeeping (errState (fun e => { e with auditDue := true }))), ([22], upkeeping awake 0x1000800000), ([23, 24], upkeeping awake (BitVec.ofNat 48 Reg.ERR_INT_EN)), ([25, 27], upkeeping awake (BitVec.ofNat 48 Reg.BMK_MB_BUF_LO)),
    ([26, 29], upkeeping awake (BitVec.ofNat 48 Reg.BMK_MB_BUF_HI)), ([28], upkeeping { awake with latches := [(Reg.BMK_MB_BUF_LO, (7, [9]))] } (BitVec.ofNat 48 Reg.BMK_MB_BUF_HI) 7 9), ([30], upkeeping awake 0x10006C0000),
    ([31], upkeeping (dramOn awake) 0x1000), ([32], upkeeping (dramOn awake) 0x1000 0 0 0 (anErr 0) .bmk true)] = true := by decide +kernel

/-! ### One step, and states in which commands do nothing -/

theorem witness_StepRunsCommand : met 2 [([0], premises_StepRunsCommand { State.reset with pending := [.supplyRemoved, .logFlashCopy] } .supplyRemoved [.logFlashCopy]), ([1], premises_StepRunsCommand State.reset .logFlashCopy [])] = true := by decide +kernel
theorem witness_SleepAndExcursionHold : met 3 [([0], premises_SleepAndExcursionHold { awake with void := true } (.warmReset none 0)), ([1], premises_SleepAndExcursionHold (setR [(Reg.PWR_MODE, 1)] awake) .logFlashCopy),
    ([2], premises_SleepAndExcursionHold (bmkState (fun b => { b with recovery := true }) awake) (.pauseExpiry 0 0))] = true := by decide +kernel
theorem witness_MemoryStaysCanonical : MemOk State.reset ∧ ∃ t, step State.reset = .next t := ⟨⟨by decide, by decide⟩, _, rfl⟩
theorem witness_CodeCorrectsAndDetects : ((167, 8) : Nat × Nat) ∈ [(167, 8), (128, 8), (64, 7)] ∧ 2 ^ 167 - 1 < 2 ^ 167 := by decide

/-! ### Ill-formed commands -/

theorem ill_sensorSample : WellFormed (.sensorSample (List.replicate 39 0)) = false := by decide
theorem ill_mgmtCommandFrame : WellFormed (.mgmtCommandFrame 0x01 0 0 ⟨List.replicate 1025 0, false⟩) = false := by decide +kernel
theorem ill_dramWrite : WellFormed (.dramWrite 0 0 none 60 (List.replicate 5 0)) = false ∧ WellFormed (.dramWrite 0 0 none 0 []) = false := by decide
theorem ill_dramCommandIssue : WellFormed (.dramCommandIssue 0 [1, 1]) = false ∧ WellFormed (.dramCommandIssue 0 [96]) = false := by decide
theorem ill_frameArrival : WellFormed (.frameArrival 0 (List.replicate 13 0) true 0) = false := by decide
theorem ill_wakeMatch : WellFormed (.wakeMatch true (List.replicate 13 0) true) = false := by decide
theorem ill_bootComplete (l : List Byte) (h : 15723008 < l.length) : WellFormed (.bootComplete [] 0 0 0 0 l) = false := by simp only [WellFormed, decide_eq_false_iff_not]; omega

/-! ### Fixed values, from the standards the spec names -/

def abc : List Byte := [0x61, 0x62, 0x63]
/-- FIPS 197 appendix C.1. -/
theorem test_aes128 : aesEnc (beBytes 16 0x000102030405060708090a0b0c0d0e0f) (beBytes 16 0x00112233445566778899aabbccddeeff) = beBytes 16 0x69c4e0d86a7b0430d8cdb78070b4c55a := by decide +kernel
/-- FIPS 180-4, "abc". -/
theorem test_sha1 : sha1 abc = beBytes 20 0xa9993e364706816aba3e25717850c26c9cd0d89d := by decide +kernel
theorem test_sha256 : sha256 abc = beBytes 32 0xba7816bf8f01cfea414140de5dae2223b00361a396177a9cb410ff61f20015ad := by decide +kernel
theorem test_sha512 : sha512 abc = beBytes 64 0xddaf35a193617abacc417349ae20413112e6fa4e89a97ea20a9eeee64b55d39a2192992a274fc1a836ba3c23a3feebbd454d4423643ce80e2a9ac94fa54ca49f := by decide +kernel
/-- FIPS 202, SHAKE128 of the empty string. -/
theorem test_shake128 : shake128 32 [] = beBytes 32 0x7f9c2ba4e88f827d616045507605853ed73b8093f6efbc88eb1a6eacfa66ef26 := by decide +kernel
/-- RFC 8032 section 7.1, test 1: the public key. -/
theorem test_edPublic : edPublic (beBytes 32 0x9d61b19deffd5a60ba844af492ec2cc44449c5697b326919703bac031cae7f60) = beBytes 32 0xd75a980182b10ab7d54bfed3c964073a0ee172f3daa62325af021a68f707511a := by decide +kernel
/-- CRC-32 of "123456789" is CBF43926. -/
theorem test_crc32 : crc32 (beBytes 9 0x313233343536373839) = 0xCBF43926 := by decide +kernel
/-- The slot record of a new part is good, an erased one is not (R408). -/
theorem test_slotRec : Bmk.reset.rec0.good = true ∧ SlotRec.erased.good = false := by decide +kernel
/-- Wrapping and unwrapping agree (RFC 5649). -/
theorem test_keyWrap : let k := beBytes 32 1; let p := beBytes 20 0xc37b7e6492584340bed12207808941155068f738; keyUnwrap k (keyWrap k p) = some p := by decide +kernel
/-- A slot with all its bits 0 does nothing; opcode 0 with a predicate named does nothing either (Tables 3.5, 3.7). -/
theorem test_nopSlots : decodeX 0 = [] ∧ decodeA 0 = [] ∧ decodeC 0 = [] ∧ decodeM 0 = [] := by decide +kernel
/-- A single-bit error of a tile data word is corrected, a double one detected (R52). -/
theorem test_ecc : eccDecode 167 8 (eccEncode 167 8 5 ^^^ 2 ^ 100) = .fixed 5 (eccEncode 167 8 5) 100 ∧ eccDecode 167 8 (eccEncode 167 8 5 ^^^ 2 ^ 100 ^^^ 2 ^ 3) = .bad := by decide +kernel

end Sys2Proof.Tests
end

section
/-! SUPPORT. For O60: the extended Hamming code of R52. The syndrome and the parity of a word are linear in XOR, a stored word has neither, so what a check finds depends on the error pattern alone; and the Hamming positions of the stored bits are told apart by `posBit`. -/

namespace Sys2Proof.Machine

/-! ### Parity -/

theorem parity_xor (m a b : Nat) : parity m (a ^^^ b) = (parity m a ^^ parity m b) := by
  induction m generalizing a b with
  | zero => rfl
  | succ m ih =>
    have low : ((a ^^^ b) % 2 == 1) = ((a % 2 == 1) ^^ (b % 2 == 1)) := by
      rcases Nat.mod_two_eq_zero_or_one a with ha | ha <;> rcases Nat.mod_two_eq_zero_or_one b with hb | hb <;>
        simp [Nat.xor_mod_two_eq, Nat.add_mod, ha, hb]
    simp only [parity, low, Nat.xor_div_two, ih, Bool.xor_assoc, Bool.xor_left_comm]

theorem parity_two_pow (m i : Nat) : parity m (2 ^ i) = decide (i < m) := by
  induction m generalizing i with
  | zero => rfl
  | succ m ih =>
    cases i with
    | zero =>
      have none : parity m 0 = false := by simpa using parity_xor m 0 0
      simp [parity, none]
    | succ i => simp [parity, Nat.pow_succ, ih]

/-- A bit put on top of a word joins its parity. -/
theorem parity_add_top (m x : Nat) (b : Bool) (hx : x < 2 ^ m) :
    parity (m + 1) (x + b.toNat * 2 ^ m) = (parity m x ^^ b) := by
  induction m generalizing x with
  | zero =>
    obtain rfl : x = 0 := by simpa using hx
    cases b <;> rfl
  | succ m ih =>
    rw [Nat.pow_succ] at hx ⊢
    rw [← Nat.mul_assoc, parity, Nat.add_mul_mod_self_right, Nat.add_mul_div_right _ _ Nat.two_pos, ih _ (by omega), parity, Bool.xor_assoc]

/-! ### The XOR of positions -/

theorem synOf_zero (ps : List Nat) : synOf ps 0 = 0 := by
  induction ps with
  | nil => rfl
  | cons p ps ih => simp [synOf, ih]

theorem synOf_xor (ps : List Nat) (a b : Nat) : synOf ps (a ^^^ b) = synOf ps a ^^^ synOf ps b := by
  induction ps generalizing a b with
  | nil => simp [synOf]
  | cons p ps ih =>
    have low : (if (a ^^^ b) % 2 = 1 then p else 0) = (if a % 2 = 1 then p else 0) ^^^ (if b % 2 = 1 then p else 0) := by
      by_cases ha : a % 2 = 1 <;> by_cases hb : b % 2 = 1 <;> simp only [Nat.xor_mod_two_eq_one, ha, hb] <;> simp
    simp only [synOf, low, Nat.xor_div_two, ih]
    ac_rfl

theorem synOf_two_pow (ps : List Nat) (i : Nat) : synOf ps (2 ^ i) = ps.getD i 0 := by
  induction ps generalizing i with
  | nil => rfl
  | cons p ps ih =>
    cases i with
    | zero => simp [synOf, synOf_zero]
    | succ i => simp [synOf, Nat.pow_succ, ih]

theorem synOf_lt (ps : List Nat) (c d : Nat) (h : ∀ p ∈ ps, p < 2 ^ c) : synOf ps d < 2 ^ c := by
  induction ps generalizing d with
  | nil => exact Nat.two_pow_pos c
  | cons p ps ih =>
    have low : (if d % 2 = 1 then p else 0) < 2 ^ c := by
      split
      · exact h p List.mem_cons_self
      · exact Nat.two_pow_pos c
    exact Nat.xor_lt_two_pow low (ih _ fun q hq => h q (List.mem_cons_of_mem p hq))

/-! ### The syndrome of a word -/

/-- The check bits recomputed from a word's visible bits, against those it holds (R52). -/
def syndrome (n c w : Nat) : Nat := hamCheck n c (w % 2 ^ n) ^^^ slice w (n + c - 1) n

/-- A check in terms of syndrome and parity (R52, R248). -/
theorem eccDecode_eq (n c w : Nat) :
    eccDecode n c w =
      if parity (n + c + 1) w then
        if n + c < syndrome n c w then .bad
        else .fixed ((w ^^^ 2 ^ posBit n c (syndrome n c w)) % 2 ^ n) (w ^^^ 2 ^ posBit n c (syndrome n c w)) (posBit n c (syndrome n c w))
      else if syndrome n c w = 0 then .good (w % 2 ^ n) else .bad := rfl

/-- The Hamming position of a stored bit; 0 for the overall parity bit (R52). -/
def hamPos (n c i : Nat) : Nat :=
  if i < n then (dataPositions (n + c) n 3).getD i 0 else if i < n + c then 2 ^ (i - n) else 0

theorem hamPos_overall (n c : Nat) : hamPos n c (n + c) = 0 := by simp [hamPos]

theorem slice_xor (a b hi lo : Nat) : slice (a ^^^ b) hi lo = slice a hi lo ^^^ slice b hi lo := by
  simp only [slice, Nat.shiftRight_xor_distrib, Nat.xor_mod_two_pow]

theorem syndrome_xor (n c a b : Nat) : syndrome n c (a ^^^ b) = syndrome n c a ^^^ syndrome n c b := by
  simp only [syndrome, hamCheck, Nat.xor_mod_two_pow, synOf_xor, slice_xor]
  ac_rfl

/-- What the proofs need of a code's shape: the positions fit the check bits, `posBit` finds each stored bit again, and the first three positions are 3, 5 and 6. -/
structure IsCode (n c : Nat) : Prop where
  three_le : 3 ≤ n
  check_pos : 0 < c
  size_lt : n + c < 2 ^ c
  dataPositions_le : ∀ p ∈ dataPositions (n + c) n 3, p ≤ n + c
  hamPos_le : ∀ i < n + c + 1, hamPos n c i ≤ n + c
  posBit_hamPos : ∀ i < n + c + 1, posBit n c (hamPos n c i) = i
  first : hamPos n c 0 = 3 ∧ hamPos n c 1 = 5 ∧ hamPos n c 2 = 6

theorem isCode_tileData : IsCode 167 8 := by constructor <;> decide +kernel
theorem isCode_bundle : IsCode 128 8 := by constructor <;> decide +kernel
theorem isCode_dram : IsCode 64 7 := by constructor <;> decide +kernel

theorem isCode_of_mem {n c : Nat} (h : (n, c) ∈ [(167, 8), (128, 8), (64, 7)]) : IsCode n c := by
  simp only [List.mem_cons, Prod.mk.injEq, List.not_mem_nil, or_false] at h
  obtain ⟨rfl, rfl⟩ | ⟨rfl, rfl⟩ | ⟨rfl, rfl⟩ := h
  · exact isCode_tileData
  · exact isCode_bundle
  · exact isCode_dram

theorem syndrome_two_pow {n c : Nat} (hc : 0 < c) (i : Nat) : syndrome n c (2 ^ i) = hamPos n c i := by
  have width : n + c - 1 + 1 - n = c := by omega
  unfold syndrome hamCheck slice hamPos
  rw [width, Nat.shiftRight_eq_div_pow]
  by_cases visible : i < n
  · rw [if_pos visible, Nat.mod_eq_of_lt (Nat.pow_lt_pow_right Nat.one_lt_two visible), synOf_two_pow,
      Nat.div_eq_of_lt (Nat.pow_lt_pow_right Nat.one_lt_two visible), Nat.zero_mod, Nat.xor_zero]
  · have le : n ≤ i := Nat.le_of_not_lt visible
    rw [if_neg visible, Nat.mod_eq_zero_of_dvd (Nat.pow_dvd_pow 2 le), synOf_zero, Nat.zero_xor, Nat.pow_div le Nat.two_pos]
    by_cases check : i < n + c
    · rw [if_pos check, Nat.mod_eq_of_lt (Nat.pow_lt_pow_right Nat.one_lt_two (by omega))]
    · rw [if_neg check, Nat.mod_eq_zero_of_dvd (Nat.pow_dvd_pow 2 (by omega))]

/-! ### What a check finds of a stored word with an error pattern -/

theorem eccEncode_mod {n d : Nat} (c : Nat) (hd : d < 2 ^ n) : eccEncode n c d % 2 ^ n = d := by
  simp only [eccEncode, Nat.pow_add, Nat.mul_comm (2 ^ n) (2 ^ c), ← Nat.mul_assoc, Nat.add_mul_mod_self_right, Nat.mod_eq_of_lt hd]

section
variable {n c : Nat} (code : IsCode n c)
include code

theorem hamCheck_lt (d : Nat) : hamCheck n c d < 2 ^ c :=
  synOf_lt _ c d fun p hp => (code.dataPositions_le p hp).trans_lt code.size_lt

/-- Two stored bits have two positions. -/
theorem hamPos_ne {i j : Nat} (hij : i < j) (hj : j < n + c + 1) : hamPos n c i ≠ hamPos n c j := by
  intro same
  have := code.posBit_hamPos i (hij.trans hj)
  rw [same, code.posBit_hamPos j hj] at this
  omega

theorem syndrome_eccEncode {d : Nat} (hd : d < 2 ^ n) : syndrome n c (eccEncode n c d) = 0 := by
  have width : n + c - 1 + 1 - n = c := by have := code.check_pos; omega
  have checks : slice (eccEncode n c d) (n + c - 1) n = hamCheck n c d := by
    simp only [slice, width, Nat.shiftRight_eq_div_pow, eccEncode, Nat.mod_eq_of_lt hd, Nat.pow_add, Nat.mul_comm (2 ^ n) (2 ^ c), ← Nat.mul_assoc]
    rw [Nat.add_mul_div_right _ _ (Nat.two_pow_pos n), Nat.add_mul_div_right _ _ (Nat.two_pow_pos n), Nat.div_eq_of_lt hd,
      Nat.zero_add, Nat.add_mul_mod_self_right, Nat.mod_eq_of_lt (hamCheck_lt code d)]
  rw [syndrome, eccEncode_mod c hd, checks, Nat.xor_self]

theorem parity_eccEncode (d : Nat) : parity (n + c + 1) (eccEncode n c d) = false := by
  have fits : d % 2 ^ n + hamCheck n c d * 2 ^ n < 2 ^ (n + c) :=
    calc d % 2 ^ n + hamCheck n c d * 2 ^ n
      _ < 2 ^ n + hamCheck n c d * 2 ^ n := Nat.add_lt_add_right (Nat.mod_lt _ (Nat.two_pow_pos n)) _
      _ = (hamCheck n c d + 1) * 2 ^ n := by ring
      _ ≤ 2 ^ c * 2 ^ n := Nat.mul_le_mul_right _ (hamCheck_lt code d)
      _ = 2 ^ (n + c) := by ring
  rw [eccEncode, parity_add_top _ _ _ fits, Bool.xor_self]

variable {d : Nat} (hd : d < 2 ^ n)
include hd

/-- An error pattern of even parity goes undetected when its syndrome is 0, and is detected otherwise. -/
theorem eccDecode_even {e : Nat} (even : parity (n + c + 1) e = false) :
    eccDecode n c (eccEncode n c d ^^^ e) = if syndrome n c e = 0 then .good (d ^^^ e % 2 ^ n) else .bad := by
  simp [eccDecode_eq, parity_xor, parity_eccEncode code, even, syndrome_xor, syndrome_eccEncode code hd, Nat.xor_mod_two_pow, eccEncode_mod c hd]

/-- An error pattern of odd parity whose syndrome is the position of a stored bit is taken for an error of that bit. -/
theorem eccDecode_odd {e i : Nat} (odd : parity (n + c + 1) e = true) (hi : i < n + c + 1) (at_i : syndrome n c e = hamPos n c i) :
    eccDecode n c (eccEncode n c d ^^^ e) = .fixed (d ^^^ (e ^^^ 2 ^ i) % 2 ^ n) (eccEncode n c d ^^^ (e ^^^ 2 ^ i)) i := by
  simp [eccDecode_eq, parity_xor, parity_eccEncode code, odd, syndrome_xor, syndrome_eccEncode code hd, at_i, code.posBit_hamPos i hi,
    Nat.not_lt.mpr (code.hamPos_le i hi), Nat.xor_assoc, Nat.xor_mod_two_pow, eccEncode_mod c hd]

theorem eccDecode_eccEncode : eccDecode n c (eccEncode n c d) = .good d := by
  simp [eccDecode_eq, parity_eccEncode code, syndrome_eccEncode code hd, eccEncode_mod c hd]

theorem eccDecode_single {i : Nat} (hi : i < n + c + 1) :
    eccDecode n c (eccEncode n c d ^^^ 2 ^ i) = .fixed d (eccEncode n c d) i := by
  have odd : parity (n + c + 1) (2 ^ i) = true := by simpa [parity_two_pow] using hi
  simpa using eccDecode_odd code hd odd hi (syndrome_two_pow code.check_pos i)

theorem eccDecode_double {i j : Nat} (hij : i < j) (hj : j < n + c + 1) :
    eccDecode n c (eccEncode n c d ^^^ 2 ^ i ^^^ 2 ^ j) = .bad := by
  have even : parity (n + c + 1) (2 ^ i ^^^ 2 ^ j) = false := by simp [parity_xor, parity_two_pow, hij.trans hj, hj]
  rw [Nat.xor_assoc, eccDecode_even code hd even, syndrome_xor, syndrome_two_pow code.check_pos, syndrome_two_pow code.check_pos,
    if_neg (mt Nat.xor_eq_zero_iff.mp (hamPos_ne code hij hj))]

end

/-! ### Errors of three and four bits -/

/-- The visible bits at positions 3, 5 and 6, whose XOR is 0: an error of all three has no syndrome. -/
def tripleError : Nat := 2 ^ 0 ^^^ 2 ^ 1 ^^^ 2 ^ 2

theorem xor_tripleError (w : Nat) : w ^^^ 2 ^ 0 ^^^ 2 ^ 1 ^^^ 2 ^ 2 = w ^^^ tripleError := by
  simp only [tripleError, Nat.xor_assoc]

section
variable {n c : Nat} (code : IsCode n c)
include code

theorem syndrome_tripleError : syndrome n c tripleError = 0 := by
  obtain ⟨h0, h1, h2⟩ := code.first
  simp only [tripleError, syndrome_xor, syndrome_two_pow code.check_pos, h0, h1, h2]
  decide

theorem parity_tripleError : parity (n + c + 1) tripleError = true := by
  have := code.three_le
  simp only [tripleError, parity_xor, parity_two_pow]
  simp [show 1 < n + c + 1 by omega, show 2 < n + c + 1 by omega]

end

/-- It changes the visible bits, whatever happens to a bit above them. -/
theorem tripleError_changes {n : Nat} (hn : 3 ≤ n) (m d : Nat) (hm : n ≤ m) : d ^^^ (tripleError ^^^ 2 ^ m) % 2 ^ n ≠ d := by
  intro same
  have set : tripleError.testBit 0 = true := rfl
  have clear : (2 ^ m).testBit 0 = false := Nat.testBit_two_pow_of_ne (by omega)
  have low : 0 < n := by omega
  have bit0 : (d ^^^ (tripleError ^^^ 2 ^ m) % 2 ^ n).testBit 0 = !d.testBit 0 := by
    rw [Nat.testBit_xor, Nat.testBit_mod_two_pow, Nat.testBit_xor, set, clear]
    simp [low]
  rw [same] at bit0
  exact Bool.self_ne_not _ bit0

section
variable {n c : Nat} (code : IsCode n c) {d : Nat} (hd : d < 2 ^ n)
include code hd

/-- A three-bit error is taken for an error of the overall parity bit. -/
theorem eccDecode_triple :
    eccDecode n c (eccEncode n c d ^^^ 2 ^ 0 ^^^ 2 ^ 1 ^^^ 2 ^ 2) =
      .fixed (d ^^^ (tripleError ^^^ 2 ^ (n + c)) % 2 ^ n) (eccEncode n c d ^^^ (tripleError ^^^ 2 ^ (n + c))) (n + c) := by
  rw [xor_tripleError]
  refine eccDecode_odd code hd (parity_tripleError code) (Nat.lt_succ_self _) ?_
  rw [syndrome_tripleError code, hamPos_overall]

/-- With the overall parity bit wrong too, the word looks good. -/
theorem eccDecode_quadruple :
    eccDecode n c (eccEncode n c d ^^^ 2 ^ 0 ^^^ 2 ^ 1 ^^^ 2 ^ 2 ^^^ 2 ^ (n + c)) = .good (d ^^^ (tripleError ^^^ 2 ^ (n + c)) % 2 ^ n) := by
  have even : parity (n + c + 1) (tripleError ^^^ 2 ^ (n + c)) = false := by simp [parity_xor, parity_tripleError code, parity_two_pow]
  have unseen : syndrome n c (tripleError ^^^ 2 ^ (n + c)) = 0 := by
    rw [syndrome_xor, syndrome_tripleError code, syndrome_two_pow code.check_pos, hamPos_overall, Nat.xor_self]
  rw [xor_tripleError, Nat.xor_assoc, eccDecode_even code hd even, if_pos unseen]

end

/-- Settles O60: a check of a stored word with an error pattern sees the pattern's own parity and syndrome. -/
theorem codeCorrectsAndDetects : Obligations.CodeCorrectsAndDetects := by
  intro n c d listed hd
  have code := isCode_of_mem listed
  have hn := code.three_le
  have changes := tripleError_changes hn (n + c) d (Nat.le_add_right n c)
  exact ⟨eccDecode_eccEncode code hd, fun i => eccDecode_single code hd, fun i j => eccDecode_double code hd,
    ⟨0, 1, 2, _, _, _, by decide, by decide, by omega, changes, eccDecode_triple code hd⟩,
    ⟨0, 1, 2, n + c, _, by decide, by decide, by omega, by omega, changes, eccDecode_quadruple code hd⟩⟩

end Sys2Proof.Machine
end

section
/-! SUPPORT. For O3: the accumulator set-up instructions are register operations, so each clause is the encoding's legality and its effect (R86, R87). -/

namespace Sys2Proof.Machine

section
variable (n : Fin 96) (d a b : BitVec 5) (p : BitVec 3) (mod : BitVec 8) (s : State)

theorem exec_aclr : exec (.aclr n d a b p mod) s = live s (issueRow s n.val (opAclr ⟨d, a, b, p, mod⟩) 0) := rfl
theorem exec_ald : exec (.ald n d a b p mod) s = live s (issueRow s n.val (opAld ⟨d, a, b, p, mod⟩) 0) := rfl
theorem exec_aldd : exec (.aldd n d a b p mod) s = live s (issueRow s n.val (opAldd ⟨d, a, b, p, mod⟩) 0) := rfl
theorem exec_aop : exec (.aop n d a b p mod) s = live s (issueRow s n.val (opAop ⟨d, a, b, p, mod⟩) 0) := rfl

end

/-! ### The operations of AOP (R87) -/

section
variable {x : XArgs}

theorem aopLane_mov (hx : x.mod = 0) (o t : Tile) (i : Nat) :
    aopLane x o t i = setAccvBit (putAcc t x.d.toNat i (getAcc o x.a.toNat i)) x.d.toNat i ((getAccv o x.a.toNat).getLsbD i) := by
  simp [aopLane, hx, fld]

theorem aopLane_add (hx : x.mod = 1) (o t : Tile) (i : Nat) :
    aopLane x o t i = accAdd t x.d.toNat i (getAcc o x.a.toNat i + getAcc o x.b.toNat i - getAcc t x.d.toNat i) := by
  simp [aopLane, hx, fld]

theorem aopLane_sub (hx : x.mod = 2) (o t : Tile) (i : Nat) :
    aopLane x o t i = accAdd t x.d.toNat i (getAcc o x.a.toNat i - getAcc o x.b.toNat i - getAcc t x.d.toNat i) := by
  simp [aopLane, hx, fld]

end

/-- The values of mod that AOP's entry does not reserve: move, add and subtract. -/
theorem aop_mod_cases {mod : BitVec 8} (h : mod.toNat < 3) : mod = 0 ∨ mod = 1 ∨ mod = 2 := by bv_omega

theorem aop_mod_legal {mod : BitVec 8} (h : mod.toNat < 3) : (modIn mod 3 && fld mod 1 0 != 3) = true := by
  obtain rfl | rfl | rfl := aop_mod_cases h <;> rfl

/-- Every lane of AOP, whichever of its three operations mod names. -/
theorem aopLane_eq {d a b : BitVec 5} {p : BitVec 3} {mod : BitVec 8} (h : mod.toNat < 3) (o t : Tile) (i : Nat) :
    aopLane ⟨d, a, b, p, mod⟩ o t i =
      let q := if mod = 1 then getAcc o a.toNat i + getAcc o b.toNat i else getAcc o a.toNat i - getAcc o b.toNat i
      if mod = 0 then setAccvBit (putAcc t d.toNat i (getAcc o a.toNat i)) d.toNat i ((getAccv o a.toNat).getLsbD i)
      else accAdd t d.toNat i (q - getAcc t d.toNat i) := by
  obtain rfl | rfl | rfl := aop_mod_cases h
  · exact aopLane_mov rfl o t i
  · exact aopLane_add rfl o t i
  · exact aopLane_sub rfl o t i

/-- Settles O3: every clause is a legal register operation with the stated effect; AOP's goes by its lane. -/
theorem accumulatorSetCompletes : Obligations.AccumulatorSetCompletes := by
  intro s n d a b p mod ready hd
  have single (r : Nat) : [r].Nodup := List.nodup_singleton r
  refine ⟨fun ha hb hp => ?aclr, fun hb hp => ?ald, fun ha hb hp => ?aldd, fun ha hb hmod => ?aop⟩
  case aclr => exact slotDone_regOp ready (exec_aclr ..) (by simp [okAcc, hd, ha, hb, hp]) (single _) fun _ _ => rfl
  case ald => exact slotDone_regOp ready (exec_ald ..) (by simp [okAcc, hd, hb, hp]) (single _) fun _ _ => rfl
  case aldd => exact slotDone_regOp ready (exec_aldd ..) (by simp [okAcc, okPair, hd, ha, hb, hp]) (single _) fun _ _ => rfl
  case aop =>
    have legal : (okAcc d && okAcc a && okAcc b && modIn mod 3 && fld mod 1 0 != 3) = true := by
      rw [Bool.and_assoc, aop_mod_legal hmod]
      simp [okAcc, hd, ha, hb]
    refine slotDone_regOp ready (exec_aop ..) legal (single _) fun _ t => ?_
    rw [aopF, funext₂ (aopLane_eq hmod (tileAt s n.val))]

end Sys2Proof.Machine
end
